-- ==== Sys2Proof/Word.lean ====
section
/-! DEFINITION. Word types of the device: what the manual treats as bits, and the sparse table
that holds everything the manual numbers. -/

namespace Sys2Proof

/-- A byte of memory (R4: data are little-endian bytes). -/
abbrev Byte := BitVec 8
/-- A general register, an address, a register of the device register space. -/
abbrev Word := BitVec 64
/-- One 128-byte cache line, byte 0 in bits [7:0] (R281). -/
abbrev Line := BitVec 1024
/-- A vector or mask register of 4,096 bits. -/
abbrev VReg := BitVec 4096
/-- One row of a tile, 256 bytes (R182). -/
abbrev TileRow := BitVec 2048
/-- One row of an accumulator plane, 256 words of 32 bits. -/
abbrev AccRow := BitVec 8192

/-- A sparse table: pairs of key and value, keys strictly rising; a key that is not listed holds
the table's default. -/
abbrev Tab (α : Type) := List (Nat × α)

end Sys2Proof
end

