-- ==== Sys2Proof/Syntax.lean ====
section
/-! DEFINITION. Syntax of the block: who a command concerns, the fields of an instruction word as
its encoding table gives them, the records an event carries, and `Instr`, one constructor per row of
opcode_table.json. A command that is an instruction names the thread that issues it and carries the
fields of its words that do not already choose the row, reserved fields included. -/

namespace Sys2Proof

/-! ### Names of parts -/

/-- A core by quadrant and logical number (R50): 0 to 31 compute, 32 and 33 control. -/
structure CoreRef where
  quad : BitVec 2
  core : BitVec 6
  deriving DecidableEq, Repr

/-- A thread of a core (R50): compute cores have 16, control cores 4. -/
structure Thr where
  quad : BitVec 2
  core : BitVec 6
  thr  : BitVec 4
  deriving DecidableEq, Repr

/-- An L2 bank of a quadrant (R282). -/
structure BankRef where
  quad : BitVec 2
  bank : BitVec 5
  deriving DecidableEq, Repr

/-- Who sends a register write from outside the threads: the host through BAR0, the debug port,
the board-management target (R538), or a thread whose store reached the device register space. -/
inductive Sender where
  | host
  | debug
  | board
  | thread (t : Thr)
  deriving DecidableEq, Repr

/-- An arbiter (R313, R434). -/
inductive ArbRef where
  | bank (q : BitVec 2) (b : BitVec 5)
  | hbm (q : BitVec 2) (ch : BitVec 6)
  | ddr (q : BitVec 2) (ch : BitVec 2)
  | pot (q : BitVec 2)
  | port (p : BitVec 4)
  deriving DecidableEq, Repr

/-- A break point of an arbiter (R316): the arbiter, and the requesters whose requests its resource cannot
serve in that cycle (R318). -/
structure ArbTurn where
  arb     : ArbRef
  blocked : BitVec 44
  deriving DecidableEq, Repr

/-- The taking of an exception (R96): the thread, and whether an emergency save that this causes meets a
fault (R105). -/
structure ExcTurn where
  thr : Thr
  bad : Bool
  deriving DecidableEq, Repr

/-! ### Instruction words -/

/-- The literal words of a long form (R62); `bad` is the reserved code 0b11. -/
inductive Lit where
  | none
  | one (w : BitVec 32)
  | two (lo hi : BitVec 32)
  | bad
  deriving DecidableEq, Repr

/-- A prefix word with its literals. -/
structure Pfx where
  lit : Lit
  x1 : BitVec 5
  x2 : BitVec 5
  x3 : BitVec 5
  xf : BitVec 9
  deriving DecidableEq, Repr

/-- An uncorrectable error of a structure that an instruction reads (R461, R463): in a word of L1, by
its virtual address (R305), in the tag of an L1 line, by an address in it (R306), in another structure,
by its index, or in a row of the tile that a t.st reads (R196) or of the accumulator plane that an
a.drain reads (R241); or a parity error in a copy: the cached translation of an address, a stream of the stride
detectors, or a micro-word of the microcode cache (R461). -/
inductive ReadErr where
  /-- a fault met by the emergency save that a fault of the instruction causes (R105) -/
  | save
  | word (va : BitVec 64)
  | index (n : BitVec 64)
  | tag (va : BitVec 64)
  | row (k : BitVec 8)
  | xlat (va : BitVec 64)
  | stride (n : BitVec 2)
  | ucode (upc : BitVec 16)
  deriving DecidableEq, Repr

/-- The issue of a micro-word (R83): whether the word read has an uncorrectable error (R79), the error that
what its operations read turns out to hold (R80), and the threads of the core that latencies make not ready in
its cycle (R33). -/
structure MicroTurn where
  bad  : Bool
  ue   : Option ReadErr
  busy : BitVec 16
  deriving DecidableEq, Repr

/-- The issue of an instruction: its thread, its prefix if it is in the long form, the error that what it
reads turns out to hold, the threads of its core that latencies make not ready in its cycle (R33), and the
word found where its base word is expected, where that word does not
spell the row: one that no table defines, or another prefix (R60, R63). -/
structure Iss where
  thr  : Thr
  long : Option Pfx
  ue   : Option ReadErr
  busy : BitVec 16
  code : Option (BitVec 32)
  deriving DecidableEq, Repr

/-- reg format of majors 0x01, 0x0B and 0x0F: W in FN[10], FN[9:4] reserved. -/
structure RegForm where
  d : BitVec 5
  a : BitVec 5
  b : BitVec 5
  w32 : Bool
  rsv : BitVec 6
  deriving DecidableEq, Repr

/-- add: register form, immediate .i64 (major 0x02) or immediate .i32 (major 0x0A). -/
inductive AddForm where
  | reg (r : RegForm)
  | imm (w32 : Bool) (d a : BitVec 5) (imm : BitVec 16)
  deriving DecidableEq, Repr

/-- and, or, xor, slt: register form or immediate .i64. -/
inductive LogicForm where
  | reg (r : RegForm)
  | imm (d a : BitVec 5) (imm : BitVec 16)
  deriving DecidableEq, Repr

/-- Shifts and rotates: register form, or the immediate form of major 0x06. -/
inductive ShiftForm where
  | reg (r : RegForm)
  | imm (d a : BitVec 5) (rsv : BitVec 2) (amount : BitVec 6)
  deriving DecidableEq, Repr

/-- imm format of li and lui; `a` is not used by li and lui. -/
structure ImmForm where
  d : BitVec 5
  a : BitVec 5
  imm : BitVec 16
  deriving DecidableEq, Repr

/-- Major 0x0C: FN[7:3] reserved, FN[2] reflected form, FN[1:0] width. -/
structure BitForm where
  d : BitVec 5
  a : BitVec 5
  b : BitVec 5
  rsv : BitVec 5
  refl : Bool
  n : BitVec 2
  deriving DecidableEq, Repr

/-- mem format: `d` is the destination of a load and the source of a store. -/
structure MemForm where
  d : BitVec 5
  a : BitVec 5
  kind : BitVec 3
  off : BitVec 13
  deriving DecidableEq, Repr

/-- br format. -/
structure BrForm where
  a : BitVec 5
  b : BitVec 5
  off : BitVec 16
  deriving DecidableEq, Repr

/-- jmp format. -/
structure JmpForm where
  off : BitVec 26
  deriving DecidableEq, Repr

/-- Major 0x18: d, b and FN[10:2] are fixed at 0. -/
structure JrForm where
  d : BitVec 5
  a : BitVec 5
  b : BitVec 5
  rsv : BitVec 9
  deriving DecidableEq, Repr

/-- Majors 0x19 and 0x1A: FN[10:4] reserved. -/
structure FpForm where
  f64 : Bool
  d : BitVec 5
  a : BitVec 5
  b : BitVec 5
  rsv : BitVec 7
  deriving DecidableEq, Repr

/-- Major 0x1B: FN[5:4] format, FN[3:2] reserved. -/
structure FmaForm where
  fmt : BitVec 2
  rsv : BitVec 2
  d : BitVec 5
  a : BitVec 5
  b : BitVec 5
  c : BitVec 5
  deriving DecidableEq, Repr

/-- Major 0x1C: FN[10:8] reserved, source and destination codes. -/
structure CvtForm where
  d : BitVec 5
  a : BitVec 5
  b : BitVec 5
  rsv : BitVec 3
  src : BitVec 4
  dst : BitVec 4
  deriving DecidableEq, Repr

/-- ctl format. -/
structure CtlForm where
  d : BitVec 5
  a : BitVec 5
  crn : BitVec 12
  deriving DecidableEq, Repr

/-- c.wr of one named control register. -/
structure CwrForm where
  d : BitVec 5
  a : BitVec 5
  deriving DecidableEq, Repr

/-- Major 0x38: bits [5:4] reserved, slot in [3:0]. -/
structure CustForm where
  d : BitVec 5
  a : BitVec 5
  b : BitVec 5
  c : BitVec 5
  rsv : BitVec 2
  slot : BitVec 4
  deriving DecidableEq, Repr

/-- vec format of majors 0x20 and 0x22: FN[6:4] is the class. -/
structure VClassForm where
  vd : BitVec 5
  va : BitVec 5
  vb : BitVec 5
  msk : Bool
  mreg : BitVec 3
  cls : BitVec 3
  deriving DecidableEq, Repr

/-- vec format of the bit instructions of major 0x21. -/
structure VBitForm where
  vd : BitVec 5
  va : BitVec 5
  vb : BitVec 5
  msk : Bool
  mreg : BitVec 3
  refl : Bool
  n : BitVec 2
  deriving DecidableEq, Repr

/-- vec format of the mask instructions. -/
structure VMaskForm where
  vd : BitVec 5
  va : BitVec 5
  vb : BitVec 5
  msk : Bool
  mreg : BitVec 3
  deriving DecidableEq, Repr

/-- vec format of majors 0x23 to 0x26: FN[3:0] is a format code of R113. -/
structure VFmtForm where
  vd : BitVec 5
  va : BitVec 5
  vb : BitVec 5
  msk : Bool
  mreg : BitVec 3
  fmt : BitVec 4
  deriving DecidableEq, Repr

/-- Major 0x28: tile in FN[7:5], R or S in FN[4], format in FN[3:0]. -/
structure TileOwnForm where
  d : BitVec 5
  a : BitVec 5
  b : BitVec 5
  tile : BitVec 3
  flag : Bool
  fmt : BitVec 4
  deriving DecidableEq, Repr

/-- Major 0x29 (quad format): `d` holds the tile number. -/
structure TileMemForm where
  d : BitVec 5
  a : BitVec 5
  b : BitVec 5
  c : BitVec 5
  deriving DecidableEq, Repr

/-- Major 0x2C: tile in FN[7:5], R, S or H in FN[4], D in FN[3], FN[2:0] reserved. -/
structure ArrOwnForm where
  d : BitVec 5
  a : BitVec 5
  b : BitVec 5
  tile : BitVec 3
  flag : Bool
  dbit : Bool
  rsv : BitVec 3
  deriving DecidableEq, Repr

/-- Major 0x2D, a.pass. -/
structure PassForm where
  d : BitVec 5
  a : BitVec 5
  b : BitVec 5
  c : BitVec 5
  src : Bool
  ax : Bool
  op : BitVec 3
  sw : Bool
  deriving DecidableEq, Repr

/-- Major 0x2E, a.drain. -/
structure DrainForm where
  d : BitVec 5
  a : BitVec 5
  b : BitVec 5
  c : BitVec 5
  dst : Bool
  clr : Bool
  rsv : BitVec 4
  deriving DecidableEq, Repr

/-- Majors 0x30 and 0x31: the FN bits the row does not fix. -/
structure SyncForm where
  d : BitVec 5
  a : BitVec 5
  b : BitVec 5
  rsv : BitVec 8
  deriving DecidableEq, Repr

/-! ### Records that events carry -/

/-- An uncorrectable error met while a pass row is applied (R242): plane 0 to 4, row, column. -/
structure PlaneErr where
  plane : BitVec 3
  row : BitVec 8
  col : BitVec 8
  deriving DecidableEq, Repr

/-- A parity or data error met by an access at its home bank (R305, R307): of the accessed line's tag,
with its state parity good or not; of the tag in another way of the set; of data words. -/
inductive L2Err where
  | none
  | tagClean
  | tagState
  | tagWay (way : BitVec 5) (stateBad : Bool)
  | data (bad : BitVec 16)
  deriving DecidableEq, Repr

/-- Packet kinds (R413). -/
inductive PktType where
  | put | putAcc | getReq | getResp | writeAck | sig | sigAck | red | redAbort | mgmt
  deriving DecidableEq, Repr

/-- A packet: its header (R413) and its data bytes. -/
structure Packet where
  type : PktType
  acc : BitVec 4
  fmt : BitVec 4
  len : BitVec 16
  dst : BitVec 20
  src : BitVec 20
  sq : BitVec 8
  tag : BitVec 32
  addr : BitVec 48
  obj : BitVec 16
  value : BitVec 32
  status : BitVec 8
  data : List (BitVec 8)
  deriving DecidableEq, Repr

/-- A received group (R394, R395, R397): the bytes of its link flit and of its payload flits as decoding
left them, the codewords that could not be corrected, and the symbols that were. -/
structure Group where
  link : List (BitVec 8)
  flits : List (List (BitVec 8))
  fecu : BitVec 16
  fecc : BitVec 32
  deriving DecidableEq, Repr

/-- A report to the safety controller (R466). -/
structure Report where
  code : BitVec 16
  unit : BitVec 16
  loc : BitVec 64
  info : BitVec 64
  deriving DecidableEq, Repr

/-- Parts of the analogue table (R482). -/
inductive AnaPart where
  | serdes | phy | vref | temp | osc | bref
  deriving DecidableEq, Repr

/-- What training found on an HBM4 stack or a DDR5 channel (R498, MC_HBM_INFO, MC_DDR_INFO). -/
structure MemInfo where
  present : Bool
  failed : Bool
  ident : BitVec 64
  mrdimm : Bool
  dpc2 : Bool
  rate : BitVec 16
  cap : BitVec 16
  deriving DecidableEq, Repr

/-- A temperature sensor, die × 32 + index, and a reading of it in units of 0.125 °C (R548). -/
structure SensorTemp where
  sensor : BitVec 8
  temp : BitVec 16
  deriving DecidableEq, Repr

/-- Coolant temperatures in units of 0.125 °C (R547). -/
structure Coolant where
  inlet : BitVec 16
  outlet : BitVec 16
  deriving DecidableEq, Repr

/-- An SPDM request (R525): its bytes as they were received, and what they say: certificate slot, measurement
index, whether a signature is asked, the nonce, the requester's context, and the window of a certificate read. -/
structure SpdmReq where
  msg : List (BitVec 8)
  slot : BitVec 8
  index : BitVec 8
  signed : Bool
  nonce : BitVec 256
  context : BitVec 64
  off : BitVec 16
  len : BitVec 16
  deriving DecidableEq, Repr

/-- Instructions of the TAP (R490), the debug port's DBG instruction among them. -/
inductive TapOp where
  | bypass
  | idcode
  | sample
  | extest
  | scan
  | dbgClaim (t : Thr)
  | dbgRelease (t : Thr)
  | dbgStop (t : Thr)
  | dbgRun (t : Thr)
  | dbgSync (set : Bool) (obj : BitVec 16) (val : BitVec 32)
  deriving DecidableEq, Repr

/-! ### The commands -/

/-- The commands of the block, one constructor per row of opcode_table.json. -/
inductive Instr where
  /-- REGISTER_WRITE (R6). A write to a register that has no row of its own takes effect field by field under its access code, with reserved bits discarded. -/
  | registerWrite (src : Sender) (off : BitVec 28) (size : BitVec 4) (val : BitVec 64)
  /-- ADD (R66). Integer add of registers or of a register and an immediate, wrapping at the selected width. -/
  | add (i : Iss) (f : AddForm)
  /-- SUB (R66). Integer subtract, wrapping at the selected width. -/
  | sub (i : Iss) (f : RegForm)
  /-- AND (R71). Bitwise and with a register or an immediate. -/
  | and (i : Iss) (f : LogicForm)
  /-- OR (R71). Bitwise or with a register or an immediate. -/
  | or (i : Iss) (f : LogicForm)
  /-- XOR (R71). Bitwise exclusive-or with a register or an immediate. -/
  | xor (i : Iss) (f : LogicForm)
  /-- SLL (R67). Shift left by a register or immediate amount modulo the width. -/
  | sll (i : Iss) (f : ShiftForm)
  /-- SRL (R67). Logical shift right by a register or immediate amount. -/
  | srl (i : Iss) (f : ShiftForm)
  /-- SRA (R67). Arithmetic shift right by a register or immediate amount. -/
  | sra (i : Iss) (f : ShiftForm)
  /-- ROTL (R67). Rotate left by a register or immediate amount. -/
  | rotl (i : Iss) (f : ShiftForm)
  /-- SLT (R71). Set if less than, signed, against a register or an immediate. -/
  | slt (i : Iss) (f : LogicForm)
  /-- SLTU (R71). Set if less than, unsigned. -/
  | sltu (i : Iss) (f : RegForm)
  /-- MIN (R71). Signed integer minimum. -/
  | min (i : Iss) (f : RegForm)
  /-- MAX (R71). Signed integer maximum. -/
  | max (i : Iss) (f : RegForm)
  /-- MINU (R71). Unsigned integer minimum. -/
  | minu (i : Iss) (f : RegForm)
  /-- MAXU (R71). Unsigned integer maximum. -/
  | maxu (i : Iss) (f : RegForm)
  /-- LI (R62). Load a sign-extended immediate or literal into a register. -/
  | li (i : Iss) (f : ImmForm)
  /-- LUI (R71). Load a sign-extended immediate shifted left by 16. -/
  | lui (i : Iss) (f : ImmForm)
  /-- MUL (R66). Integer multiply giving the low bits of the product. -/
  | mul (i : Iss) (f : RegForm)
  /-- MULH (R71). High half of the signed product. -/
  | mulh (i : Iss) (f : RegForm)
  /-- MULHU (R71). High half of the unsigned product. -/
  | mulhu (i : Iss) (f : RegForm)
  /-- DIV (R68). Signed division on the core's single divide unit. -/
  | div (i : Iss) (f : RegForm)
  /-- DIVU (R68). Unsigned division on the divide unit. -/
  | divu (i : Iss) (f : RegForm)
  /-- REM (R68). Signed remainder on the divide unit. -/
  | rem (i : Iss) (f : RegForm)
  /-- REMU (R68). Unsigned remainder on the divide unit. -/
  | remu (i : Iss) (f : RegForm)
  /-- CLZ (R74). Count leading zero bits. -/
  | clz (i : Iss) (f : BitForm)
  /-- CTZ (R74). Count trailing zero bits. -/
  | ctz (i : Iss) (f : BitForm)
  /-- POPC (R74). Count one bits. -/
  | popc (i : Iss) (f : BitForm)
  /-- PAR (R74). Parity of the low n bits. -/
  | par (i : Iss) (f : BitForm)
  /-- BREV (R74). Reverse the bits within each aligned n-bit field. -/
  | brev (i : Iss) (f : BitForm)
  /-- CRC_S (R72). One normal or reflected CRC step of n input bits using CRCPOLY. -/
  | crcS (i : Iss) (f : BitForm)
  /-- LD (R69). Scalar load of the size and sign that KIND gives, which may miss in L1. -/
  | ld (i : Iss) (f : MemForm)
  /-- ST (R286). Scalar store that updates a present L1 line and goes on to the home bank. -/
  | st (i : Iss) (f : MemForm)
  /-- AMO_ADD (R287). Atomic add at the home bank, returning the old value. -/
  | amoAdd (i : Iss) (f : RegForm)
  /-- AMO_SWAP (R287). Atomic swap at the home bank. -/
  | amoSwap (i : Iss) (f : RegForm)
  /-- AMO_CAS (R71). Atomic compare-and-swap at the home bank against the value in d. -/
  | amoCas (i : Iss) (f : RegForm)
  /-- AMO_MIN (R287). Atomic signed minimum at the home bank. -/
  | amoMin (i : Iss) (f : RegForm)
  /-- AMO_MAX (R287). Atomic signed maximum at the home bank. -/
  | amoMax (i : Iss) (f : RegForm)
  /-- AMO_MINU (R287). Atomic unsigned minimum at the home bank. -/
  | amoMinu (i : Iss) (f : RegForm)
  /-- AMO_MAXU (R287). Atomic unsigned maximum at the home bank. -/
  | amoMaxu (i : Iss) (f : RegForm)
  /-- BEQ (R34). Branch if equal. -/
  | beq (i : Iss) (f : BrForm)
  /-- BNE (R34). Branch if not equal. -/
  | bne (i : Iss) (f : BrForm)
  /-- BLT (R34). Branch if less than, signed. -/
  | blt (i : Iss) (f : BrForm)
  /-- BGE (R34). Branch if greater than or equal, signed. -/
  | bge (i : Iss) (f : BrForm)
  /-- BLTU (R34). Branch if less than, unsigned. -/
  | bltu (i : Iss) (f : BrForm)
  /-- BGEU (R34). Branch if greater than or equal, unsigned. -/
  | bgeu (i : Iss) (f : BrForm)
  /-- J (R59). Jump by a signed word offset. -/
  | j (i : Iss) (f : JmpForm)
  /-- CALL (R59). Jump by a word offset, writing the return address to g30. -/
  | call (i : Iss) (f : JmpForm)
  /-- JR (R61). Jump to the address in a register. -/
  | jr (i : Iss) (f : JrForm)
  /-- CALLR (R61). Call the address in a register. -/
  | callr (i : Iss) (f : JrForm)
  /-- RET (R61). Return to the address in g30. -/
  | ret (i : Iss) (f : JrForm)
  /-- FP_ADD (R114). FP32 or FP64 addition rounded by FRM. -/
  | fpAdd (i : Iss) (f : FpForm)
  /-- FP_SUB (R114). FP subtraction. -/
  | fpSub (i : Iss) (f : FpForm)
  /-- FP_MUL (R114). FP multiplication. -/
  | fpMul (i : Iss) (f : FpForm)
  /-- FP_DIV (R114). FP division. -/
  | fpDiv (i : Iss) (f : FpForm)
  /-- FP_SQRT (R114). FP square root. -/
  | fpSqrt (i : Iss) (f : FpForm)
  /-- FP_MIN (R119). FP minimumNumber. -/
  | fpMin (i : Iss) (f : FpForm)
  /-- FP_MAX (R119). FP maximumNumber. -/
  | fpMax (i : Iss) (f : FpForm)
  /-- FP_CMP_EQ (R120). FP equality compare. -/
  | fpCmpEq (i : Iss) (f : FpForm)
  /-- FP_CMP_LT (R120). FP less-than compare. -/
  | fpCmpLt (i : Iss) (f : FpForm)
  /-- FP_CMP_LE (R120). FP less-or-equal compare. -/
  | fpCmpLe (i : Iss) (f : FpForm)
  /-- FP_SGNJ (R120). Sign injection. -/
  | fpSgnj (i : Iss) (f : FpForm)
  /-- FP_SGNJN (R120). Negated sign injection. -/
  | fpSgnjn (i : Iss) (f : FpForm)
  /-- FP_SGNJX (R120). Exclusive-or sign injection. -/
  | fpSgnjx (i : Iss) (f : FpForm)
  /-- FMA (R117). Fused a × b + c. -/
  | fma (i : Iss) (f : FmaForm)
  /-- FMS (R117). Fused a × b − c. -/
  | fms (i : Iss) (f : FmaForm)
  /-- FNMA (R117). Fused −(a × b) + c. -/
  | fnma (i : Iss) (f : FmaForm)
  /-- FNMS (R117). Fused −(a × b) − c. -/
  | fnms (i : Iss) (f : FmaForm)
  /-- CVT (R136). Scalar conversion between f64, f32, i64, i32, u64 and u32. -/
  | cvt (i : Iss) (f : CvtForm)
  /-- CLASS (R71). Classify an FP value into a one-hot code. -/
  | fclass (i : Iss) (f : CvtForm)
  /-- C_RD (R58). Read a per-thread control register, checking its number and the ring. -/
  | cRd (i : Iss) (f : CtlForm)
  /-- C_WR (R58). Write a per-thread control register that has no write row of its own. -/
  | cWr (i : Iss) (f : CtlForm)
  /-- VL_WRITE (R153). A c.wr to VL, refused when the operand exceeds 4,096. -/
  | vlWrite (i : Iss) (f : CwrForm)
  /-- FRM_WRITE (R118). A c.wr to FRM, refused for a reserved rounding mode. -/
  | frmWrite (i : Iss) (f : CwrForm)
  /-- FFLAGS_WRITE (R121). A c.wr to FFLAGS that replaces all earlier flags and waits for running passes. -/
  | fflagsWrite (i : Iss) (f : CwrForm)
  /-- PFCTL_WRITE (R302). A c.wr to PFCTL setting the prefetch depth, with reserved values refused. -/
  | pfctlWrite (i : Iss) (f : CwrForm)
  /-- TCFG_WRITE (R190). A serialising c.wr to TCFG that waits until no instruction names an affected tile. -/
  | tcfgWrite (i : Iss) (f : CwrForm)
  /-- TCFG_APPLY (R190). The waiting TCFG write applies all changed tile formats in one array cycle. -/
  | tcfgApply (t : Thr)
  /-- C_GATE (R88). Call through a gate descriptor after its checks. -/
  | cGate (i : Iss) (f : CtlForm)
  /-- C_RET (R89). Pop a frame, or restore from the emergency frame when OCC is set. -/
  | cRet (i : Iss) (f : CtlForm)
  /-- C_ISYNC (R70). Discard the core's instruction and microcode caches. -/
  | cIsync (i : Iss) (f : CtlForm)
  /-- C_BRK (R92). Debug breakpoint. -/
  | cBrk (i : Iss) (f : CtlForm)
  /-- C_NOP (R71). No operation. -/
  | cNop (i : Iss) (f : CtlForm)
  /-- C_PF (R304). Prefetch one line into L1 or L2. -/
  | cPf (i : Iss) (f : CtlForm)
  /-- CUST (R76). Custom instruction that checks its slot and ring and starts its microcode routine. -/
  | cust (i : Iss) (f : CustForm)
  /-- MICRO_WORD (R83). One micro-word issues in a thread slot and performs its operations and sequencing. -/
  | microWord (t : Thr) (m : MicroTurn)
  /-- EXCEPTION_TAKE (R96). At a boundary with EM clear, the thread takes its pending MASKED_FAULT, deferred condition or lowest interrupt. -/
  | exceptionTake (x : ExcTurn)
  /-- RESUME (R110). A write of CORE_EFRAME_CTL.RESUME releases a halted thread from its emergency frame. -/
  | resume (src : Sender) (t : Thr)
  /-- THREAD_START (R38). A CORE_THR_EN bit rising for an OFF thread starts it at ring 1. -/
  | threadStart (src : Sender) (t : Thr)
  /-- THREAD_STOP (R39). A CORE_THR_EN bit falling stops issue from the thread. -/
  | threadStop (src : Sender) (t : Thr)
  /-- THREAD_OFF (R39). The stopped thread reaches a boundary and enters OFF, releasing tiles, array and waits. -/
  | threadOff (t : Thr)
  /-- TIMER_EXPIRE (R44). CORE_TIMER steps from 1 to 0, sets PEND and reloads or stops. -/
  | timerExpire (c : CoreRef)
  /-- CORE_TIMER_WRITE (R46). A write to CORE_TIMER sets the count. -/
  | coreTimerWrite (src : Sender) (c : CoreRef) (val : BitVec 64) (atZero : Bool)
  /-- V_ADD (R160). Vector integer add. -/
  | vAdd (i : Iss) (f : VClassForm)
  /-- V_SUB (R160). Vector integer subtract. -/
  | vSub (i : Iss) (f : VClassForm)
  /-- V_AND (R160). Vector and. -/
  | vAnd (i : Iss) (f : VClassForm)
  /-- V_OR (R160). Vector or. -/
  | vOr (i : Iss) (f : VClassForm)
  /-- V_XOR (R160). Vector exclusive-or. -/
  | vXor (i : Iss) (f : VClassForm)
  /-- V_SLL (R160). Vector shift left. -/
  | vSll (i : Iss) (f : VClassForm)
  /-- V_SRL (R160). Vector logical shift right. -/
  | vSrl (i : Iss) (f : VClassForm)
  /-- V_SRA (R160). Vector arithmetic shift right. -/
  | vSra (i : Iss) (f : VClassForm)
  /-- V_MIN (R160). Vector signed minimum. -/
  | vMin (i : Iss) (f : VClassForm)
  /-- V_MAX (R160). Vector signed maximum. -/
  | vMax (i : Iss) (f : VClassForm)
  /-- V_MINU (R160). Vector unsigned minimum. -/
  | vMinu (i : Iss) (f : VClassForm)
  /-- V_MAXU (R160). Vector unsigned maximum. -/
  | vMaxu (i : Iss) (f : VClassForm)
  /-- V_CMP_EQ (R160). Vector integer equality into a mask. -/
  | vCmpEq (i : Iss) (f : VClassForm)
  /-- V_CMP_NE (R160). Vector integer inequality into a mask. -/
  | vCmpNe (i : Iss) (f : VClassForm)
  /-- V_CMP_LT (R160). Vector signed less-than into a mask. -/
  | vCmpLt (i : Iss) (f : VClassForm)
  /-- V_CMP_LTU (R160). Vector unsigned less-than into a mask. -/
  | vCmpLtu (i : Iss) (f : VClassForm)
  /-- V_CRC_S (R75). Per-element CRC step. -/
  | vCrcS (i : Iss) (f : VBitForm)
  /-- V_PAR (R75). Per-element parity. -/
  | vPar (i : Iss) (f : VBitForm)
  /-- V_BREV (R75). Per-element bit reversal. -/
  | vBrev (i : Iss) (f : VBitForm)
  /-- M_AND (R172). Mask and. -/
  | mAnd (i : Iss) (f : VMaskForm)
  /-- M_OR (R172). Mask or. -/
  | mOr (i : Iss) (f : VMaskForm)
  /-- M_NOT (R172). Mask not. -/
  | mNot (i : Iss) (f : VMaskForm)
  /-- M_POP (R172). Count set mask bits. -/
  | mPop (i : Iss) (f : VMaskForm)
  /-- M_FIRST (R172). Index of the lowest set mask bit. -/
  | mFirst (i : Iss) (f : VMaskForm)
  /-- V_FMA (R161). Vector fused va × vb + vd. -/
  | vFma (i : Iss) (f : VClassForm)
  /-- V_FMS (R161). Vector fused va × vb − vd. -/
  | vFms (i : Iss) (f : VClassForm)
  /-- V_FNMA (R161). Vector fused −(va × vb) + vd. -/
  | vFnma (i : Iss) (f : VClassForm)
  /-- V_FNMS (R161). Vector fused −(va × vb) − vd. -/
  | vFnms (i : Iss) (f : VClassForm)
  /-- V_MUL (R161). Vector float multiply. -/
  | vMul (i : Iss) (f : VClassForm)
  /-- V_ADD_F (R161). Vector float add. -/
  | vAddF (i : Iss) (f : VClassForm)
  /-- V_SUB_F (R161). Vector float subtract. -/
  | vSubF (i : Iss) (f : VClassForm)
  /-- V_MAX_F (R161). Vector float maximum. -/
  | vMaxF (i : Iss) (f : VClassForm)
  /-- V_MIN_F (R161). Vector float minimum. -/
  | vMinF (i : Iss) (f : VClassForm)
  /-- V_CMP_EQ_F (R161). Vector float equality into a mask. -/
  | vCmpEqF (i : Iss) (f : VClassForm)
  /-- V_CMP_LT_F (R161). Vector float less-than into a mask. -/
  | vCmpLtF (i : Iss) (f : VClassForm)
  /-- V_CMP_LE_F (R161). Vector float less-or-equal into a mask. -/
  | vCmpLeF (i : Iss) (f : VClassForm)
  /-- V_CVT (R164). Vector format conversion. -/
  | vCvt (i : Iss) (f : VFmtForm)
  /-- V_WMUL (R162). Vector widening multiply. -/
  | vWmul (i : Iss) (f : VFmtForm)
  /-- V_DOT4 (R163). Four-way 8-bit dot product into 32-bit elements. -/
  | vDot4 (i : Iss) (f : VFmtForm)
  /-- V_DOT2 (R163). Two-way 16-bit dot product into 32-bit elements. -/
  | vDot2 (i : Iss) (f : VFmtForm)
  /-- V_RNG (R165). Counter-based random draws. -/
  | vRng (i : Iss) (f : VFmtForm)
  /-- V_EXP_STEP (R167). Approximate 2^x. -/
  | vExpStep (i : Iss) (f : VFmtForm)
  /-- V_RCP_STEP (R166). Approximate reciprocal. -/
  | vRcpStep (i : Iss) (f : VFmtForm)
  /-- V_PERM (R168). Permute by indices. -/
  | vPerm (i : Iss) (f : VFmtForm)
  /-- V_SLIDE_UP (R168). Slide elements up. -/
  | vSlideUp (i : Iss) (f : VFmtForm)
  /-- V_SLIDE_DN (R168). Slide elements down. -/
  | vSlideDn (i : Iss) (f : VFmtForm)
  /-- V_BCAST (R168). Broadcast a scalar. -/
  | vBcast (i : Iss) (f : VFmtForm)
  /-- V_RED (R169). Tree reduction into element 0. -/
  | vRed (i : Iss) (f : VFmtForm)
  /-- V_SORT_KEY (R171). Sort keys. -/
  | vSortKey (i : Iss) (f : VFmtForm)
  /-- V_SORT_IDX (R171). Sorted source indices. -/
  | vSortIdx (i : Iss) (f : VFmtForm)
  /-- V_MERGE (R171). Merge two sorted vectors. -/
  | vMerge (i : Iss) (f : VFmtForm)
  /-- V_ISECT (R171). Count matches in another vector. -/
  | vIsect (i : Iss) (f : VFmtForm)
  /-- V_UNIQ (R171). Keep the first of each run of equal elements. -/
  | vUniq (i : Iss) (f : VFmtForm)
  /-- V_TOPK (R171). Indices of the k highest-ranked elements. -/
  | vTopk (i : Iss) (f : VFmtForm)
  /-- V_LD (R173). Vector unit-stride load. -/
  | vLd (i : Iss) (f : VFmtForm)
  /-- V_ST (R173). Vector unit-stride store. -/
  | vSt (i : Iss) (f : VFmtForm)
  /-- V_LDS (R173). Vector strided load. -/
  | vLds (i : Iss) (f : VFmtForm)
  /-- V_STS (R173). Vector strided store. -/
  | vSts (i : Iss) (f : VFmtForm)
  /-- V_LDX (R173). Vector indexed load. -/
  | vLdx (i : Iss) (f : VFmtForm)
  /-- V_STX (R175). Vector indexed store. -/
  | vStx (i : Iss) (f : VFmtForm)
  /-- V_LDD (R173). Vector load through a tensor descriptor. -/
  | vLdd (i : Iss) (f : VFmtForm)
  /-- V_STD (R259). Vector store through a tensor descriptor. -/
  | vStd (i : Iss) (f : VFmtForm)
  /-- T_CLAIM (R184). Claim, restore or pre-empt a tile. -/
  | tClaim (i : Iss) (f : TileOwnForm)
  /-- T_FREE (R187). Release a tile, saving it when S = 1. -/
  | tFree (i : Iss) (f : TileOwnForm)
  /-- T_ZERO (R187). Zero a tile and mark it not in use. -/
  | tZero (i : Iss) (f : TileOwnForm)
  /-- TILE_ZERO_DONE (R187). The zeroing of a tile finishes. -/
  | tileZeroDone (c : CoreRef) (tile : BitVec 3)
  /-- T_LD (R194). Load tile rows. -/
  | tLd (i : Iss) (f : TileMemForm)
  /-- T_ST (R194). Store tile rows. -/
  | tSt (i : Iss) (f : TileMemForm)
  /-- T_LDT (R201). Transposed tile load. -/
  | tLdt (i : Iss) (f : TileMemForm)
  /-- T_LD_DESC (R268). Tile load through a descriptor. -/
  | tLdDesc (i : Iss) (f : TileMemForm)
  /-- T_ST_DESC (R268). Tile store through a descriptor. -/
  | tStDesc (i : Iss) (f : TileMemForm)
  /-- T_LDT_DESC (R206). Transposed tile load through a descriptor. -/
  | tLdtDesc (i : Iss) (f : TileMemForm)
  /-- A_CLAIM (R213). Claim, restore or pre-empt the array. -/
  | aClaim (i : Iss) (f : ArrOwnForm)
  /-- ARRAY_FORCED_SAVE (R215). A write of CORE_ARRAY_CTL.SAVE saves and frees a thread's array. -/
  | arrayForcedSave (src : Sender) (t : Thr)
  /-- A_FREE (R217). Release the array. -/
  | aFree (i : Iss) (f : ArrOwnForm)
  /-- ARRAY_ZERO_DONE (R217). The zeroing of the array finishes. -/
  | arrayZeroDone (c : CoreRef)
  /-- A_LDW (R221). Start loading the back plane from a tile. -/
  | aLdw (i : Iss) (f : ArrOwnForm)
  /-- A_LDW_DONE (R221). The back-plane load completes or ends on an error. -/
  | aLdwDone (c : CoreRef) (ue : Option (BitVec 8))
  /-- A_SWAP (R223). Exchange the front and back planes. -/
  | aSwap (i : Iss) (f : ArrOwnForm)
  /-- A_PASS (R227). Check, capture and accept a pass, or restart a stopped one. -/
  | aPass (i : Iss) (f : PassForm)
  /-- PASS_ROW_ENTER (R228). A row whose data are available enters the array. -/
  | passRowEnter (c : CoreRef)
  /-- PASS_ROW_OUTPUT (R228). A row's output leaves, is applied and is checked, and the last one completes the pass. -/
  | passRowOutput (c : CoreRef) (upset : List (BitVec 8 × Int))
  /-- PASS_STOP (R242). A source, destination or plane error stops the pass at a row. -/
  | passStop (c : CoreRef) (ue : Option PlaneErr)
  /-- A_DRAIN (R241). Drain accumulator rows to a tile or a descriptor. -/
  | aDrain (i : Iss) (f : DrainForm)
  /-- STREAM_PORT_FETCH (R269). A stream-port line arrives in its buffer. -/
  | streamPortFetch (c : CoreRef)
  /-- COMBINING_UPDATE (R278). An accumulating line update merges into or takes a window entry. -/
  | combiningUpdate (b : BankRef)
  /-- COMBINING_SEND (R279). A window entry is sent to the bank on age or another trigger. -/
  | combiningSend (b : BankRef)
  /-- ACCUMULATE_APPLY (R280). The bank applies a window entry. -/
  | accumulateApply (b : BankRef)
  /-- ARB_GRANT (R316). An arbiter grants a unit at a break point. -/
  | arbGrant (a : ArbTurn)
  /-- TRUMP (R317). A request that has waited more than T cycles becomes trumped. -/
  | trump (a : ArbRef) (req : BitVec 6)
  /-- L2_ACCESS (R284). A request is served at its home bank. -/
  | l2Access (b : BankRef) (err : L2Err)
  /-- L2_FILL (R288). A line from memory arrives and is allocated. -/
  | l2Fill (b : BankRef) (bad : BitVec 16)
  /-- L1_INVALIDATE (R289). An invalidation reaches an L1 and is acknowledged. -/
  | l1Invalidate (c : CoreRef)
  /-- INVALIDATE_ACK (R287). The last acknowledgement completes a write's performance. -/
  | invalidateAck (c : CoreRef) (line : BitVec 39)
  /-- L1_FILL (R289). A fill arrives at an L1 and releases its waiting loads. -/
  | l1Fill (c : CoreRef)
  /-- WAY_POWER_DOWN (R310). Clearing an ON bit starts cleaning the way. -/
  | wayPowerDown (src : Sender) (q : BitVec 2) (way : BitVec 5)
  /-- WAY_CLEAN_DONE (R310). Cleaning ends and the way powers off. -/
  | wayCleanDone (q : BitVec 2)
  /-- WAY_POWER_UP (R312). Setting an ON bit powers a way up. -/
  | wayPowerUp (src : Sender) (q : BitVec 2) (way : BitVec 5)
  /-- WAY_POWER_UP_DONE (R312). The way rejoins the masks after 1,024 L2 cycles. -/
  | wayPowerUpDone (q : BitVec 2)
  /-- L2_LOST_CLR (R308). A write of L2_LOST.CLR clears the lost marks. -/
  | l2LostClr (src : Sender) (q : BitVec 2)
  /-- MMU_INVAL (R326). A write of MMU_INVAL.GO starts an invalidation. -/
  | mmuInval (src : Sender) (val : BitVec 64)
  /-- MMU_INVAL_DONE (R326). The invalidation completes and BUSY clears. -/
  | mmuInvalDone
  /-- WINDOW_ALLOC (R333). A write to an unmapped window page gets a zeroed page. -/
  | windowAlloc
  /-- COPY_ON_FIRST_WRITE (R338). A write to a shared page gets a private copy. -/
  | copyOnFirstWrite
  /-- SNAPSHOT_COPY (R341). A write through a CW entry makes a before image and is released. -/
  | snapshotCopy
  /-- RELEASE (R342). The CTX_SNAP RELEASE command returns the before images. -/
  | release (src : Sender)
  /-- RESTORE (R342). The CTX_SNAP RESTORE command copies the before images back and releases them. -/
  | restore (src : Sender)
  /-- SNAP_DONE (R342). A snapshot command completes. -/
  | snapDone
  /-- TIER_DEMOTE (R347). The manager starts demoting HBM pages. -/
  | tierDemote
  /-- TIER_FETCH (R349). The manager starts fetching pages back to HBM. -/
  | tierFetch
  /-- TIER_MOVE_DONE (R350). A page move completes. -/
  | tierMoveDone
  /-- CTX_MB_WRITE (R349). A write of CTX_MB.CURRENT sets the fetch-ahead point. -/
  | ctxMbWrite (src : Sender) (val : BitVec 64)
  /-- CTX_STASH_FREE (R365). A write frees the stash pages of one slot or of all. -/
  | ctxStashFree (src : Sender) (val : BitVec 64)
  /-- START_G (R13). The dealer enters GENERATE with a working version. -/
  | startG (src : Sender) (version : BitVec 32)
  /-- END_G (R14). The dealer enters DRAINING. -/
  | endG (src : Sender)
  /-- STOP (R13). The dealer returns from PACKED to IDLE. -/
  | stop (src : Sender)
  /-- RESET (R16). The dealer abandons work above the restart version and enters IDLE. -/
  | reset (src : Sender) (version : BitVec 32)
  /-- LAST_HAND_DRAINED (R14). The dealer enters PACKED when the last hand in flight completes. -/
  | lastHandDrained
  /-- FORM_HAND (R357). The dealer forms a hand when a slot is free. -/
  | formHand
  /-- HAND_DONE (R359). One unit of DONE completes the oldest hand. -/
  | handDone
  /-- DEAL_RETIRE (R360). A write of DEAL_RETIRE retires a sequence. -/
  | dealRetire (src : Sender) (id : BitVec 12)
  /-- POOL_HEAD_ADVANCE (R363). A write of DEAL_POOL_HEAD frees pool records. -/
  | poolHeadAdvance (src : Sender) (val : BitVec 64)
  /-- S_SIG (R375). Signal a local or remote object. -/
  | sSig (i : Iss) (f : SyncForm)
  /-- S_WAIT (R384). Wait for an object's value. -/
  | sWait (i : Iss) (f : SyncForm)
  /-- S_TAKE (R384). Wait and subtract. -/
  | sTake (i : Iss) (f : SyncForm)
  /-- S_SET (R389). Set an object's value with a log entry. -/
  | sSet (i : Iss) (f : SyncForm)
  /-- S_DUMP (R390). Write a quadrant's object table. -/
  | sDump (i : Iss) (f : SyncForm)
  /-- SYNC_HOME_OP (R385). An operation is applied at its home and waiters are evaluated. -/
  | syncHomeOp (q : BitVec 2)
  /-- WAIT_RELEASE (R384). A release reaches the waiting queue. -/
  | waitRelease (queue : BitVec 12)
  /-- F_LD (R371). Load fence. -/
  | fLd (i : Iss) (f : SyncForm)
  /-- F_ST (R371). Store fence. -/
  | fSt (i : Iss) (f : SyncForm)
  /-- F_ALL (R371). Full fence at home. -/
  | fAll (i : Iss) (f : SyncForm)
  /-- F_DEV (R371). Device fence. -/
  | fDev (i : Iss) (f : SyncForm)
  /-- F_SYS (R371). System fence. -/
  | fSys (i : Iss) (f : SyncForm)
  /-- D_POST (R416). Append a descriptor to a queue. -/
  | dPost (i : Iss) (f : SyncForm)
  /-- D_QUERY (R417). Read a queue's free entries. -/
  | dQuery (i : Iss) (f : SyncForm)
  /-- FENCE_COMPLETE (R371). The awaited items complete and the fenced thread becomes ready. -/
  | fenceComplete (t : Thr)
  /-- SYNC_HOST_OP_SIG (R389). SYNC_HOST_OP with OP = SIG signals an object. -/
  | syncHostOpSig (src : Sender) (q : BitVec 2) (index : BitVec 14) (val : BitVec 32)
  /-- SYNC_HOST_OP_SET (R389). SYNC_HOST_OP with OP = SET sets an object and logs it. -/
  | syncHostOpSet (src : Sender) (q : BitVec 2) (index : BitVec 14) (val : BitVec 32)
  /-- DEADLOCK_DECLARE (R392). The detector declares, writes a snapshot and raises DEADLOCK. -/
  | deadlockDeclare
  /-- GROUP_RECEIVE (R397). A received flit group is verified and delivered, or a NAK is sent. -/
  | groupReceive (port : BitVec 4) (g : Group)
  /-- NAK (R398). A NAK makes the sender replay. -/
  | nak (port : BitVec 4) (ack : BitVec 16)
  /-- IDLE_LINK_FLIT (R395). An idle port sends a link flit every 256 link cycles. -/
  | idleLinkFlit (port : BitVec 4)
  /-- RETRAIN (R402). LINK_CTL.RETRAIN releases the port into bring-up. -/
  | retrain (src : Sender) (port : BitVec 4)
  /-- DISABLE (R402). LINK_CTL.DISABLE takes the port to OFF. -/
  | disable (src : Sender) (port : BitVec 4)
  /-- DETECT (R402). Signal is detected on all lanes. -/
  | detect (port : BitVec 4) (signal : Bool)
  /-- NEGOTIATE (R404). Generation and peer ID are exchanged and checked. -/
  | negotiate (port : BitVec 4) (peerGens : BitVec 3) (peerId : BitVec 20)
  /-- TRAIN (R403). Equalisation ends at the chosen generation. -/
  | train (port : BitVec 4) (good : Bool)
  /-- ALIGN (R402). FEC lock and deskew complete. -/
  | align (port : BitVec 4) (good : Bool)
  /-- INIT (R402). Sequence numbers and credits are set, and the port is UP. -/
  | init (port : BitVec 4)
  /-- ATTEMPT_TIMEOUT (R405). A bring-up attempt fails after 1 s. -/
  | attemptTimeout (port : BitVec 4)
  /-- PORT_LEAVES_UP (R406). A port leaving UP loses its packets and aborts dependent work. -/
  | portLeavesUp (port : BitVec 4) (reason : BitVec 4)
  /-- PUT (R423). An incoming PUT is translated and written. -/
  | put (port : BitVec 4) (vc : BitVec 3)
  /-- PUT_ACC (R423). An incoming PUT_ACC is accumulated. -/
  | putAcc (port : BitVec 4) (vc : BitVec 3)
  /-- GET_REQ (R423). An incoming GET_REQ is read and answered. -/
  | getReq (port : BitVec 4) (vc : BitVec 3)
  /-- GET_RESP (R424). A GET_RESP delivers data to its descriptor. -/
  | getResp (port : BitVec 4) (vc : BitVec 3)
  /-- WRITE_ACK (R424). A WRITE_ACK arrives for a descriptor or pot. -/
  | writeAck (port : BitVec 4) (vc : BitVec 3)
  /-- SIG (R387). An incoming SIG is applied and acknowledged. -/
  | sig (port : BitVec 4) (vc : BitVec 3)
  /-- SIG_ACK (R388). A signal acknowledgement reaches its sender. -/
  | sigAck (port : BitVec 4) (vc : BitVec 3)
  /-- RED (R430). A RED flit is offered to its pot slot. -/
  | red (port : BitVec 4) (vc : BitVec 3)
  /-- RED_ABORT (R436). A RED_ABORT aborts its slot. -/
  | redAbort (port : BitVec 4) (vc : BitVec 3)
  /-- DESC_START (R420). The head descriptor of a queue starts. -/
  | descStart (n : BitVec 8)
  /-- CONTRIB (R428). Descriptor kind CONTRIB reserves a pot slot. -/
  | contrib (n : BitVec 8)
  /-- WAIT (R421). Descriptor kind WAIT. -/
  | wait (n : BitVec 8)
  /-- TAKE (R421). Descriptor kind TAKE. -/
  | take (n : BitVec 8)
  /-- DESC_COMPLETE (R424). A descriptor completes and signals. -/
  | descComplete (n : BitVec 8)
  /-- SKIP (R427). TE_Q_CTL SKIP discards the head. -/
  | skip (src : Sender) (n : BitVec 8)
  /-- FLUSH (R427). TE_Q_CTL FLUSH discards unstarted descriptors. -/
  | flush (src : Sender) (n : BitVec 8)
  /-- QUEUE_DISABLE (R427). TE_Q_CFG.EN cleared leaves the queue OFF. -/
  | queueDisable (src : Sender) (n : BitVec 8)
  /-- POT_CONTRIBUTION (R431). The pot accepts a contribution. -/
  | potContribution (q : BitVec 2) (bad : Bool)
  /-- POT_SLOT_COMPLETE (R433). A pot slot completes. -/
  | potSlotComplete (rid : BitVec 16)
  /-- CLEAR (R436). POT_CTL.CLEAR idles aborted slots. -/
  | clear (src : Sender) (q : BitVec 2)
  /-- COMMIT_CTL_START (R449). START enters RUN and begins a securing copy. -/
  | commitCtlStart (src : Sender) (version : BitVec 32)
  /-- ANCHOR (R442). ANCHOR sets the anchored version. -/
  | anchor (src : Sender) (version : BitVec 32)
  /-- COMMIT_CTL_ABORT (R454). An ABORT command aborts the job. -/
  | commitCtlAbort (src : Sender)
  /-- COMMIT_CTL_STOP (R445). STOP enters IDLE. -/
  | commitCtlStop (src : Sender)
  /-- UPD_COUNT (R441). The commit unit counts an update. -/
  | updCount
  /-- GATE_OPEN (R443). A gate opens 300 ms after its update. -/
  | gateOpen (version : BitVec 32)
  /-- HELLO (R444). HELLO records a child. -/
  | hello (port : BitVec 4) (vc : BitVec 3)
  /-- HELLO_REPEAT (R445). HELLO repeats every millisecond. -/
  | helloRepeat
  /-- READY (R447). READY updates the ready version. -/
  | ready (port : BitVec 4) (vc : BitVec 3)
  /-- COMMIT (R447). COMMIT raises the committed version. -/
  | commit (port : BitVec 4) (vc : BitVec 3)
  /-- COPIED (R453). COPIED updates the copied version. -/
  | copied (port : BitVec 4) (vc : BitVec 3)
  /-- SECURED (R453). SECURED raises the secured version. -/
  | secured (port : BitVec 4) (vc : BitVec 3)
  /-- ABORT (R455). An ABORT message aborts the device. -/
  | abort (port : BitVec 4) (vc : BitVec 3)
  /-- FEED_QUERY (R452). FEED_QUERY is answered. -/
  | feedQuery (port : BitVec 4) (vc : BitVec 3)
  /-- FEED_REPLY (R452). FEED_REPLY accepts or refuses a holder. -/
  | feedReply (port : BitVec 4) (vc : BitVec 3)
  /-- FEED_TIMEOUT (R452). A missing FEED_REPLY refuses the holder. -/
  | feedTimeout
  /-- SECURING_COPY_DONE (R450). A securing copy completes. -/
  | securingCopyDone
  /-- COMMIT_TIMEOUT (R454). The commit timeout aborts the job. -/
  | commitTimeout
  /-- SAFETY_EVENT (R466). A report is classified and acted on. -/
  | safetyEvent (outside : Option Report)
  /-- LOCKSTEP_MISMATCH (R465). A lockstep mismatch is a DEVICE event. -/
  | lockstepMismatch
  /-- TARGETED_TEST (R469). A targeted test starts. -/
  | targetedTest (q : BitVec 2)
  /-- TARGETED_TEST_DONE (R470). A targeted test ends. -/
  | targetedTestDone (q : BitVec 2) (pass : Bool)
  /-- SELF_TEST_SLOT (R475). A self-test slot begins. -/
  | selfTestSlot
  /-- SLICE_START (R476). A self-test slice starts. -/
  | sliceStart (q : BitVec 2)
  /-- SLICE_END (R478). A self-test slice ends. -/
  | sliceEnd (q : BitVec 2) (signature : BitVec 64) (ue : Bool)
  /-- ST_LAPSE (R479). A late slice logs ST_LAPSE. -/
  | stLapse (q : BitVec 2)
  /-- SAFE_RECOVER (R474). SAFE_RECOVER.GO starts recovery. -/
  | safeRecover (src : Sender) (q : BitVec 2)
  /-- RECOVERY_DONE (R474). Recovery ends. -/
  | recoveryDone
  /-- ANALOGUE_CHECK (R482). An analogue check runs. -/
  | analogueCheck (part : AnaPart) (index : BitVec 14) (measured : BitVec 64) (fails : Bool)
  /-- ANALOGUE_OVERDUE (R482). An overdue check is logged PENDING. -/
  | analogueOverdue (part : AnaPart) (index : BitVec 14)
  /-- DRAM_SCRUB (R462). A DRAM scrub read runs. -/
  | dramScrub (line : BitVec 39) (corrected : BitVec 16) (bad : BitVec 16)
  /-- L2_SCRUB (R462). An L2 scrub read runs. -/
  | l2Scrub (line : BitVec 39) (corrected : BitVec 16) (bad : BitVec 16)
  /-- MONITOR_SAMPLE (R486). The delay monitors are sampled. -/
  | monitorSample (island : BitVec 8) (slack : BitVec 16)
  /-- RE_PLAN (R487). A 64-hour re-plan begins. -/
  | rePlan (island : BitVec 8) (slack : BitVec 16)
  /-- VOLTAGE_STEP (R487). A 5 mV voltage step is taken. -/
  | voltageStep (island : BitVec 8)
  /-- POWER_ON_RESET (R491). PGOOD rising starts a device reset. -/
  | powerOnReset
  /-- MODULE_RESET (R491). MRST_N low starts a device reset. -/
  | moduleReset
  /-- SAFETY_RESET (R467). A DEVICE event starts a device reset. -/
  | safetyReset
  /-- SOFTWARE_RESET (R491). ID_RESET 0xA5 starts a device reset. -/
  | softwareReset (src : Sender) (val : BitVec 64)
  /-- PCIE_RESET (R533). A PCIe reset resets only the interface. -/
  | pcieReset
  /-- BOOT_ROM (R494). Boot step 1 ends. -/
  | bootRom
  /-- BOOT_READ (R506). Boot step 2 ends. -/
  | bootRead (errA errB : Bool)
  /-- BOOT_VERIFY (R507). Boot step 3 ends. -/
  | bootVerify
  /-- BOOT_APPLY (R505). Boot step 4 ends. -/
  | bootApply
  /-- BOOT_ZERO (R497). Boot step 5 ends. -/
  | bootZero (failed : List CoreRef)
  /-- BOOT_HBM (R498). Boot step 6 ends. -/
  | bootHbm (stk : List MemInfo)
  /-- BOOT_DDR (R498). Boot step 7 ends. -/
  | bootDdr (channels : List MemInfo)
  /-- BOOT_LINKS (R500). Boot step 8 ends. -/
  | bootLinks
  /-- BOOT_START (R501). Boot step 9 starts threads and reports READY. -/
  | bootStart
  /-- CFG_TXN_BEGIN (R512). Open a transaction. -/
  | cfgTxnBegin (src : Sender) (val : BitVec 64)
  /-- TXN_STAGE (R513). A write stages TXN fields. -/
  | txnStage (src : Sender) (off : BitVec 28) (val : BitVec 64)
  /-- CFG_TXN_COMMIT (R515). Commit a transaction. -/
  | cfgTxnCommit (src : Sender) (id : BitVec 16)
  /-- TXN_APPLY (R516). Staged values are applied at safe points. -/
  | txnApply (id : BitVec 16)
  /-- CFG_TXN_ROLLBACK (R518). Discard a transaction. -/
  | cfgTxnRollback (src : Sender) (id : BitVec 16)
  /-- TXN_TIMEOUT (R518). An idle transaction times out. -/
  | txnTimeout (id : BitVec 16)
  /-- LC_TOKEN (R520). Apply a life-cycle token. -/
  | lcToken (src : Sender)
  /-- ATTEST (R524). Produce a signed attestation report. -/
  | attest (src : Sender)
  /-- FLASH_READ (R511). Read flash into SEC_BUF. -/
  | flashRead (src : Sender)
  /-- FLASH_PROGRAM (R511). Program flash. -/
  | flashProgram (src : Sender)
  /-- FLASH_ERASE (R511). Erase flash sectors. -/
  | flashErase (src : Sender)
  /-- SCAN_ENABLE (R490). Enable scan after clearing. -/
  | scanEnable (src : Sender)
  /-- SEC_COMMAND_DONE (R520). A security command completes. -/
  | secCommandDone (flashError : Bool)
  /-- GET_VERSION (R525). SPDM GET_VERSION. -/
  | getVersion (req : SpdmReq)
  /-- GET_CAPABILITIES (R525). SPDM GET_CAPABILITIES. -/
  | getCapabilities (req : SpdmReq)
  /-- NEGOTIATE_ALGORITHMS (R525). SPDM NEGOTIATE_ALGORITHMS. -/
  | negotiateAlgorithms (req : SpdmReq)
  /-- GET_DIGESTS (R525). SPDM GET_DIGESTS. -/
  | getDigests (req : SpdmReq)
  /-- GET_CERTIFICATE (R525). SPDM GET_CERTIFICATE. -/
  | getCertificate (req : SpdmReq)
  /-- CHALLENGE (R525). SPDM CHALLENGE. -/
  | challenge (req : SpdmReq)
  /-- GET_MEASUREMENTS (R525). SPDM GET_MEASUREMENTS. -/
  | getMeasurements (req : SpdmReq)
  /-- SPDM_UNSUPPORTED (R525). Other requests get UnsupportedRequest. -/
  | spdmUnsupported (req : SpdmReq)
  /-- BAR2_READ (R531). Host reads through BAR2. -/
  | bar2Read (off : BitVec 36) (len : BitVec 13)
  /-- BAR2_WRITE (R531). Host writes through BAR2. -/
  | bar2Write (off : BitVec 36) (data : List (BitVec 8))
  /-- MSIX_UNMASK (R534). Unmasking sends a pending vector. -/
  | msixUnmask (vec : BitVec 11)
  /-- HOST_RAISE (R535). Send a chosen MSI-X vector. -/
  | hostRaise (t : Thr) (vec : BitVec 11)
  /-- MBX_H2D (R536). Host doorbell to the device. -/
  | mbxH2d (k : BitVec 4) (val : BitVec 64)
  /-- MBX_D2H (R536). Device doorbell to the host. -/
  | mbxD2h (t : Thr) (k : BitVec 4) (val : BitVec 64)
  /-- POWER_STAGES_START (R528). The stages start and PGOOD is released. -/
  | powerStagesStart
  /-- PWR_EN_FALL (R528). The stages stop at once. -/
  | pwrEnFall
  /-- POWER_SAMPLE (R541). Input power is sampled every 10 µs. -/
  | powerSample (watts mean1ms mean1s : BitVec 16) (vin : BitVec 16)
  /-- DUTY_PERIOD (R542). An 800 µs duty period is evaluated. -/
  | dutyPeriod (temps : List SensorTemp) (coolant : Coolant)
  /-- INPUT_SAG (R543). VIN below 42 V applies the throttle. -/
  | inputSag (vin : BitVec 16)
  /-- SAG_END (R544). The throttle ends after 1 ms above 43 V. -/
  | sagEnd
  /-- SUPPLY_RESET (R546). VIN below 38 V raises SUPPLY_RESET. -/
  | supplyReset (vin : BitVec 16)
  /-- SUPPLY_RECOVER (R546). The supply reset is released. -/
  | supplyRecover
  /-- THERMAL_TRIP (R549). A junction at 110 °C raises THERMAL_TRIP. -/
  | thermalTrip (sensor : BitVec 8) (temp : BitVec 16)
  /-- THERMAL_BOOT_RELEASE (R549). The boot is released below 95 °C. -/
  | thermalBootRelease
  /-- BAR0_READ (R530). A host read of a register through BAR0, which may have behaviour of its own (UCODE_DATA_HI auto-increment) and waits for earlier host writes. -/
  | bar0Read (src : Sender) (off : BitVec 28) (size : BitVec 13)
  /-- TAP_INSTRUCTION (R490). An IEEE 1149.1 or DBG instruction through the TAP: boundary scan, or a debug-port request that claims or stops a thread, sets a sync object or accesses registers. -/
  | tapInstruction (op : TapOp)
  /-- INLET_HIGH (R547). The measured coolant inlet rises above 40 °C, raising the POWER event INLET_HIGH and latching the I3C ALERT bit. -/
  | inletHigh (coolant : Coolant)
  /-- DUTY_WINDOW (R542). A 100 µs window boundary inside an 800 µs period, at which the arrays of a die pause when the window is one of the last 8 − d. -/
  | dutyWindow
  /-- CLOCK_CHANGE_END (R488). An island's clock change, which paused it for up to 20 µs, completes and the island and its pass resume. -/
  | clockChangeEnd (island : BitVec 8)
  /-- CHANNEL_RETRAIN_DONE (R482). A memory channel retrained after PHY drift finishes and releases the accesses it held for up to 50 µs. -/
  | channelRetrainDone (ch : BitVec 9)
  deriving DecidableEq, Repr

end Sys2Proof
end

