-- ==== Sys2Proof/Decode.lean ====
section
/-! DEFINITION. The instruction that a base word spells by the encoding tables of the manual (R59, R60,
R71, R154, R207, R248, Major 0x30, Major 0x31), as the command that issues it; and the command that a
word spells by the bits of opcode_table.json, which gives bits for none of its rows. -/

namespace Sys2Proof

/-- `n` bits of a base word from bit `lo` up. -/
def wordBits (w : BitVec 32) (lo n : Nat) : BitVec n := w.extractLsb' lo n

/-! ### Formats (Base word formats) -/

def regForm (w : BitVec 32) : RegForm :=
  { d := wordBits w 21 5, a := wordBits w 16 5, b := wordBits w 11 5, w32 := w.getLsbD 10
    rsv := wordBits w 4 6 }
def immForm (w : BitVec 32) : ImmForm :=
  { d := wordBits w 21 5, a := wordBits w 16 5, imm := wordBits w 0 16 }
def shiftForm (w : BitVec 32) : ShiftForm :=
  .imm (wordBits w 21 5) (wordBits w 16 5) (wordBits w 6 2) (wordBits w 0 6)
def bitForm (w : BitVec 32) : BitForm :=
  { d := wordBits w 21 5, a := wordBits w 16 5, b := wordBits w 11 5, rsv := wordBits w 3 5
    refl := w.getLsbD 2, n := wordBits w 0 2 }
def memForm (w : BitVec 32) : MemForm :=
  { d := wordBits w 21 5, a := wordBits w 16 5, kind := wordBits w 13 3, off := wordBits w 0 13 }
def brForm (w : BitVec 32) : BrForm :=
  { a := wordBits w 21 5, b := wordBits w 16 5, off := wordBits w 0 16 }
def jmpForm (w : BitVec 32) : JmpForm := { off := wordBits w 0 26 }
def jrForm (w : BitVec 32) : JrForm :=
  { d := wordBits w 21 5, a := wordBits w 16 5, b := wordBits w 11 5, rsv := wordBits w 2 9 }
def fpForm (f64 : Bool) (w : BitVec 32) : FpForm :=
  { f64 := f64, d := wordBits w 21 5, a := wordBits w 16 5, b := wordBits w 11 5
    rsv := wordBits w 4 7 }
def fmaForm (w : BitVec 32) : FmaForm :=
  { fmt := wordBits w 4 2, rsv := wordBits w 2 2, d := wordBits w 21 5, a := wordBits w 16 5
    b := wordBits w 11 5, c := wordBits w 6 5 }
def cvtForm (w : BitVec 32) : CvtForm :=
  { d := wordBits w 21 5, a := wordBits w 16 5, b := wordBits w 11 5, rsv := wordBits w 8 3
    src := wordBits w 4 4, dst := wordBits w 0 4 }
def ctlForm (w : BitVec 32) : CtlForm :=
  { d := wordBits w 21 5, a := wordBits w 16 5, crn := wordBits w 0 12 }
def cwrForm (w : BitVec 32) : CwrForm := { d := wordBits w 21 5, a := wordBits w 16 5 }
def custWord (w : BitVec 32) : CustForm :=
  { d := wordBits w 21 5, a := wordBits w 16 5, b := wordBits w 11 5, c := wordBits w 6 5
    rsv := wordBits w 4 2, slot := wordBits w 0 4 }
def vClassForm (w : BitVec 32) : VClassForm :=
  { vd := wordBits w 21 5, va := wordBits w 16 5, vb := wordBits w 11 5, msk := w.getLsbD 10
    mreg := wordBits w 7 3, cls := wordBits w 4 3 }
def vBitForm (w : BitVec 32) : VBitForm :=
  { vd := wordBits w 21 5, va := wordBits w 16 5, vb := wordBits w 11 5, msk := w.getLsbD 10
    mreg := wordBits w 7 3, refl := w.getLsbD 2, n := wordBits w 0 2 }
def vMaskForm (w : BitVec 32) : VMaskForm :=
  { vd := wordBits w 21 5, va := wordBits w 16 5, vb := wordBits w 11 5, msk := w.getLsbD 10
    mreg := wordBits w 7 3 }
def vFmtForm (w : BitVec 32) : VFmtForm :=
  { vd := wordBits w 21 5, va := wordBits w 16 5, vb := wordBits w 11 5, msk := w.getLsbD 10
    mreg := wordBits w 7 3, fmt := wordBits w 0 4 }
def tileOwnForm (w : BitVec 32) : TileOwnForm :=
  { d := wordBits w 21 5, a := wordBits w 16 5, b := wordBits w 11 5, tile := wordBits w 5 3
    flag := w.getLsbD 4, fmt := wordBits w 0 4 }
def tileMemForm (w : BitVec 32) : TileMemForm :=
  { d := wordBits w 21 5, a := wordBits w 16 5, b := wordBits w 11 5, c := wordBits w 6 5 }
def arrOwnForm (w : BitVec 32) : ArrOwnForm :=
  { d := wordBits w 21 5, a := wordBits w 16 5, b := wordBits w 11 5, tile := wordBits w 5 3
    flag := w.getLsbD 4, dbit := w.getLsbD 3, rsv := wordBits w 0 3 }
def passWord (w : BitVec 32) : PassForm :=
  { d := wordBits w 21 5, a := wordBits w 16 5, b := wordBits w 11 5, c := wordBits w 6 5
    src := w.getLsbD 5, ax := w.getLsbD 4, op := wordBits w 1 3, sw := w.getLsbD 0 }
def drainWord (w : BitVec 32) : DrainForm :=
  { d := wordBits w 21 5, a := wordBits w 16 5, b := wordBits w 11 5, c := wordBits w 6 5
    dst := w.getLsbD 5, clr := w.getLsbD 4, rsv := wordBits w 0 4 }
def syncForm (w : BitVec 32) : SyncForm :=
  { d := wordBits w 21 5, a := wordBits w 16 5, b := wordBits w 11 5, rsv := wordBits w 0 8 }
/-- A fence: FN[2:0] chooses the row. -/
def fenceForm (w : BitVec 32) : SyncForm :=
  { syncForm w with rsv := (wordBits w 3 5).zeroExtend 8 }

/-! ### Majors -/

/-- Major 0x01. -/
def decodeInt (i : Iss) (w : BitVec 32) : Option Instr :=
  let f := regForm w
  match (wordBits w 0 4).toNat with
  | 0x0 => some (.add i (.reg f))
  | 0x1 => some (.sub i f)
  | 0x2 => some (.and i (.reg f))
  | 0x3 => some (.or i (.reg f))
  | 0x4 => some (.xor i (.reg f))
  | 0x5 => some (.sll i (.reg f))
  | 0x6 => some (.srl i (.reg f))
  | 0x7 => some (.sra i (.reg f))
  | 0x8 => some (.rotl i (.reg f))
  | 0x9 => some (.slt i (.reg f))
  | 0xA => some (.sltu i f)
  | 0xB => some (.min i f)
  | 0xC => some (.max i f)
  | 0xD => some (.minu i f)
  | 0xE => some (.maxu i f)
  | _ => none

/-- Major 0x0B. -/
def decodeMul (i : Iss) (w : BitVec 32) : Option Instr :=
  let f := regForm w
  match (wordBits w 0 4).toNat with
  | 0x0 => some (.mul i f)
  | 0x1 => some (.mulh i f)
  | 0x2 => some (.mulhu i f)
  | 0x4 => some (.div i f)
  | 0x5 => some (.divu i f)
  | 0x6 => some (.rem i f)
  | 0x7 => some (.remu i f)
  | _ => none

/-- Major 0x0F. -/
def decodeAmo (i : Iss) (w : BitVec 32) : Option Instr :=
  let f := regForm w
  match (wordBits w 0 4).toNat with
  | 0x0 => some (.amoAdd i f)
  | 0x1 => some (.amoSwap i f)
  | 0x2 => some (.amoCas i f)
  | 0x3 => some (.amoMin i f)
  | 0x4 => some (.amoMax i f)
  | 0x5 => some (.amoMinu i f)
  | 0x6 => some (.amoMaxu i f)
  | _ => none

/-- Major 0x06. -/
def decodeShift (i : Iss) (w : BitVec 32) : Option Instr :=
  let f := shiftForm w
  match (wordBits w 8 8).toNat with
  | 0x0 => some (.sll i f)
  | 0x1 => some (.srl i f)
  | 0x2 => some (.sra i f)
  | 0x3 => some (.rotl i f)
  | _ => none

/-- Major 0x0C. -/
def decodeBit (i : Iss) (w : BitVec 32) : Option Instr :=
  let f := bitForm w
  match (wordBits w 8 3).toNat with
  | 0 => some (.clz i f)
  | 1 => some (.ctz i f)
  | 2 => some (.popc i f)
  | 3 => some (.par i f)
  | 4 => some (.brev i f)
  | 5 => some (.crcS i f)
  | _ => none

/-- Major 0x18. -/
def decodeJr (i : Iss) (w : BitVec 32) : Option Instr :=
  let f := jrForm w
  match (wordBits w 0 2).toNat with
  | 0 => some (.jr i f)
  | 1 => some (.callr i f)
  | 2 => some (.ret i f)
  | _ => none

/-- Majors 0x19 and 0x1A. -/
def decodeFp (f64 : Bool) (i : Iss) (w : BitVec 32) : Option Instr :=
  let f := fpForm f64 w
  match (wordBits w 0 4).toNat with
  | 0x0 => some (.fpAdd i f)
  | 0x1 => some (.fpSub i f)
  | 0x2 => some (.fpMul i f)
  | 0x3 => some (.fpDiv i f)
  | 0x4 => some (.fpSqrt i f)
  | 0x5 => some (.fpMin i f)
  | 0x6 => some (.fpMax i f)
  | 0x7 => some (.fpCmpEq i f)
  | 0x8 => some (.fpCmpLt i f)
  | 0x9 => some (.fpCmpLe i f)
  | 0xA => some (.fpSgnj i f)
  | 0xB => some (.fpSgnjn i f)
  | 0xC => some (.fpSgnjx i f)
  | _ => none

/-- Major 0x1B. -/
def decodeFma (i : Iss) (w : BitVec 32) : Option Instr :=
  let f := fmaForm w
  match (wordBits w 0 2).toNat with
  | 0 => some (.fma i f)
  | 1 => some (.fms i f)
  | 2 => some (.fnma i f)
  | _ => some (.fnms i f)

/-- Major 0x32; a c.wr of a register with a row of its own is that row. -/
def decodeCtl (i : Iss) (w : BitVec 32) : Option Instr :=
  let f := ctlForm w
  match (wordBits w 12 4).toNat with
  | 0x0 => some (.cRd i f)
  | 0x1 =>
    some (match f.crn.toNat with
      | 0x010 => .fflagsWrite i (cwrForm w)
      | 0x011 => .frmWrite i (cwrForm w)
      | 0x018 => .vlWrite i (cwrForm w)
      | 0x029 => .tcfgWrite i (cwrForm w)
      | 0x040 => .pfctlWrite i (cwrForm w)
      | _ => .cWr i f)
  | 0x2 => some (.cGate i f)
  | 0x3 => some (.cRet i f)
  | 0x4 => some (.cIsync i f)
  | 0x5 => some (.cBrk i f)
  | 0x6 => some (.cNop i f)
  | 0xC => some (.cPf i f)
  | _ => none

/-- Major 0x20. -/
def decodeVInt (i : Iss) (w : BitVec 32) : Instr :=
  let f := vClassForm w
  match (wordBits w 0 4).toNat with
  | 0x0 => .vAdd i f
  | 0x1 => .vSub i f
  | 0x2 => .vAnd i f
  | 0x3 => .vOr i f
  | 0x4 => .vXor i f
  | 0x5 => .vSll i f
  | 0x6 => .vSrl i f
  | 0x7 => .vSra i f
  | 0x8 => .vMin i f
  | 0x9 => .vMax i f
  | 0xA => .vMinu i f
  | 0xB => .vMaxu i f
  | 0xC => .vCmpEq i f
  | 0xD => .vCmpNe i f
  | 0xE => .vCmpLt i f
  | _ => .vCmpLtu i f

/-- Major 0x21. -/
def decodeVBit (i : Iss) (w : BitVec 32) : Option Instr :=
  match (wordBits w 4 3).toNat with
  | 0 =>
    some (match (wordBits w 2 2).toNat with
      | 2 => .vPar i (vBitForm w)
      | 3 => .vBrev i (vBitForm w)
      | _ => .vCrcS i (vBitForm w))
  | 1 =>
    let f := vMaskForm w
    match (wordBits w 0 4).toNat with
    | 0 => some (.mAnd i f)
    | 1 => some (.mOr i f)
    | 2 => some (.mNot i f)
    | 3 => some (.mPop i f)
    | 4 => some (.mFirst i f)
    | _ => none
  | _ => none

/-- Major 0x22. -/
def decodeVFloat (i : Iss) (w : BitVec 32) : Option Instr :=
  let f := vClassForm w
  match (wordBits w 0 4).toNat with
  | 0x0 => some (.vFma i f)
  | 0x1 => some (.vFms i f)
  | 0x2 => some (.vFnma i f)
  | 0x3 => some (.vFnms i f)
  | 0x4 => some (.vMul i f)
  | 0x5 => some (.vAddF i f)
  | 0x6 => some (.vSubF i f)
  | 0x7 => some (.vMaxF i f)
  | 0x8 => some (.vMinF i f)
  | 0x9 => some (.vCmpEqF i f)
  | 0xA => some (.vCmpLtF i f)
  | 0xB => some (.vCmpLeF i f)
  | _ => none

/-- Majors 0x23 to 0x26. -/
def decodeVFmt (i : Iss) (w : BitVec 32) : Option Instr :=
  let f := vFmtForm w
  match (wordBits w 26 6).toNat, (wordBits w 4 3).toNat with
  | 0x23, 0 => some (.vCvt i f)
  | 0x23, 1 => some (.vWmul i f)
  | 0x23, 2 => some (.vDot4 i f)
  | 0x23, 3 => some (.vDot2 i f)
  | 0x23, 4 => some (.vRng i f)
  | 0x23, 5 => some (.vExpStep i f)
  | 0x23, 6 => some (.vRcpStep i f)
  | 0x24, 0 => some (.vPerm i f)
  | 0x24, 1 => some (.vSlideUp i f)
  | 0x24, 2 => some (.vSlideDn i f)
  | 0x24, 3 => some (.vBcast i f)
  | 0x24, 4 => some (.vRed i f)
  | 0x25, 0 => some (.vSortKey i f)
  | 0x25, 1 => some (.vSortIdx i f)
  | 0x25, 2 => some (.vMerge i f)
  | 0x25, 3 => some (.vIsect i f)
  | 0x25, 4 => some (.vUniq i f)
  | 0x25, 5 => some (.vTopk i f)
  | 0x26, 0 => some (.vLd i f)
  | 0x26, 1 => some (.vSt i f)
  | 0x26, 2 => some (.vLds i f)
  | 0x26, 3 => some (.vSts i f)
  | 0x26, 4 => some (.vLdx i f)
  | 0x26, 5 => some (.vStx i f)
  | 0x26, 6 => some (.vLdd i f)
  | 0x26, 7 => some (.vStd i f)
  | _, _ => none

/-- Majors 0x28 and 0x29. -/
def decodeTile (i : Iss) (w : BitVec 32) : Option Instr :=
  if wordBits w 26 6 = 0x28 then
    let f := tileOwnForm w
    match (wordBits w 8 3).toNat with
    | 0 => some (.tClaim i f)
    | 1 => some (.tFree i f)
    | 2 => some (.tZero i f)
    | _ => none
  else
    let f := tileMemForm w
    match (wordBits w 0 6).toNat with
    | 0 => some (.tLd i f)
    | 1 => some (.tSt i f)
    | 2 => some (.tLdt i f)
    | 3 => some (.tLdDesc i f)
    | 4 => some (.tStDesc i f)
    | 5 => some (.tLdtDesc i f)
    | _ => none

/-- Major 0x2C. -/
def decodeArray (i : Iss) (w : BitVec 32) : Option Instr :=
  let f := arrOwnForm w
  match (wordBits w 8 3).toNat with
  | 0 => some (.aClaim i f)
  | 1 => some (.aFree i f)
  | 2 => some (.aSwap i f)
  | 3 => some (.aLdw i f)
  | _ => none

/-- Majors 0x30 and 0x31. -/
def decodeSync (i : Iss) (w : BitVec 32) : Option Instr :=
  let f := syncForm w
  match (wordBits w 26 6).toNat, (wordBits w 8 3).toNat with
  | 0x30, 0 => some (.sSig i f)
  | 0x30, 1 => some (.sWait i f)
  | 0x30, 2 => some (.sTake i f)
  | 0x30, 3 => some (.sSet i f)
  | 0x30, 4 => some (.sDump i f)
  | 0x30, 5 =>
    (match (wordBits w 0 3).toNat with
     | 0 => some (.fLd i (fenceForm w))
     | 1 => some (.fSt i (fenceForm w))
     | 2 => some (.fAll i (fenceForm w))
     | 3 => some (.fDev i (fenceForm w))
     | 4 => some (.fSys i (fenceForm w))
     | _ => none)
  | 0x31, 0 => some (.dPost i f)
  | 0x31, 1 => some (.dQuery i f)
  | _, _ => none

/-- The instruction that a base word spells; none where its major is reserved, where the major does not
define its function code, and for a prefix. Reserved fields are read as they stand. -/
def decodeWord (i : Iss) (w : BitVec 32) : Option Instr :=
  let m := immForm w
  match (wordBits w 26 6).toNat with
  | 0x01 => decodeInt i w
  | 0x02 => some (.add i (.imm false m.d m.a m.imm))
  | 0x03 => some (.and i (.imm m.d m.a m.imm))
  | 0x04 => some (.or i (.imm m.d m.a m.imm))
  | 0x05 => some (.xor i (.imm m.d m.a m.imm))
  | 0x06 => decodeShift i w
  | 0x07 => some (.li i m)
  | 0x08 => some (.lui i m)
  | 0x09 => some (.slt i (.imm m.d m.a m.imm))
  | 0x0A => some (.add i (.imm true m.d m.a m.imm))
  | 0x0B => decodeMul i w
  | 0x0C => decodeBit i w
  | 0x0D => some (.ld i (memForm w))
  | 0x0E => some (.st i (memForm w))
  | 0x0F => decodeAmo i w
  | 0x10 => some (.beq i (brForm w))
  | 0x11 => some (.bne i (brForm w))
  | 0x12 => some (.blt i (brForm w))
  | 0x13 => some (.bge i (brForm w))
  | 0x14 => some (.bltu i (brForm w))
  | 0x15 => some (.bgeu i (brForm w))
  | 0x16 => some (.j i (jmpForm w))
  | 0x17 => some (.call i (jmpForm w))
  | 0x18 => decodeJr i w
  | 0x19 => decodeFp false i w
  | 0x1A => decodeFp true i w
  | 0x1B => decodeFma i w
  | 0x1C => some (if wordBits w 0 4 = 0xF then .fclass i (cvtForm w) else .cvt i (cvtForm w))
  | 0x20 => some (decodeVInt i w)
  | 0x21 => decodeVBit i w
  | 0x22 => decodeVFloat i w
  | 0x23 => decodeVFmt i w
  | 0x24 => decodeVFmt i w
  | 0x25 => decodeVFmt i w
  | 0x26 => decodeVFmt i w
  | 0x28 => decodeTile i w
  | 0x29 => decodeTile i w
  | 0x2C => decodeArray i w
  | 0x2D => some (.aPass i (passWord w))
  | 0x2E => some (.aDrain i (drainWord w))
  | 0x30 => decodeSync i w
  | 0x31 => decodeSync i w
  | 0x32 => decodeCtl i w
  | 0x38 => some (.cust i (custWord w))
  | _ => none

/-- The prefix that a word spells. -/
def decodePfx (w : BitVec 32) (l1 l2 : BitVec 32) : Option Pfx :=
  if wordBits w 26 6 ≠ 0x3F then none else
  some { lit := match (wordBits w 24 2).toNat with
           | 0 => .none
           | 1 => .one l1
           | 2 => .two l1 l2
           | _ => .bad
         x1 := wordBits w 19 5, x2 := wordBits w 14 5, x3 := wordBits w 9 5, xf := wordBits w 0 9 }

/-- The issue of a short instruction by thread 0 of core 0 of quadrant 0. -/
def firstIssue : Iss :=
  { thr := { quad := 0, core := 0, thr := 0 }, long := none, ue := none, busy := 0, code := none }

/-- The command that a word of a row's bits spells. No row of opcode_table.json gives bits; a word of 32
bits is a base word, and spells the issue of its instruction by the device's first thread. -/
def decodeTableWord (nbits w : Nat) : Option Instr :=
  if nbits = 32 then decodeWord firstIssue (BitVec.ofNat 32 w) else none

end Sys2Proof
end

