-- ==== Sys2Proof/Config.lean ====
section
/-! DEFINITION. What the manual leaves open: free values, which no proof can see, and functions
whose values the manual does not state. None has a body. -/

namespace Sys2Proof.Config

/-- A value the manual leaves open, drawn afresh for each draw number (log entry 3). -/
opaque freeWord : Nat → BitVec 64

/-- FP32 or FP64 reciprocal approximation before the bound of R166 is applied: the device's own
choice within the stated bound (log entry 20). The first argument is true for FP64, the second is
the operand's code; the answer is an offset in units of the last place. -/
opaque rcpOffset : Bool → BitVec 64 → Int

/-- Exponential approximation within the bound of R167 (log entry 20). -/
opaque expOffset : Bool → BitVec 64 → Int

/-- Which half of its byte holds element i of a 4-bit strided or indexed access (log entry 23):
R173 and R174 give the byte only. -/
opaque nibbleHigh : Nat → Bool

/-- Whether a block scale prevails in a byte that a G4 instruction also writes as elements, where the
scale register is one of its destination registers, by their numbers (log entry 118): the manual
orders the two only in memory. -/
opaque scalePrevails : Nat → Nat → Bool

/-- The flow hash of R411: which of several usable ports a flow takes. -/
opaque flowHash : Nat → Nat → Nat → Nat

/-- The bucket of the prefix index that a key falls in (R329: the layout is not part of the
interface). -/
opaque indexBucket : Nat → Nat

/-- ECDSA P-384 signature of a hash with the device's private identity key of the given key
number (R523, R524). -/
opaque p384Sign : Nat → BitVec 384 → BitVec 768

/-- The public half of the identity key pair drawn from the DRBG with the given draw number
(R523). -/
opaque identityKey : Nat → BitVec 768

/-- SHA-384 of Lamronto's release key, held in ROM (R507). -/
opaque releaseKeyHash : BitVec 384

/-- SHA-384 of the security controller ROM (R524, SEC_MEAS_0). -/
opaque romHash : BitVec 384

/-- Stepping of the part (ID_INFO.STEPPING has no stated value). -/
opaque stepping : BitVec 8

/-- Serial number fused into the part (ID_SERIAL). -/
opaque serial : BitVec 64

/-- Start-of-life voltage of an island in mV, which the deck holds in no field the manual names
(R487, AGE_STAT.VOLT). -/
opaque startVolt : Nat → BitVec 16

/-- A self-test section whose programs run longer than R477 allows: how long a program runs is not
in the manual (R509). -/
opaque selfTestLong : List Byte → Bool

/-- Byte of the training results that the device writes back, by draw number (R502). -/
opaque recordByte : Nat → Nat → Byte

/-- Byte of the area in which a self-test slice saves its core, by draw number: the layout is not in the
manual (R476). -/
opaque saveByte : Nat → Nat → Byte

end Sys2Proof.Config
end

