-- ==== Sys2Proof/Machine/State.lean ====
section
/-! DEFINITION. The state of the block as plain data, and `State.reset`. Everything the manual
numbers is a sparse table (`Tab`) in canonical form; a key that is not listed holds the default the
table's accessor in Machine/Ops.lean gives. Registers of the device register space are one table
`regs` keyed by BAR0 offset, so each register has one home; a register that only shows other state
is computed from it when it is read. -/

namespace Sys2Proof.Machine

open Sys2Proof

/-! ### Values of number formats -/

/-- The value of an element: a NaN with its code and whether it signals, an infinity, or the exact
number (-1)^neg × m × 2^e. Integers are finite values with e = 0. -/
inductive Fp where
  | nan (signalling : Bool) (code : Nat)
  | inf (neg : Bool)
  | fin (neg : Bool) (m : Nat) (e : Int)
  deriving DecidableEq, Repr

/-! ### Threads -/

/-- Thread states (R37). -/
inductive ThreadMode where
  | off | run | wait | halt | debug
  deriving DecidableEq, Repr

/-- Fences (R371). -/
inductive FenceKind where
  | ld | st | all | dev | sys
  deriving DecidableEq, Repr

/-- A unit that the next instruction of a thread needs (R33): a tile, the thread's pass, the array's load
of weights or its zeroing, a blocking L1 data cache, the miss registers of the L1 instruction cache, or a
microcode store that a transaction is about to change. -/
inductive Need where
  | tile (t : Nat)
  | pass
  | ldw
  | zeroing
  | l1
  | l1i (line : Nat)
  | ucode
  deriving DecidableEq, Repr

/-- Why a thread in RUN is not ready (R33). -/
inductive Hold where
  /-- ready -/
  | none
  /-- the next instruction, presented last, needs a unit that could not accept it -/
  | unit (n : Need)
  /-- the next instruction has missed in the L1 instruction cache -/
  | ifetch (line : Nat)
  /-- waits until these L1 lines have arrived; the instruction is presented again -/
  | line (lines : List Nat)
  /-- a scalar load or an atomic has missed; it completes on arrival -/
  | load
  /-- an incomplete fence -/
  | fence (k : FenceKind)
  /-- a serialising c.wr to TCFG of this value -/
  | tcfg (value : Word)
  /-- an s.sig, s.set, s.wait or s.take on its way to its home -/
  | sync
  /-- a write held by the context manager (R333, R338, R341) -/
  | ctx
  /-- an exception entry whose frame push the context manager holds: return address, cause code, FAULTINFO
  and whether it sets EM -/
  | entry (ret : Word) (code : BitVec 8) (info : Word) (em : Bool)
  deriving DecidableEq, Repr

/-- A scalar load that waits for its line. -/
structure PendLoad where
  line : Nat
  addr : Nat
  va : Word
  size : Nat
  signed : Bool
  d : BitVec 5
  /-- bytes of the instruction, to move past it at completion -/
  len : Nat
  deriving DecidableEq, Repr

/-- One stream of a stride detector (R302). -/
structure Stream where
  last : Int
  stride : Int
  conf : Bool
  deriving DecidableEq, Repr

/-- A custom instruction in progress (R82, R83). -/
structure Custom where
  upc : Nat
  u : Tab Word
  lc : Word
  z : Bool
  n : Bool
  c : Bool
  v : Bool
  stack : List Nat
  count : Nat
  form : CustForm
  long : Option Pfx
  /-- a run after an interrupt: further interrupts are held pending (R86) -/
  held : Bool
  /-- FP flags raised so far -/
  flags : BitVec 6
  deriving DecidableEq, Repr

/-- The state of one thread. -/
structure Thread where
  mode : ThreadMode
  pc : Word
  g : Tab Word
  v : Tab VReg
  m : Tab VReg
  ring : BitVec 2
  em : Bool
  ss : Bool
  fte : BitVec 6
  depth : BitVec 16
  cause : Word
  faultinfo : Word
  /-- latched IPEND bits -/
  ipend : BitVec 32
  /-- FAULTINFO that each latched interrupt carries, by cause code -/
  ipendInfo : Tab Word
  tsb : Word
  aspace : Word
  /-- ENTRY0 to ENTRY3 -/
  entry : Tab Word
  gatebase : Word
  fflags : BitVec 6
  frm : BitVec 3
  seed : Word
  crcpoly : Word
  vl : BitVec 13
  vgrp : BitVec 2
  vstart : BitVec 13
  prio : BitVec 2
  tstart : BitVec 8
  apos : BitVec 32
  astatCount : BitVec 16
  astatStop : BitVec 8
  astatReason : BitVec 8
  oob : Word
  pfctl : BitVec 5
  /-- pending deferred conditions, by rising cause code (R96) -/
  deferred : List (BitVec 8 × Word)
  hold : Hold
  /-- the position register holds partial progress of the instruction at pc (CAUSE.POS) -/
  partway : Bool
  /-- tile named by an incomplete tile instruction -/
  tileBusy : Option Nat
  loads : List PendLoad
  /-- lines delivered to the waiting instruction that its L1 does not keep (R295) -/
  got : Tab Line
  /-- lines of the instruction at the pc that its L1 instruction cache does not keep (R295) -/
  icode : Tab Line
  /-- lines that the instruction at the pc has requested and that have not arrived -/
  asked : List Nat
  /-- lines that the waiting instruction asked for and that cannot be read: cause codes (R308, R463) -/
  badGot : Tab (BitVec 8)
  /-- writes of other agents whose value a load of this thread returned, by write number (R371) -/
  seen : List Nat
  streams : List Stream
  custom : Option Custom
  /-- addresses of custom instructions that an interrupt ended and that will restart (R86) -/
  custRestart : List Word
  /-- the debug port has claimed the thread (R92) -/
  claimed : Bool
  /-- CORE_THR_EN was cleared; the thread enters OFF at its next boundary (R39) -/
  stopping : Bool
  /-- remote signals not yet acknowledged: device, object and the port each left by (R387, R406) -/
  sigOut : List (BitVec 20 × BitVec 16 × Nat)
  /-- first error of a remote signal since the last f.sys: cause code and object ID (R388) -/
  sigErr : Option (BitVec 8 × BitVec 16)
  /-- status register of the s.wait or s.take in WAIT -/
  waitReg : BitVec 5
  /-- cycles stalled in WAIT (R391) -/
  stalled : Nat
  /-- a checksum mismatch to be raised after the next instruction that completes (R237) -/
  csDue : Option Word
  /-- the instruction at the pc has issued and waits -/
  begun : Bool
  /-- an instruction that runs to completion has begun and waits: no exception is taken (R205) -/
  midway : Bool
  /-- descriptors that the instruction at the pc has read: address and words (R252) -/
  descs : List (Word × List Word)
  /-- lines that the gather at the pc has read (R175) -/
  gathered : Tab Line
  /-- the emergency save that a fault of the waiting instruction causes meets a fault (R105) -/
  saveBad : Bool
  /-- flags that the instruction at the pc has put into FFLAGS where it was held (R121, R123) -/
  raised : BitVec 6
  deriving DecidableEq, Repr

/-- A thread in OFF: no architectural state (R37); control registers at their reset values. -/
def Thread.off : Thread :=
  { mode := .off, pc := 0, g := [], v := [], m := [], ring := 1, em := true, ss := false, fte := 0,
    depth := 0, cause := 0, faultinfo := 0, ipend := 0, ipendInfo := [], tsb := 0, aspace := 0,
    entry := [], gatebase := 0, fflags := 0, frm := 0, seed := 0, crcpoly := 0, vl := 0, vgrp := 0,
    vstart := 0, prio := 0, tstart := 0, apos := 0, astatCount := 0, astatStop := 0,
    astatReason := 0, oob := 0, pfctl := 4, deferred := [], hold := .none, partway := false,
    tileBusy := none, loads := [], got := [], icode := [], asked := [], badGot := [], seen := [], streams := [], custom := none, custRestart := [],
    claimed := false, stopping := false, sigOut := [], sigErr := none, waitReg := 0, stalled := 0, csDue := none,
    begun := false, midway := false, descs := [], gathered := [], saveBad := false, raised := 0 }

/-! ### Tiles and the matrix array -/

/-- A tile register (R180 to R188). -/
structure Tile where
  owner : Option Nat
  fmt : BitVec 4
  use : Bool
  rows : Tab TileRow
  scales : Tab (BitVec 128)
  zeroing : Bool
  /-- a held claim or free of this thread will go on first (R184, R190, R205) -/
  resv : Option Nat
  deriving DecidableEq, Repr

def Tile.free : Tile :=
  { owner := none, fmt := 0, use := false, rows := [], scales := [], zeroing := false, resv := none }

/-- A weight plane with its checksum cells (R209, R235). Column j is held as the 256 bytes of the
tile row it was loaded from; sums are exact, in units of 2^-400 in float modes and of 1 in integer
modes. -/
structure Plane where
  fmt : BitVec 4
  use : Bool
  cols : Tab TileRow
  scales : Tab (BitVec 128)
  s : Tab Int
  a : Tab Int
  c : Tab Int
  b : Tab Int
  deriving DecidableEq, Repr

def Plane.zero : Plane :=
  { fmt := 0, use := false, cols := [], scales := [], s := [], a := [], c := [], b := [] }

/-- An accumulator plane. -/
structure AccPlane where
  use : Bool
  rows : Tab AccRow
  deriving DecidableEq, Repr

def AccPlane.zero : AccPlane := { use := false, rows := [] }

/-- A row that has entered the array and whose output has not left: its index, its elements, its
block scales, the raw row being held as a little-endian bit string. -/
structure PassRow where
  idx : Nat
  bits : BitVec 8192
  scales : BitVec 256
  deriving DecidableEq, Repr

/-- State of a pass (R224 to R227). A pause of the die is no state of the pass (R243). -/
inductive PassState where
  | running | stopped
  deriving DecidableEq, Repr

/-- A pass: captured operands and position. -/
structure Pass where
  state : PassState
  src : Bool
  ax : Bool
  op : BitVec 3
  sw : Bool
  rnd : BitVec 2
  /-- source descriptor address, or tile number -/
  srcAddr : Word
  spos : Word
  count : Nat
  dspec : Word
  daddr : Word
  dpos : Word
  /-- descriptor contents captured at acceptance (R252) -/
  srcDesc : List Word
  dstDesc : List Word
  /-- the descriptors are to be read again at the restart (R220) -/
  reread : Bool
  seed : Word
  /-- ring and ASPACE of the owner when the pass was accepted or restarted -/
  ring : BitVec 2
  aspace : Word
  fmt : BitVec 4
  /-- next row to enter -/
  enter : Nat
  /-- next row whose output is to be applied -/
  done : Nat
  /-- the destination has refused the output of the oldest row inside (R228) -/
  refused : Bool
  inside : List PassRow
  /-- lines captured by the stream port, oldest first (R269) -/
  buffer : List (Nat × Line)
  flags : BitVec 6
  /-- a stop that is due: row, cause code, FAULTINFO -/
  due : Option (Nat × BitVec 8 × Word)
  /-- fault of a stopped pass not yet raised -/
  fault : Option (BitVec 8 × Word)
  mismatched : Bool
  deriving DecidableEq, Repr

/-- The matrix array of a core. -/
structure Arr where
  owner : Option Nat
  front : Plane
  back : Plane
  acc0 : AccPlane
  acc1 : AccPlane
  /-- a.ldw in progress: tile and half -/
  ldw : Option (Nat × Bool)
  /-- uncorrectable error of an a.ldw, to be raised: FAULTINFO (R222) -/
  ldwErr : Option Word
  pass : Option Pass
  zeroing : Bool
  /-- a forced save is in progress (R215) -/
  saving : Bool
  /-- threads whose array was taken (R216) -/
  lost : List Nat
  /-- a held claim or free of this thread will go on first (R205, R213) -/
  resv : Option Nat
  deriving DecidableEq, Repr

def Arr.free : Arr :=
  { owner := none, front := .zero, back := .zero, acc0 := .zero, acc1 := .zero, ldw := none,
    ldwErr := none, pass := none, zeroing := false, saving := false, lost := [], resv := none }

/-! ### Caches, arbiters and the paths between cores and banks -/

/-- A line of an L1 cache (R281, R291). -/
structure L1Line where
  data : Line
  way : Nat
  age : Nat
  pf : Bool
  deriving DecidableEq, Repr

/-- A cached translation (R324): the leaf entry that a walk found and its address, the page it maps by
shift and number, and its ASID; none for a global page. -/
structure TlbEnt where
  asid : Option Nat
  shift : Nat
  page : Nat
  pte : Word
  addr : Nat
  deriving DecidableEq, Repr

/-- A line of L2 with its tag (R285). -/
structure L2Line where
  data : Line
  bad : BitVec 16
  dirty : Bool
  way : Nat
  age : Nat
  /-- cores of the presence vector, by 34q + c, rising -/
  sharers : List Nat
  deriving DecidableEq, Repr

/-- Kinds of atomic (R71). -/
inductive AmoOp where
  | add | swap | cas | min | max | minu | maxu
  deriving DecidableEq, Repr

/-- A request of a core at a home bank. -/
inductive ReqKind where
  | load
  | prefetch (l2only : Bool)
  | store (off size : Nat) (val : Word)
  | amo (op : AmoOp) (off size : Nat) (b old : Word) (d : BitVec 5) (va : Word)
  | ifetch
  deriving DecidableEq, Repr

structure Req where
  kind : ReqKind
  /-- write number of a store (R371) -/
  wid : Nat
  core : Nat
  thr : Nat
  line : Nat
  cls : Nat
  age : Nat
  l2age : Nat
  deriving DecidableEq, Repr

/-- A request waiting at an arbiter (R314 to R317). -/
structure ArbWait (α : Type) where
  req : Nat
  wait : Nat
  /-- the period of the board reference in which it became trumped -/
  trump : Option Nat
  item : α
  deriving DecidableEq, Repr

/-- An arbiter: the requests that wait and those granted, the requester granted last, and the units it
has held in a row, 0 once it has let the grant go (R316). -/
structure Arb (α : Type) where
  waiting : List (ArbWait α)
  granted : List α
  last : Nat
  run : Nat
  deriving DecidableEq, Repr

/-- An arbiter after a device reset, with requester 0 as the last granted (DESIGN CHOICE, log entry 120). -/
def Arb.idle {α : Type} : Arb α := { waiting := [], granted := [], last := 0, run := 0 }

/-- Arbiter counters of one requester (R320). -/
structure ArbCount where
  grants : BitVec 32
  waits : BitVec 32
  longest : BitVec 32
  deriving DecidableEq, Repr

/-- What a home bank sends to a core, on one path (R289). -/
inductive CoreMsg where
  | fill (line : Nat) (data : Line) (age : Nat) (pf keep : Bool)
  | inval (line : Nat) (wid : Nat)
  /-- the value of an atomic, with the writes of other agents that it shows (R371) -/
  | value (thr line : Nat) (d : BitVec 5) (w : Word) (saw : List Nat)
  /-- the access to a line failed with this cause code; FAULTINFO is taken from the access -/
  | error (thr : Nat) (code : BitVec 8) (line : Nat) (info : Word)
  /-- a line, or the failure of a line, for the L1 instruction cache; `keep` as for a fill (R295) -/
  | ifill (line : Nat) (data : Line) (keep : Bool)
  | ierror (line : Nat) (code : BitVec 8)
  deriving DecidableEq, Repr

/-- A write performed at home whose invalidations are not all acknowledged (R367). -/
structure Write where
  id : Nat
  /-- queue numbers of the agents whose write it is (R392), 4,096 for any other -/
  agents : List Nat
  line : Nat
  acks : List Nat
  deriving DecidableEq, Repr

/-- A line update of accumulating writes (R278). -/
structure AccUpd where
  line : Nat
  acc : BitVec 3
  fmt : BitVec 4
  elems : Tab Word
  agents : List Nat
  /-- requester class (R293) -/
  cls : Nat
  age : Nat
  deriving DecidableEq, Repr

/-- The combining window of a bank: updates that arrive, entries, entries sent to the bank. -/
structure Window where
  arriving : List AccUpd
  entries : List AccUpd
  sent : List AccUpd
  deriving DecidableEq, Repr

/-- A miss register of an L1 (R296). -/
structure Miss where
  line : Nat
  pf : Bool
  /-- taken by an atomic, to which nothing attaches -/
  amo : Bool
  deriving DecidableEq, Repr

/-- The state of one core. -/
structure Core where
  tiles : Tab Tile
  arr : Arr
  l1d : Tab L1Line
  l1i : Tab L1Line
  /-- micro-addresses held by the microcode cache (R83) -/
  ucache : List Nat
  misses : List Miss
  /-- misses that wait under R297 -/
  missWait : List Req
  msgs : List CoreMsg
  /-- lines that the miss registers of the L1 instruction cache wait for (R299) -/
  imisses : List Nat
  /-- array cycles that the timer's count is still to take, below 0 where it has run ahead (R44) -/
  timerOwed : Int
  /-- writes of CORE_THR_EN, thread and bit, and of RESUME that a test holds, oldest first (R478) -/
  thrWrites : List (Nat × Option Bool)
  /-- thread that issued last (R32) -/
  last : Nat
  /-- stopped issuing under R54 -/
  stopped : Bool
  /-- a self-test slice or a targeted test holds the core -/
  testing : Bool
  /-- emergency frames occupied (CORE_EFRAME_CTL.OCC) -/
  occ : BitVec 16
  deriving DecidableEq, Repr

/-- A core after a device reset. Its issue pointer names thread 15 (DESIGN CHOICE, log entry 120). -/
def Core.idle : Core :=
  { tiles := [], arr := .free, l1d := [], l1i := [], ucache := [], misses := [], missWait := [],
    msgs := [], imisses := [], timerOwed := 0, thrWrites := [], last := 15, stopped := false, testing := false, occ := 0 }

/-! ### Synchronisation -/

/-- An entry of a waiter list: queue number (R392), s.take or s.wait, v or n. -/
structure Waiter where
  queue : Nat
  take : Bool
  arg : BitVec 32
  deriving DecidableEq, Repr

/-- A synchronisation object. -/
structure SyncObj where
  value : BitVec 32
  err : Bool
  waiters : List Waiter
  deriving DecidableEq, Repr

def SyncObj.zero : SyncObj := { value := 0, err := false, waiters := [] }

inductive SyncKind where
  | sig | wait | take | set | setErr
  deriving DecidableEq, Repr

/-- Who sent an operation to a home: a thread, the wait or take of an engine queue, the completion of a
descriptor in flight of an engine queue, and others. -/
inductive SyncBy where
  | thread (t : Thr) (d : BitVec 5)
  | queue (n : Nat)
  | flight (n id : Nat)
  | host
  | debug
  | regs (t : Thr)
  | remote (p : Packet) (port : BitVec 4)
  | unit
  deriving DecidableEq, Repr

structure SyncOp where
  /-- order of arrival among the operations of the device -/
  seq : Nat
  kind : SyncKind
  src : SyncBy
  obj : BitVec 16
  arg : BitVec 32
  deriving DecidableEq, Repr

/-- A release of an s.wait or a grant of an s.take on its way to a queue. -/
structure Release where
  queue : Nat
  take : Bool
  status : Bool
  deriving DecidableEq, Repr

/-! ### Links, transfer engines and pots -/

/-- A payload flit: its channel, whether it holds cells, and its bytes, which a cell flit fills four cells
at a time (R395). -/
structure Flit where
  vc : BitVec 3
  cell : Bool
  bytes : List Byte
  deriving DecidableEq, Repr

/-- A group the sender keeps until it is acknowledged (R398): its payload flits, the headers of the long
packets that begin in it, the packets that do, and its link flit once it is closed. -/
structure SentGroup where
  gseq : BitVec 16
  flits : List Flit
  hdrs : List (List Byte)
  packets : List (BitVec 3 × Packet)
  link : List Byte
  deriving DecidableEq, Repr

/-- A flit that waits at a port's egress (R434): its channel, its packet and its number in the packet. -/
structure TxFlit where
  vc : BitVec 3
  pkt : Packet
  part : Nat
  deriving DecidableEq, Repr

structure Port where
  rxNext : BitVec 16
  rxHeld : Option Group
  nakOut : Bool
  txSeq : BitVec 16
  txHeld : List SentGroup
  /-- the newest group may take further flits -/
  txOpen : Bool
  /-- checks of the payload flits of the group that was closed last (R395) -/
  txCrcs : List (BitVec 32)
  /-- what the port put on its lanes last: link flits and payload flits in order -/
  wire : List (List Byte)
  resends : Nat
  /-- credits held for each virtual channel -/
  credits : Tab Nat
  /-- credits to return -/
  owed : Tab Nat
  rx : Tab (List Packet)
  /-- the long packet of each channel whose flits have not all arrived -/
  rxPart : Tab Packet
  /-- cells left in the cell flits that each channel buffers, oldest first -/
  rxCells : Tab (List Nat)
  /-- channels whose head is a write that has been written and not yet performed (R423) -/
  rxDone : List Nat
  egress : Arb TxFlit
  /-- the requester whose packet is only partly sent, by channel (R400) -/
  txOn : Tab Nat
  /-- configuration cycles since this attempt began -/
  attempt : Nat
  upTime : Nat
  trained : Bool
  /-- generation chosen in step 2 -/
  gen : Nat
  deriving DecidableEq, Repr

def Port.down : Port :=
  { rxNext := 0, rxHeld := none, nakOut := false, txSeq := 0, txHeld := [], txOpen := false, txCrcs := [],
    wire := [], resends := 0, credits := [], owed := [], rx := [], rxPart := [], rxCells := [],
    rxDone := [], egress := .idle, txOn := [], attempt := 0, upTime := 0, trained := false, gen := 0 }

/-- A posted descriptor and the thread that posted it. -/
structure Desc where
  words : List Word
  /-- the virtual address it was read from -/
  addr : Word
  poster : Option Nat
  deriving DecidableEq, Repr

/-- One write of an element or row: bytes; four bits of a byte; an accumulating write (R275). -/
inductive Wr where
  | put (va : Word) (size v : Nat)
  | nib (va : Word) (high : Bool) (v : Nat)
  | acc (va : Word) (op fmt v : Nat)
  deriving DecidableEq, Repr

/-- Where a part of an awaited response goes: the response's tag, the first half-byte in it, the G4 block
that is written whole with it (R553), if any, and the write. -/
structure Place where
  tag : BitVec 32
  half : Nat
  block : Option Nat
  wr : Wr
  deriving DecidableEq, Repr

/-- A descriptor that has begun. -/
structure Flight where
  id : Nat
  desc : Desc
  /-- acknowledgements and responses awaited: the tag, and the port that the request left by (R406) -/
  awaits : List (BitVec 32 × Nat)
  places : List Place
  /-- writes of G4 blocks whose data have not all arrived, by block (R553) -/
  ready : List (Nat × Wr)
  /-- completion signal sent, acknowledgement awaited -/
  signalled : Bool
  /-- the port that a remote completion signal left by -/
  sigPort : Option Nat
  /-- a CONTRIB: completes with its slot -/
  pot : Bool
  deriving DecidableEq, Repr

/-- A flight that awaits nothing yet. -/
def Flight.start (id : Nat) (d : Desc) : Flight :=
  { id := id, desc := d, awaits := [], places := [], ready := [], signalled := false, sigPort := none, pot := false }

/-- The descriptor at a queue's head while its lines move (R420, R422): its flight, the tensor descriptors
of its source, destination and indexes as they were read when it started, the batches moved so far, and the
item in progress with its index. -/
structure DescRun where
  flight : Flight
  src : List Word
  dst : List Word
  idx : List Word
  pos : Nat
  item : Option (Nat × Int)
  deriving DecidableEq, Repr

structure TeQueue where
  descs : List Desc
  /-- the descriptor at the head, once it has begun to move lines -/
  run : Option DescRun
  flight : List Flight
  /-- the head waits on an object -/
  waiting : Bool
  /-- the head of a HALTED queue has aborted -/
  halted : Bool
  /-- the head is a CONTRIB whose slot is active -/
  busy : Bool
  stalled : Nat
  deriving DecidableEq, Repr

def TeQueue.empty : TeQueue :=
  { descs := [], run := none, flight := [], waiting := false, halted := false, busy := false, stalled := 0 }

/-- One block of a pot: contributions so far and its 128 FP32 sums, sum e in bits 32e. -/
structure PotBlock where
  count : Nat
  sums : VReg
  deriving DecidableEq, Repr

/-- A flit offered to a pot: its reduction, index and 128 G16 values, and the packet that carried it, which
is to be acknowledged; or a RED_ABORT that the device has sent to itself (R436). -/
structure PotFlit where
  rid : BitVec 16
  idx : Nat
  vals : TileRow
  from? : Option Packet
  abort : Bool
  deriving DecidableEq, Repr

/-- A slot of a pot (R428): 0 idle, 1 active, 2 aborted. -/
structure PotSlot where
  state : Nat
  queue : Nat
  flight : Nat
  words : List Word
  base : Nat
  outs : List Nat
  localNext : Nat
  blocks : Tab PotBlock
  /-- tags of forwarded flits not yet acknowledged -/
  unacked : List (BitVec 32)
  deriving DecidableEq, Repr

def PotSlot.idle : PotSlot :=
  { state := 0, queue := 0, flight := 0, words := [], base := 0, outs := [], localNext := 0,
    blocks := [], unacked := [] }

/-! ### Context manager and dealer -/

/-- A context page-table entry: tier (0 HBM, 1 DDR5, 2 in motion) and page number. -/
structure CtxEnt where
  tier : Nat
  ppn : Nat
  deriving DecidableEq, Repr

/-- A page record. States: 1 normal, 2 FILLING, 3 before image. -/
structure PageRec where
  h64 : Word
  h32 : BitVec 32
  tag : BitVec 32
  shard : Nat
  ref : Nat
  state : Nat
  idx : Bool
  age : Nat
  deriving DecidableEq, Repr

/-- An entry of the prefix index. -/
structure IdxEnt where
  tag : BitVec 32
  shard : Nat
  h64 : Word
  h32 : BitVec 32
  ppn : Nat
  deriving DecidableEq, Repr

inductive CtxNeed where
  | alloc (key : Nat)
  | copy (key : Nat)
  | snap (page : Nat) (pte : Nat)
  | move (key : Nat)
  deriving DecidableEq, Repr

/-- A write held by the context manager. -/
structure CtxHeld where
  thr : Option Nat
  need : CtxNeed
  /-- its event has been raised -/
  told : Bool
  deriving DecidableEq, Repr

/-- A page move in progress: its key, old and new page, whether it demotes. -/
structure CtxMove where
  key : Nat
  src : Nat
  dst : Nat
  down : Bool
  deriving DecidableEq, Repr

structure Ctx where
  pages : Tab PageRec
  ents : Tab CtxEnt
  index : List IdxEnt
  held : List CtxHeld
  moves : List CtxMove
  /-- before images of the current snapshot, in log order: page, image -/
  images : List (Nat × Nat)
  /-- CTX_SNAP command in progress: 1 RELEASE, 2 RESTORE -/
  snapCmd : Nat
  shadowUsed : Nat
  lowRaised : Bool
  /-- demotion has begun below HBM_LOW and HBM_HIGH is not yet reached -/
  demoting : Bool
  /-- held writes whose copy met an unreadable line, by thread (R463) -/
  failed : List (Option Nat × CtxNeed)
  /-- the MMU invalidation in progress and those started behind it: MMU_INVAL and MMU_INVAL_VA -/
  mmuQueued : List (Word × Word)
  /-- CTX_CFG and the shares, by register offset, as the metadata was taken from them (R330) -/
  taken : Tab Word
  deriving DecidableEq, Repr

def Ctx.empty : Ctx :=
  { pages := [], ents := [], index := [], held := [], moves := [], images := [], snapCmd := 0,
    shadowUsed := 0, lowRaised := false, demoting := false, failed := [], mmuQueued := [], taken := [] }

inductive SeqState where
  | live | parked | carry
  deriving DecidableEq, Repr

/-- A sequence. -/
structure Sequence where
  state : SeqState
  part : Bool
  grp : Nat
  copy : Nat
  slot : Nat
  plen : Nat
  len : Nat
  limit : Nat
  promptId : BitVec 32
  user : BitVec 128
  skey : BitVec 32
  changes : List (BitVec 32 × BitVec 32)
  lastHand : Nat
  inHand : Bool
  prefilled : Bool
  /-- end of life reached, waiting for a free record: STATUS (R361) -/
  ending : Option (BitVec 4)
  /-- working version at parking -/
  pinned : BitVec 32
  parkAt : Nat
  h64 : Word
  h32 : BitVec 32
  /-- weight tag of every block so far, if one -/
  tag : Option (BitVec 32)
  /-- of a carry ID: its first and last micro-batch -/
  mbs : Nat × Nat
  deriving DecidableEq, Repr

/-- An admitted prompt group that awaits its prefill hand. -/
structure PromptGroup where
  id : Nat
  part : Bool
  first : Nat
  copies : Nat
  plen : Nat
  pos : Nat
  skey : BitVec 32
  /-- the words of its prompt entry -/
  entry : List Word
  /-- its prefill hand has been formed, and has completed -/
  started : Bool
  filled : Bool
  deriving DecidableEq, Repr

/-- A hand in flight. -/
structure HandRec where
  id : Nat
  slot : Nat
  prefill : Bool
  part : Bool
  version : BitVec 32
  entries : List (Nat × Nat × Nat)
  deriving DecidableEq, Repr

/-- A publication: the devices to be signalled and the object, and the writes to other devices that are not
yet acknowledged, by tag, device and port. -/
structure DealPub where
  devs : List (BitVec 20)
  obj : Nat
  tags : List (BitVec 32 × BitVec 20 × Nat)
  deriving DecidableEq, Repr

/-- A write of the dealer behind one that the context manager holds: bytes at an address, or the tail of the
rollout pool. -/
inductive DealOut where
  | write (va size v : Nat)
  | tail (k : Nat)
  deriving DecidableEq, Repr

structure Dealer where
  seqs : Tab Sequence
  groups : List PromptGroup
  hands : List HandRec
  nextHand : Nat
  nextGroup : Nat
  parks : Nat
  turn : Bool
  version : BitVec 32
  /-- token slots held by records -/
  heldSlots : List (Nat × Nat)
  shrinking : Bool
  /-- records written to the evaluation pool -/
  etail : Nat
  /-- prompt entries put back at the head of the queue -/
  requeued : List (List Word)
  pubs : List DealPub
  /-- writes that are held, oldest first (R338, R341, R350) -/
  out : List DealOut
  deriving DecidableEq, Repr

def Dealer.empty : Dealer :=
  { seqs := [], groups := [], hands := [], nextHand := 0, nextGroup := 0, parks := 0, turn := false,
    version := 0, heldSlots := [], shrinking := false, etail := 0, requeued := [], pubs := [], out := [] }

/-! ### Commit unit, safety controller, self-test, power -/

/-- A child in the commit tree, with the last READY and COPIED values it has sent since START. -/
structure Child where
  dev : BitVec 20
  ready : Option (BitVec 32)
  copied : Option (BitVec 32)
  deriving DecidableEq, Repr

/-- The gate of a version: configuration cycles since UPD was counted, and whether it has opened. -/
structure GateRec where
  version : BitVec 32
  age : Nat
  opened : Bool
  /-- cycles since the gate opened -/
  since : Nat
  deriving DecidableEq, Repr

/-- The commit unit. `partner` and `second` are the states of the two holders of R452: 0 not valid,
1 asked, 2 accepted and counted, 3 accepted, not counted, 4 refused. -/
structure CommitUnit where
  children : List Child
  gates : List GateRec
  r0 : BitVec 32
  /-- last READY and COPIED sent, or that would have been -/
  ready : Option (BitVec 32)
  copied : Option (BitVec 32)
  /-- version of the last complete own securing copy -/
  ownCopied : Option (BitVec 32)
  /-- the unit of GO for the present U has been given -/
  goOut : Bool
  /-- version of the securing copy in progress -/
  securing : Option (BitVec 32)
  /-- its holders and their areas, as 2 × slot + area -/
  targets : List (BitVec 20 × Nat)
  /-- versions that the headers of the holders' areas hold, by 2 × slot + area, as far as known (R450) -/
  areas : Tab (BitVec 32)
  /-- page descriptors posted so far -/
  posted : Nat
  /-- its headers have been sent -/
  header : Bool
  firstSecured : Bool
  heardParent : Bool
  partner : Nat
  second : Nat
  /-- configuration cycles since FEED_QUERY and since the last HELLO -/
  feedAge : Nat
  helloAge : Nat
  deriving DecidableEq, Repr

def CommitUnit.idle : CommitUnit :=
  { children := [], gates := [], r0 := 0, ready := none, copied := none, ownCopied := none,
    goOut := false, securing := none, targets := [], areas := [], posted := 0, header := false,
    firstSecured := false, heardParent := false, partner := 0, second := 0, feedAge := 0,
    helloAge := 0 }

/-- Regions of the targeted tests (R469). -/
inductive Region where
  | hbmRow (addr : Nat)
  | ddrRow (addr : Nat)
  | l2way (bank way : Nat)
  | core (c : Nat)
  | sram (id : Nat)
  | port (p : Nat)
  | unit (id : Nat)
  deriving DecidableEq, Repr

structure Safety where
  /-- reports that have not been classified -/
  reports : List Report
  /-- PENDING events: cores of lapsed slices, overdue analogue checks -/
  lapses : List Nat
  overdue : List (AnaPart × Nat)
  /-- targeted tests queued in each quadrant, the first in progress or next -/
  tests : Tab (List Region)
  testing : Tab Bool
  /-- counts per region: corrected errors and checksum mismatches, with hours -/
  counts : List (Region × Bool × Nat)
  /-- sensors excluded (R482) -/
  excluded : List Nat
  /-- a device reset has been asked for by a DEVICE event -/
  resetDue : Bool
  /-- memory channels that retrain and hold their accesses -/
  retrain : List Nat
  /-- quadrant in recovery (R474) -/
  recover : Option Nat
  /-- 32 × bank + way of the L2 line that an access last found unreadable -/
  suspect : Nat
  deriving DecidableEq, Repr

def Safety.idle : Safety :=
  { reports := [], lapses := [], overdue := [], tests := [], testing := [], counts := [],
    excluded := [], resetDue := false, retrain := [], recover := none, suspect := 0 }

/-- Periodic self-test (R475 to R480): the slot in progress and its configuration cycles; in each
quadrant the cores whose slices are due, with the cycles since their slots began and the tests that
were in line before them, and the core under test; the cores that have passed a slice, with the
cycles since. Before the first slot the slot is 34. -/
structure SelfTest where
  slot : Nat
  elapsed : Nat
  due : Tab (List (Nat × Nat × Nat))
  running : Tab (Option Nat)
  passed : List (Nat × Nat)
  deriving DecidableEq, Repr

def SelfTest.idle : SelfTest :=
  { slot := 34, elapsed := 750000, due := [], running := [], passed := [] }

/-- Power, thermal and ageing manager (R541 to R549). -/
structure Power where
  dp : Nat
  dt : Tab Nat
  window : Nat
  /-- microseconds of the present run above 2,800 W -/
  runOver : Nat
  /-- a condition of R541 has held in the present period -/
  capped : Bool
  tripped : Bool
  supplyHeld : Bool
  stages : Bool
  /-- PGOOD is released (R528) -/
  pgood : Bool
  /-- islands paused for a clock change -/
  changing : List Nat
  /-- islands stopped because their oscillators failed (R482) -/
  halted : List Nat
  /-- microseconds since the input voltage was last at or below 43.0 V (R544) -/
  sagClear : Nat
  /-- islands whose voltage is being raised, with the steps left -/
  raising : Tab Nat
  slack : Tab (BitVec 16)
  /-- the readings taken, by sensor -/
  temps : Tab (BitVec 16)
  alert : BitVec 16
  deriving DecidableEq, Repr

def Power.reset : Power :=
  { dp := 8, dt := [], window := 0, runOver := 0, capped := false, tripped := false,
    supplyHeld := false, stages := true, pgood := true, changing := [], halted := [], sagClear := 0, raising := [], slack := [], temps := [],
    alert := 8 }

/-! ### Boot, security, transactions, host -/

/-- What the boot sequence has found: the candidates left, the copy tried (1 A, 2 B), its
header fields, and where the control-core image lies in it. -/
structure Boot where
  todo : List Nat
  copy : Nat
  svn : BitVec 8
  gen : BitVec 32
  flags : BitVec 8
  size : Nat
  sections : List (Nat × Nat × Nat × Nat)
  loadAddr : Nat
  imageOff : Nat
  imageLen : Nat
  deckApplied : Bool
  /-- installed DDR5 bytes of each quadrant (R540) -/
  ddr : Tab Nat
  /-- the bytes of the copy and of its training record as step 2 read them (R502, R506) -/
  image : List Byte
  record : List Byte
  /-- the record's CRC-32 is good -/
  recordGood : Bool
  /-- identities read: HBM4 stack 2q + s, and 8 + channel (R498) -/
  idents : Tab Word
  deriving DecidableEq, Repr

def Boot.start : Boot :=
  { todo := [], copy := 0, svn := 0, gen := 0, flags := 0, size := 0, sections := [],
    loadAddr := 0, imageOff := 0, imageLen := 0, deckApplied := false, ddr := [], image := [], record := [],
    recordGood := false, idents := [] }

structure Security where
  /-- security command in progress, and who sent it -/
  busy : Option (BitVec 8)
  /-- draw number of SEC_NONCE; none once it has been zeroed (R490) -/
  nonceDraw : Option Nat
  meas : Tab (BitVec 384)
  cert : List Byte
  /-- SPDM messages that later signatures cover: version to algorithms, digests and certificates, and
  measurements (R525) -/
  spdmVca : List Byte
  spdmCerts : List Byte
  spdmMeas : List Byte
  deriving DecidableEq, Repr

def Security.idle : Security :=
  { busy := none, nonceDraw := some 0, meas := [], cert := [], spdmVca := [], spdmCerts := [],
    spdmMeas := [] }

/-- One open configuration transaction (R512): requester 0 the host, 1 the debug port, 2 + TID a
thread; staged registers by offset and micro-words by quadrant and micro-address. -/
structure Txn where
  who : Nat
  id : BitVec 16
  regs : Tab Word
  words : Tab (BitVec 96)
  ucodeAddr : Tab Nat
  ucodeLo : Tab Word
  failed : Bool
  committed : Bool
  began : Nat
  age : Nat
  deriving DecidableEq, Repr

/-- A requester's last outcome (CFG_TXN_STATUS). -/
structure TxnResult where
  result : Nat
  last : BitVec 16
  deriving DecidableEq, Repr

structure TxnUnit where
  txns : List Txn
  nextId : BitVec 16
  commits : Nat
  /-- offsets and micro-words written by each accepted commit, by commit number -/
  log : List (Nat × List Nat)
  results : Tab TxnResult
  deriving DecidableEq, Repr

def TxnUnit.idle : TxnUnit := { txns := [], nextId := 1, commits := 0, log := [], results := [] }

/-- A completion of a host or debug access. -/
inductive HostReply where
  | data (w : Word)
  | bytes (b : List Byte)
  | unsupported
  | abort
  deriving DecidableEq, Repr

structure HostIf where
  reply : Option HostReply
  /-- MSI-X messages sent, newest first -/
  msgs : List Nat
  doe : List Byte
  /-- registers of the PCI Express configuration space that differ from their reset values, and the BAR
  assignments (R533) -/
  config : Tab (BitVec 32)
  bar0 : Word
  bar2 : Word
  deriving DecidableEq, Repr

def HostIf.idle : HostIf := { reply := none, msgs := [], doe := [], config := [], bar0 := 0, bar2 := 0 }

/-- A retirement entry (SAFE_RETIRE). -/
structure RetireEnt where
  kind : BitVec 3
  region : BitVec 48
  deriving DecidableEq, Repr

/-- An island of the ageing store (R489). -/
structure Island where
  steps : BitVec 8
  lowered : BitVec 8
  limit : Bool
  deriving DecidableEq, Repr

def Island.new : Island := { steps := 0, lowered := 0, limit := false }

/-- What a device reset keeps (R492). -/
structure Kept where
  flash : Tab Byte
  /-- fused life-cycle state -/
  lc : BitVec 3
  svnMin : BitVec 6
  owner : BitVec 384
  /-- draw number of the identity key, if created -/
  identity : Option Nat
  retire : List RetireEnt
  ages : Tab Island
  hours : BitVec 32
  /-- twenty-five-megahertz periods into the present hour -/
  subHour : Nat
  resets : BitVec 32
  lastDev : Word
  /-- physical core that holds each logical number, by 34q + c -/
  coreMap : Tab Nat
  /-- DIAGNOSTIC latch (R522) -/
  diag : Bool
  deriving DecidableEq, Repr

def Kept.new : Kept :=
  { flash := [], lc := 0, svnMin := 0, owner := 0, identity := none, retire := [], ages := [],
    hours := 0, subHour := 0, resets := 0, lastDev := 0, coreMap := [], diag := false }

/-- The access codes of a register of the device register space (R6), one mask for each code, and
its reset value; a bit in no mask is reserved (R7). -/
structure RegDef where
  rw : Word
  w1c : Word
  wo : Word
  ro : Word
  rwl : Word
  txn : Word
  reset : Word
  deriving DecidableEq, Repr

/-- The blocks of the BAR0 map. -/
inductive Blk where
  | core (q c : Nat)
  | qcm (q : Nat)
  | l2 (q : Nat)
  | sync (q : Nat)
  | link (q : Nat)
  | te (n : Nat)
  | mc (q : Nat)
  | ident | cfg | safe | commit | sec | pwr | age | selftest | deal | job | host
  | unassigned
  deriving DecidableEq, Repr

/-! ### The whole state -/

/-- The device. -/
structure State where
  /-- commands that wait, first in first out -/
  pending : List Instr
  /-- the model's own draw counter of free values -/
  fresh : Nat
  /-- periods of the 25 MHz board reference since the device reset -/
  ticks : Nat
  /-- registers of the device register space, by BAR0 offset -/
  regs : Tab Word
  /-- microcode stores, by 65,536 × quadrant + micro-address -/
  ucode : Tab (BitVec 96)
  /-- micro-words with an uncorrectable error -/
  ucodeBad : List Nat
  /-- DRAM, by local physical address -/
  mem : Tab Byte
  /-- uncorrectable words of each DRAM line -/
  memBad : Tab (BitVec 16)
  l2 : Tab L2Line
  /-- L2 sets marked lost, by (32q + bank) × 1,024 + set, oldest first -/
  lost : List Nat
  windows : Tab Window
  banks : Tab (Arb Req)
  channels : Tab (Arb Req)
  pots : Tab (Arb PotFlit)
  arbCounts : Tab ArbCount
  /-- the error that the next access of a bank that is granted as it arrives will meet -/
  bankErr : Tab L2Err
  /-- a pass saved in memory, by the physical address of its header: its record and the SEED it holds (R133) -/
  passSeeds : Tab (List Word × Word)
  writes : List Write
  nextWrite : Nat
  threads : Tab Thread
  cores : Tab Core
  /-- cores present after numbers were assigned (QCM_PRESENT) -/
  present : Tab Bool
  /-- cached translations, oldest first, of a core by its index and of transfer engine n by 136 + n -/
  tlbs : Tab (List TlbEnt)
  /-- L2 cycles since a quadrant's way transition began (R312) -/
  wayAge : Tab Nat
  /-- the physical way of a quadrant that holds way 0 since the device reset (R470) -/
  wayZero : Tab Nat
  sync : Tab SyncObj
  nextSync : Nat
  syncQ : Tab (List SyncOp)
  releases : List Release
  /-- TID of the thread that MASKED_FAULT pending on a quadrant's monitor reports (R109) -/
  maskedTid : Tab Word
  ports : Tab Port
  queues : Tab TeQueue
  /-- the queue that each engine served last (R420) -/
  teTurn : Tab Nat
  nextTag : BitVec 32
  nextFlight : Nat
  potSlots : Tab PotSlot
  /-- a contribution was received within the last 2^20 array cycles -/
  potQuiet : Tab Nat
  /-- the deadlock conditions have failed since DECL was set (R392) -/
  deadArmed : Bool
  ctx : Ctx
  dealer : Dealer
  commit : CommitUnit
  safety : Safety
  selfTest : SelfTest
  power : Power
  boot : Boot
  security : Security
  txn : TxnUnit
  host : HostIf
  kept : Kept
  /-- deck values of ENTRY0 and ENTRY1 -/
  deckEntry0 : Word
  deckEntry1 : Word
  /-- deck value of the device ID -/
  devId : BitVec 20
  deriving DecidableEq, Repr

/-- The device after a power-on reset: boot step 1 is in progress, every register holds its reset
value, nothing is listed in memory and no command waits. Free values 0 and 1 are SEC_NONCE. -/
def State.reset : State :=
  { pending := [], fresh := 2, ticks := 0, regs := [], ucode := [], ucodeBad := [], mem := [],
    memBad := [], l2 := [], lost := [], windows := [], banks := [], channels := [], pots := [],
    arbCounts := [], bankErr := [], passSeeds := [], writes := [], nextWrite := 0, threads := [], cores := [], present := [],
    tlbs := [], wayAge := [], wayZero := [], sync := [], nextSync := 0, syncQ := [], releases := [], maskedTid := [], ports := [], queues := [], teTurn := [], nextTag := 0,
    nextFlight := 0, potSlots := [], potQuiet := [], deadArmed := true, ctx := .empty,
    dealer := .empty, commit := .idle, safety := .idle, selfTest := .idle, power := .reset,
    boot := .start, security := .idle, txn := .idle, host := .idle, kept := .new, deckEntry0 := 0,
    deckEntry1 := 0, devId := 0 }

/-! ### What the parts of a step answer -/

/-- Kinds of access (R322). -/
inductive Acc where
  | fetch | load | store | amo
  deriving DecidableEq, Repr

/-- Who makes an access to memory: the agent number (R392), the core whose stores it sees, the
thread a held write belongs to, its ASPACE and ring, its requester class and the L2 age of its
fills. -/
structure Agent where
  who : Nat
  core : Option Nat
  thr : Option Nat
  aspace : Word
  ring : Nat
  cls : Nat
  age : Nat
  deriving DecidableEq, Repr

/-- What a translation answers: a physical address; a fault with its cause code and FAULTINFO; or a
write that the context manager holds. -/
inductive XRes where
  | to (pa : Nat)
  | trap (code : BitVec 8) (info : Word)
  | held (need : CtxNeed)
  deriving DecidableEq, Repr

/-- What a frame push answers: it was valid; it was not, with the FAULTINFO of FRAME_INVALID; or the
context manager holds it. -/
inductive Push where
  | ok
  | invalid (info : Word)
  | held (need : CtxNeed)
  deriving DecidableEq, Repr

/-- What the body of an instruction answers: it has completed and the next instruction follows; it
has completed and execution continues elsewhere; it has issued, and its thread waits with the pc
unchanged; it needs a unit that cannot accept it, and has not issued; or it raises a synchronous fault. -/
inductive Body where
  | done (s : State)
  | goto (s : State) (pc : Word)
  | again (s : State)
  | stall (s : State) (n : Need)
  | trap (s : State) (code : BitVec 8) (info : Word)
  deriving DecidableEq, Repr

/-- What the fetch of an instruction answers: its words are there; its thread waits; or a fault. -/
inductive Fetched where
  | ok
  | wait
  | fault (code : BitVec 8) (info : Word)
  deriving DecidableEq, Repr

/-- What the accesses of one element or row answer: their values; the lines that have not arrived; or
a fault. -/
inductive Got where
  | vals (v : List Nat)
  | miss (lines : List Nat)
  | fault (code : BitVec 8) (info : Word)
  deriving DecidableEq, Repr

/-- What the writes of one element or row answer: done; a fault; or held by the context manager. -/
inductive Put where
  | ok
  | fault (code : BitVec 8) (info : Word)
  | held (need : CtxNeed)
  deriving DecidableEq, Repr

/-! ### Outcomes -/

/-- Faults of the block: it has none. Every condition the manual describes leads to a next state. -/
inductive Fault where
  deriving DecidableEq, Repr

/-- Refusals of the block. -/
inductive Refusal where
  /-- raised by an arm of Dispatch that has no meaning yet; safe -/
  | notModelled (mnemonic : String)
  deriving DecidableEq, Repr

end Sys2Proof.Machine
end

