-- ==== Sys2Proof/Machine/RegMap.lean ====
section
/-! DEFINITION. The BAR0 map (R530, the map of Host interface): which block and register an offset
names, each register's access masks and reset value, transcribed from the register tables of the
chapters. Deck values reset to 0 until the deck is applied (R8, R496). -/

namespace Sys2Proof.Machine

open Sys2Proof

/-- A register's masks in the order RW, W1C, WO, RO, RWL, TXN, and its reset value. -/
def regDef (rw w1c wo ro rwl txn reset : Nat) : RegDef :=
  { rw := BitVec.ofNat 64 rw, w1c := BitVec.ofNat 64 w1c, wo := BitVec.ofNat 64 wo,
    ro := BitVec.ofNat 64 ro, rwl := BitVec.ofNat 64 rwl, txn := BitVec.ofNat 64 txn,
    reset := BitVec.ofNat 64 reset }

/-- Registers of the `core` block by offset; an offset that stands for an indexed register is the index-0 one. -/
def coreRegs : List (Nat × RegDef) :=
  [/- CORE_INFO -/ (0x0, regDef 0x0 0x0 0x0 0xFF03 0x0 0x0 0x0),
   /- CORE_THR_EN -/ (0x8, regDef 0xFFFF 0x0 0x0 0x0 0x0 0x0 0x0),
   /- CORE_THR_STATE -/ (0x10, regDef 0x0 0x0 0x0 0xFFFFFFFFFFFFFFFF 0x0 0x0 0x0),
   /- CORE_CYCLE -/ (0x18, regDef 0x0 0x0 0x0 0xFFFFFFFFFFFFFFFF 0x0 0x0 0x0),
   /- CORE_TIMER_CTL -/ (0x20, regDef 0xC000000F 0x100 0x0 0x0 0x0 0x0 0x0),
   /- CORE_TIMER -/ (0x28, regDef 0xFFFFFFFF 0x0 0x0 0x0 0x0 0x0 0x0),
   /- CORE_TIMER_RELOAD -/ (0x30, regDef 0xFFFFFFFF 0x0 0x0 0x0 0x0 0x0 0x0),
   /- CORE_FREQ -/ (0x38, regDef 0x0 0x0 0x0 0xFF 0x0 0x0 0x0),
   /- CORE_ISSUED -/ (0x40, regDef 0xFFFFFFFFFFFFFFFF 0x0 0x0 0x0 0x0 0x0 0x0),
   /- CORE_IDLE -/ (0x48, regDef 0xFFFFFFFFFFFFFFFF 0x0 0x0 0x0 0x0 0x0 0x0),
   /- CORE_EFRAME_CTL -/ (0x50, regDef 0x0 0xFFFF 0xFFFF00000000 0x0 0x0 0x0 0x0),
   /- CORE_ARRAY_CTL -/ (0x58, regDef 0x0 0x100000000 0xFFFF 0x0 0x0 0x0 0x0)] ++
  [/- CORE_ARRAY_ROWS -/ (0x60, regDef 0xFFFFFFFFFFFFFFFF 0x0 0x0 0x0 0x0 0x0 0x0),
   /- CORE_ARRAY_BUSY -/ (0x68, regDef 0xFFFFFFFFFFFFFFFF 0x0 0x0 0x0 0x0 0x0 0x0),
   /- CORE_ARRAY_CSERR -/ (0x70, regDef 0x0 0xFFFFFFFF 0x0 0x0 0x0 0x0 0x0),
   /- CORE_L1_MISS -/ (0x78, regDef 0xFFFFFFFFFFFFFFFF 0x0 0x0 0x0 0x0 0x0 0x0),
   /- CORE_L1_MERGE -/ (0x80, regDef 0xFFFFFFFFFFFFFFFF 0x0 0x0 0x0 0x0 0x0 0x0),
   /- CORE_PF_STAT -/ (0x88, regDef 0xFFFFFFFFFFFFFFFF 0x0 0x0 0x0 0x0 0x0 0x0),
   /- CORE_BLOCKMODE -/ (0x90, regDef 0x0 0x0 0x0 0x7 0x0 0x0 0x3),
   /- CORE_EFRAME word -/ (0x1000, regDef 0xFFFFFFFFFFFFFFFF 0x0 0x0 0x0 0x0 0x0 0x0)]

/-- Registers of the `qcm` block by offset; an offset that stands for an indexed register is the index-0 one. -/
def qcmRegs : List (Nat × RegDef) :=
  [/- QCM_PRESENT -/ (0x0, regDef 0x0 0x0 0x0 0x3FFFFFFFF 0x0 0x0 0x0),
   /- QCM_COUNT -/ (0x8, regDef 0x0 0x0 0x0 0xFF 0x0 0x0 0x0),
   /- QCM_SPARES -/ (0x10, regDef 0x0 0x0 0x0 0x3 0x0 0x0 0x0),
   /- QCM_MONITOR -/ (0x18, regDef 0x0 0x10000 0x0 0x0 0x103 0x0 0x0),
   /- UCODE_ADDR -/ (0x100, regDef 0x8000FFFF 0x0 0x0 0x0 0x0 0x0 0x0),
   /- UCODE_DATA_LO -/ (0x108, regDef 0x0 0x0 0x0 0x0 0x0 0xFFFFFFFFFFFFFFFF 0x0),
   /- UCODE_DATA_HI -/ (0x110, regDef 0x0 0x0 0x0 0x0 0x0 0xFFFFFFFF 0x0),
   /- DEC_SLOT_k -/ (0x200, regDef 0x0 0x0 0x0 0x0 0x0 0x8FC0FFFF0000FFFF 0x0)]

/-- Registers of the `l2` block by offset; an offset that stands for an indexed register is the index-0 one. -/
def l2Regs : List (Nat × RegDef) :=
  [/- ARB_WAYMASK_c -/ (0x0, regDef 0x0 0x0 0x0 0x0 0x0 0xFFFFFF 0x0),
   /- L2_WAYPWR -/ (0x100, regDef 0xFFFFFE 0x0 0x0 0x11FFFFFFF000001 0x0 0x0 0xFFFFFFFFFFFF),
   /- L2_BLOCKMODE -/ (0x108, regDef 0x0 0x0 0x0 0x3FFFFFFFF 0x0 0x0 0x1FFFFFFFF),
   /- L2_LOST -/ (0x110, regDef 0x0 0x0 0x4000000000000000 0x8000FFFF00007FFF 0x0 0x0 0x0),
   /- ARB_TRUMP_THRESH -/ (0x200, regDef 0x0 0x0 0x0 0x0 0x0 0xFFFFFFFFFFFF 0x0),
   /- ARB_SEL -/ (0x300, regDef 0x33F3F 0x0 0x0 0x0 0x0 0x0 0x0),
   /- ARB_GRANTS -/ (0x308, regDef 0xFFFFFFFF 0x0 0x0 0x0 0x0 0x0 0x0),
   /- ARB_WAIT -/ (0x310, regDef 0xFFFFFFFF 0x0 0x0 0x0 0x0 0x0 0x0),
   /- ARB_MAXWAIT -/ (0x318, regDef 0xFFFFFFFF 0x0 0x0 0x0 0x0 0x0 0x0)]

/-- Registers of the `sync` block by offset; an offset that stands for an indexed register is the index-0 one. -/
def syncRegs : List (Nat × RegDef) :=
  [/- SYNC_RANGE -/ (0x0, regDef 0x0 0x0 0x0 0x0 0x0 0x3FFF3FFF 0x0),
   /- SYNC_HOST_OP -/ (0x8, regDef 0x0 0x0 0xC0003FFFFFFFFFFF 0x0 0x0 0x0 0x0),
   /- SYNC_PEEK_SEL -/ (0x10, regDef 0x3FFF 0x0 0x0 0x0 0x0 0x0 0x0),
   /- SYNC_PEEK -/ (0x18, regDef 0x0 0x0 0x0 0xFFFF01FFFFFFFF 0x0 0x0 0x0),
   /- SYNC_ERR -/ (0x20, regDef 0x0 0x8000000000000000 0x0 0x600FFFFFFFFFFFFF 0x0 0x0 0x0),
   /- SYNC_OPS -/ (0x28, regDef 0xFFFFFFFFFFFFFFFF 0x0 0x0 0x0 0x0 0x0 0x0),
   /- SYNC_DL_CTL -/ (0x100, regDef 0x8000000000001903 0x6000000000000000 0x0 0x0 0x0 0x0 0x0),
   /- SYNC_DL_BASE -/ (0x108, regDef 0x3FFFFFFFF000 0x0 0x0 0x0 0x0 0x0 0x0),
   /- SYNC_DL_COUNT -/ (0x110, regDef 0xFFFFFFFF 0x0 0x0 0x0 0x0 0x0 0x0)]

/-- Registers of the `link` block by offset; an offset that stands for an indexed register is the index-0 one. -/
def linkRegs : List (Nat × RegDef) :=
  [/- LINK_PORTCFG_p -/ (0x0, regDef 0x0 0x0 0x0 0x0 0x0 0xFFFFF0FF00000307 0x0),
   /- LINK_STATUS_p -/ (0x8, regDef 0x0 0x0 0x0 0xFFFFF0000000FF3F 0x0 0x0 0x0),
   /- LINK_CTL_p -/ (0x10, regDef 0x1 0x0 0x2 0x0 0x0 0x0 0x0),
   /- LINK_ERR_p -/ (0x18, regDef 0xFFFFFFFFFFFFFFFF 0x0 0x0 0x0 0x0 0x0 0x0),
   /- LINK_TRUMP_THRESH -/ (0x400, regDef 0x0 0x0 0x0 0x0 0x0 0xFFFFFFFF 0x0),
   /- LINK_TOPO -/ (0x408, regDef 0x0 0x0 0x0 0x0 0x80000000000FFFFF 0x0 0x0),
   /- LINK_RX_ASPACE -/ (0x410, regDef 0xFFFF3FFFFFFFF003 0x0 0x0 0x0 0x0 0x0 0x0),
   /- POT_CTL -/ (0x800, regDef 0x0 0x0 0x8000000000000000 0x0 0x0 0x0 0x0),
   /- POT_STAT -/ (0x808, regDef 0x0 0x0 0x0 0xFFFFFFFF00003FFF 0x0 0x0 0x2000),
   /- POT_ERR -/ (0x810, regDef 0xFFFFFFFFFFFFFFFF 0x0 0x0 0x0 0x0 0x0 0x0),
   /- POT_ADDS -/ (0x818, regDef 0xFFFFFFFFFFFFFFFF 0x0 0x0 0x0 0x0 0x0 0x0)]

/-- Registers of the `te` block by offset; an offset that stands for an indexed register is the index-0 one. -/
def teRegs : List (Nat × RegDef) :=
  [/- TE_Q_CFG -/ (0x0, regDef 0x8000000000039903 0x0 0x0 0x0 0x0 0x0 0x10000),
   /- TE_Q_ASPACE -/ (0x8, regDef 0xFFFF3FFFFFFFF003 0x0 0x0 0x0 0x0 0x0 0x0),
   /- TE_Q_STAT -/ (0x10, regDef 0x0 0x0 0x0 0xC000FF00007F01FF 0x0 0x0 0x100),
   /- TE_Q_CTL -/ (0x18, regDef 0x0 0x0 0x3 0x0 0x0 0x0 0x0),
   /- TE_Q_OOB -/ (0x20, regDef 0xFFFFFFFFFFFFFFFF 0x0 0x0 0x0 0x0 0x0 0x0),
   /- TE_Q_ADDR -/ (0x28, regDef 0x0 0x0 0x0 0xFFFFFFFFFFFFFFFF 0x0 0x0 0x0)]

/-- Registers of the `mc` block by offset; an offset that stands for an indexed register is the index-0 one. -/
def mcRegs : List (Nat × RegDef) :=
  [/- MC_DDR_INFO_c -/ (0x0, regDef 0x0 0x0 0x0 0xF800FFFF0000FFFF 0x0 0x0 0x0),
   /- MC_HBM_INFO_s -/ (0x100, regDef 0x0 0x0 0x0 0xE000000000FFFFFF 0x0 0x0 0x400000)]

/-- Registers of the `ident` block by offset; an offset that stands for an indexed register is the index-0 one. -/
def identRegs : List (Nat × RegDef) :=
  [/- ID_INFO -/ (0x0, regDef 0x0 0x0 0x0 0xFFFFFF00 0x0 0x0 0x28480000),
   /- ID_SERIAL -/ (0x8, regDef 0x0 0x0 0x0 0xFFFFFFFFFFFFFFFF 0x0 0x0 0x0),
   /- ID_LC -/ (0x10, regDef 0x0 0x0 0x0 0x3F07 0x0 0x0 0x0),
   /- ID_BOOT -/ (0x18, regDef 0x0 0x0 0x0 0xFFFFF0F 0x0 0x0 0xFF01),
   /- ID_DECK -/ (0x20, regDef 0x0 0x0 0x0 0xFF0000FFFFFFFF 0x0 0x0 0x0),
   /- ID_RESET -/ (0x28, regDef 0x0 0x0 0xFF 0x0 0x0 0x0 0x0),
   /- ID_RESETS -/ (0x30, regDef 0x0 0x0 0x0 0xFFFFFFFF 0x0 0x0 0x0)]

/-- Registers of the `cfg` block by offset; an offset that stands for an indexed register is the index-0 one. -/
def cfgRegs : List (Nat × RegDef) :=
  [/- CFG_TXN_BEGIN -/ (0x0, regDef 0x0 0x0 0x1 0x0 0x0 0x0 0x0),
   /- CFG_TXN_COMMIT -/ (0x8, regDef 0x0 0x0 0xFFFF 0x0 0x0 0x0 0x0),
   /- CFG_TXN_ROLLBACK -/ (0x10, regDef 0x0 0x0 0xFFFF 0x0 0x0 0x0 0x0),
   /- CFG_TXN_STATUS -/ (0x18, regDef 0x0 0x0 0x0 0x3000FFFFFFFFF 0x0 0x0 0x0),
   /- CFG_TXN_FREE -/ (0x20, regDef 0x0 0x0 0x0 0x7FFFF 0x0 0x0 0x40000)]

/-- Registers of the `safe` block by offset; an offset that stands for an indexed register is the index-0 one. -/
def safeRegs : List (Nat × RegDef) :=
  [/- SAFE_STATUS -/ (0x0, regDef 0x0 0x0 0x0 0xFFFF0000001F 0x0 0x0 0x0),
   /- SAFE_SEQ -/ (0x8, regDef 0x0 0x0 0x0 0xFFFFFFFFFFFFFFFF 0x0 0x0 0x0),
   /- SAFE_LOG -/ (0x10, regDef 0x0 0x0 0x0 0x0 0xFFFFFFFFFFFFFFFF 0x0 0x0),
   /- SAFE_LOG_TAIL -/ (0x18, regDef 0x0 0x0 0x0 0xFFFFFFFF 0x0 0x0 0x0),
   /- SAFE_LOG_HEAD -/ (0x20, regDef 0xFFFFFFFF 0x0 0x0 0x0 0x0 0x0 0x0),
   /- SAFE_IRQ -/ (0x28, regDef 0x1F9903 0x0 0x0 0x0 0x0 0x0 0x0),
   /- SAFE_THRESH -/ (0x30, regDef 0x0 0x0 0x0 0x0 0x0 0xFFFF00000000FFFF 0x0),
   /- SAFE_RETIRE_SEL -/ (0x38, regDef 0xFF 0x0 0x0 0x0 0x0 0x0 0x0),
   /- SAFE_RETIRE -/ (0x40, regDef 0x0 0x0 0x0 0xF000FFFFFFFFFFFF 0x0 0x0 0x0),
   /- SAFE_LASTDEV -/ (0x48, regDef 0x0 0x0 0x0 0xFFFFFFFFFFFFFFFF 0x0 0x0 0x0),
   /- SAFE_RECOVER -/ (0x50, regDef 0x3 0x2000000000000000 0x8000000000000000 0x4000000000000000 0x0 0x0 0x0)]

/-- Registers of the `commit` block by offset; an offset that stands for an indexed register is the index-0 one. -/
def commitRegs : List (Nat × RegDef) :=
  [/- COMMIT_CFG -/ (0x0, regDef 0x0 0x0 0x0 0x0 0x40000000 0xFFFFFFFF80FFFFFF 0x0),
   /- COMMIT_TREE -/ (0x8, regDef 0x0 0x0 0x0 0x0 0xFFFFF0000001F 0x0 0x0),
   /- COMMIT_HOLD -/ (0x10, regDef 0x0 0x0 0x0 0x0 0xFFFFFFFFFFC0FFFF 0x0 0x0),
   /- COMMIT_SHARD -/ (0x18, regDef 0xFFFFFFFFFFFFFFC0 0x0 0x0 0x0 0x0 0x0 0x0),
   /- COMMIT_AREA -/ (0x20, regDef 0xFFFFFFFFFFFFFFC0 0x0 0x0 0x0 0x0 0x0 0x0),
   /- COMMIT_SYNC -/ (0x28, regDef 0xFFFFFFFFFFFFFFFF 0x0 0x0 0x0 0x0 0x0 0x0),
   /- COMMIT_CTL -/ (0x30, regDef 0x0 0x0 0xF0000000FFFFFFFF 0x0 0x0 0x0 0x0),
   /- COMMIT_VER0 -/ (0x38, regDef 0x0 0x0 0x0 0xFFFFFFFFFFFFFFFF 0x0 0x0 0x0),
   /- COMMIT_VER1 -/ (0x40, regDef 0x0 0x0 0x0 0xFFFFFFFFFFFFFFFF 0x0 0x0 0x0),
   /- COMMIT_STAT -/ (0x48, regDef 0x7FFF00000000 0x0 0x0 0xFFFF8000FFFFFFFF 0x0 0x0 0x2000000000000000),
   /- COMMIT_IRQ -/ (0x50, regDef 0x9903 0x0 0x0 0x0 0x0 0x0 0x0)]

/-- Registers of the `sec` block by offset; an offset that stands for an indexed register is the index-0 one. -/
def secRegs : List (Nat × RegDef) :=
  [/- SEC_CMD -/ (0x0, regDef 0x0 0x0 0xFF 0x0 0x0 0x0 0x0),
   /- SEC_STAT -/ (0x8, regDef 0x0 0x0 0x0 0x80000000000000FF 0x0 0x0 0x0),
   /- SEC_NONCE_LO -/ (0x10, regDef 0x0 0x0 0x0 0xFFFFFFFFFFFFFFFF 0x0 0x0 0x0),
   /- SEC_NONCE_HI -/ (0x18, regDef 0x0 0x0 0x0 0xFFFFFFFFFFFFFFFF 0x0 0x0 0x0),
   /- SEC_FLASH -/ (0x20, regDef 0xFFFFFFFFFFFFFFFF 0x0 0x0 0x0 0x0 0x0 0x0),
   /- SEC_MEAS word -/ (0x2000, regDef 0x0 0x0 0x0 0xFFFFFFFFFFFFFFFF 0x0 0x0 0x0),
   /- SEC_BUF word -/ (0x10000, regDef 0xFFFFFFFFFFFFFFFF 0x0 0x0 0x0 0x0 0x0 0x0)]

/-- Registers of the `pwr` block by offset; an offset that stands for an indexed register is the index-0 one. -/
def pwrRegs : List (Nat × RegDef) :=
  [/- PWR_STATUS -/ (0x0, regDef 0x0 0x0 0x0 0xFFFFFFFF00000F07 0x0 0x0 0x800),
   /- PWR_CAP -/ (0x8, regDef 0x0 0x0 0x0 0x0 0x0 0xFFFF 0x0),
   /- PWR_EVT -/ (0x10, regDef 0x0 0xFE 0x0 0x0 0x0 0x0 0x0),
   /- PWR_IRQ -/ (0x18, regDef 0x9903 0x0 0x0 0x0 0x0 0x0 0x0),
   /- THERM_STATUS -/ (0x20, regDef 0x0 0x0 0x0 0xFFFFFFFFFFFF0007 0x0 0x0 0x0),
   /- THERM_SEL -/ (0x28, regDef 0xFF 0x0 0x0 0x0 0x0 0x0 0x0),
   /- THERM_TEMP -/ (0x30, regDef 0x0 0x0 0x0 0xFFFF 0x0 0x0 0x0)]

/-- Registers of the `age` block by offset; an offset that stands for an indexed register is the index-0 one. -/
def ageRegs : List (Nat × RegDef) :=
  [/- AGE_CFG -/ (0x0, regDef 0x0 0x0 0x0 0x0 0xFF00FFFF00000000 0x0 0x0),
   /- AGE_SEL -/ (0x8, regDef 0xFF 0x0 0x0 0x0 0x0 0x0 0x0),
   /- AGE_STAT -/ (0x10, regDef 0x0 0x0 0x0 0xFFFFFFFFFFFF0001 0x0 0x0 0x0),
   /- AGE_HOURS -/ (0x18, regDef 0x0 0x0 0x0 0xFFFFFFFF 0x0 0x0 0x0)]

/-- Registers of the `selftest` block by offset; an offset that stands for an indexed register is the index-0 one. -/
def selftestRegs : List (Nat × RegDef) :=
  [/- ST_CFG -/ (0x0, regDef 0x8000000000000000 0x0 0x0 0x0 0x0 0x3F0000 0x0),
   /- ST_STATUS_q -/ (0x100, regDef 0x0 0x0 0x0 0xFFFFFFFF00003F07 0x0 0x0 0x0),
   /- ST_COVER_q -/ (0x200, regDef 0x0 0x0 0x0 0x3FFFFFFFF 0x0 0x0 0x0),
   /- ST_SAVE_q -/ (0x300, regDef 0x0 0x0 0x0 0x0 0x3FFFFFE00000 0x0 0x0),
   /- ST_SIG_k -/ (0x400, regDef 0x0 0x0 0x0 0x0 0xFFFFFFFFFFFFFFFF 0x0 0x0)]

/-- Registers of the `deal` block by offset; an offset that stands for an indexed register is the index-0 one. -/
def dealRegs : List (Nat × RegDef) :=
  [/- MMU_INVAL -/ (0x0, regDef 0x300000000FFFF 0x0 0x4000000000000000 0x8000000000000000 0x0 0x0 0x0),
   /- MMU_INVAL_VA -/ (0x8, regDef 0xFFFFFFFF0000 0x0 0x0 0x0 0x0 0x0 0x0),
   /- CTX_CFG -/ (0x1000, regDef 0x0 0x0 0x0 0x0 0x0 0xC0FFFF00001FFFFF 0x0),
   /- CTX_RSV -/ (0x1008, regDef 0xFFFFFFFFFFFFFFFF 0x0 0x0 0x0 0x0 0x0 0x0),
   /- CTX_TIER -/ (0x1010, regDef 0xF0FFFFFFFFFFFFFF 0x0 0x0 0x0 0x0 0x0 0x2000000000000000),
   /- CTX_IRQ -/ (0x1018, regDef 0x9903 0x0 0x0 0x0 0x0 0x0 0x0),
   /- CTX_EVT -/ (0x1020, regDef 0x0 0xFE 0x0 0x0 0x0 0x0 0x0),
   /- CTX_SNAP -/ (0x1028, regDef 0x0 0x0 0xC00000000000000 0x800000FFFFFFFFFF 0x0 0x0 0x0),
   /- CTX_SNAP_LOG -/ (0x1030, regDef 0xFFFFFFFFFFFFFFFF 0x0 0x0 0x0 0x0 0x0 0x0),
   /- CTX_PAGE_QUERY -/ (0x1038, regDef 0xFFFFFFFFFFFFFFFF 0x0 0x0 0x0 0x0 0x0 0x0),
   /- CTX_SHARE_q_HBM -/ (0x1100, regDef 0x0 0x0 0x0 0x0 0xFFFFFFFC3FFFFFFF 0x0 0x0),
   /- CTX_SHARE_q_DDR -/ (0x1108, regDef 0x0 0x0 0x0 0x0 0xFFFFFFFC3FFFFFFF 0x0 0x0)] ++
  [/- CTX_CNT_k -/ (0x1200, regDef 0xFFFFFFFFFFFFFFFF 0x0 0x0 0x0 0x0 0x0 0x0),
   /- DEAL_CFG -/ (0x10000, regDef 0x0 0x0 0x0 0x0 0x1000000000000 0xFFFFFFFFF1FF 0x0),
   /- DEAL_PART -/ (0x10008, regDef 0xF00001FFF 0x0 0x0 0x0 0x0 0x0 0x400000000),
   /- DEAL_SYNC -/ (0x10010, regDef 0xFFFFFFFFFFFF 0x0 0x0 0x0 0x0 0x0 0x0),
   /- DEAL_ASPACE -/ (0x10018, regDef 0xFFFF3FFFFFFFF003 0x0 0x0 0x0 0x0 0x0 0x0),
   /- DEAL_IRQ -/ (0x10020, regDef 0x9903 0x0 0x0 0x0 0x0 0x0 0x0),
   /- DEAL_EVT -/ (0x10028, regDef 0x0 0xFE 0x0 0x0 0x0 0x0 0x0),
   /- DEAL_EVAL_TAG -/ (0x10030, regDef 0xFFFFFFFF 0x0 0x0 0x0 0x0 0x0 0x0),
   /- DEAL_PQ, DEAL_POOL, DEAL_EPOOL, DEAL_HAND, DEAL_LIST, DEAL_TOK -/ (0x10040, regDef 0xFFFFFFFFFFFFFFFF 0x0 0x0 0x0 0x0 0x0 0x0),
   /- DEAL_EVAL_W -/ (0x10070, regDef 0xFFFFFFFFFFFF 0x0 0x0 0x0 0x0 0x0 0x0),
   /- DEAL_END_k -/ (0x10080, regDef 0x1FFFFFFFF 0x0 0x0 0x0 0x0 0x0 0x0),
   /- DEAL_GROUP_k -/ (0x10100, regDef 0x0 0x0 0x0 0x0 0x80000000000FFFFF 0x0 0x0)]

/-- Registers of the `job` block by offset; an offset that stands for an indexed register is the index-0 one. -/
def jobRegs : List (Nat × RegDef) :=
  [/- DEAL_CMD -/ (0x0, regDef 0x0 0x0 0xFFFFFFFF0000000F 0x0 0x0 0x0 0x0),
   /- DEAL_STATUS -/ (0x8, regDef 0x0 0x0 0x0 0xFF1FFF1FFFFCF3 0x0 0x0 0x0),
   /- DEAL_LIMIT -/ (0x10, regDef 0x1FFF1FFF00FF 0x0 0x0 0x0 0x0 0x0 0x0),
   /- DEAL_PACK -/ (0x18, regDef 0xFFFFFFFF1FFF0001 0x0 0x0 0x0 0x0 0x0 0x0),
   /- DEAL_RETIRE -/ (0x20, regDef 0x0 0x0 0xFFF 0x0 0x0 0x0 0x0),
   /- DEAL_POOL_HEAD -/ (0x28, regDef 0xFFFFFFFF 0x0 0x0 0x0 0x0 0x0 0x0),
   /- DEAL_POOL_PACK -/ (0x30, regDef 0x0 0x0 0x0 0xFFFFFFFF 0x0 0x0 0x0),
   /- DEAL_POOL_TAIL -/ (0x38, regDef 0x0 0x0 0x0 0xFFFFFFFF 0x0 0x0 0x0),
   /- DEAL_PQ_NEXT -/ (0x40, regDef 0x0 0x0 0x0 0xFFFFFFFF 0x0 0x0 0x0),
   /- CTX_FREE -/ (0x48, regDef 0x0 0x0 0x0 0xFFFFFFFFFFFFFFFF 0x0 0x0 0x0),
   /- CTX_SHRINK -/ (0x50, regDef 0xFFFFFFFF 0x0 0x0 0x0 0x0 0x0 0x0),
   /- CTX_MB -/ (0x58, regDef 0xFFF 0x0 0x0 0x0 0x0 0x0 0x0)] ++
  [/- CTX_STASH_FREE -/ (0x60, regDef 0x0 0x0 0x1FF 0x0 0x0 0x0 0x0)]

/-- Registers of the `host` block by offset; an offset that stands for an indexed register is the index-0 one. -/
def hostRegs : List (Nat × RegDef) :=
  [/- HOST_EVT -/ (0x0, regDef 0x0 0x7FFFFF 0x0 0x0 0x0 0x0 0x0),
   /- HOST_RAISE -/ (0x8, regDef 0x0 0x0 0x7FF 0x0 0x0 0x0 0x0),
   /- HOST_WIN -/ (0x10, regDef 0x3FFFC0000000 0x0 0x0 0x0 0x0 0x0 0x0),
   /- HOST_STAT -/ (0x18, regDef 0xFFFFFFFFFFFFFFFF 0x0 0x0 0x0 0x0 0x0 0x0),
   /- MBX_k_CTL -/ (0x100, regDef 0x9903 0x0 0x0 0x0 0x0 0x0 0x0),
   /- MBX_k_H2D -/ (0x108, regDef 0xFFFFFFFF 0xC000000000000000 0x0 0x0 0x0 0x0 0x0),
   /- MBX_k_D2H -/ (0x110, regDef 0xFFFFFFFF 0xC000000000000000 0x0 0x0 0x0 0x0 0x0),
   /- MSI-X table word -/ (0x8000, regDef 0xFFFFFFFFFFFFFFFF 0x0 0x0 0x0 0x0 0x0 0x0),
   /- MSI-X PBA word -/ (0x10000, regDef 0x0 0x0 0x0 0xFFFFFFFFFFFFFFFF 0x0 0x0 0x0),
   /- mailbox data word -/ (0x20000, regDef 0xFFFFFFFFFFFFFFFF 0x0 0x0 0x0 0x0 0x0 0x0)]
/-- The block an offset lies in, and the offset within it. -/
def blockOf (off : Nat) : Blk × Nat :=
  if off < 0x1000000 then
    let i := off % 0x100000
    match off / 0x100000 with
    | 0 => (.ident, i)
    | 1 => (.cfg, i)
    | 2 => if i < 0x10000 then (.safe, i) else (.commit, i - 0x10000)
    | 3 => (.sec, i)
    | 4 => if i < 0x20000 then (.pwr, i) else (.age, i - 0x20000)
    | 5 => (.selftest, i)
    | 6 => if i < 0x20000 then (.deal, i)
           else if i < 0x30000 then (.job, i - 0x20000) else (.unassigned, i)
    | 7 => (.host, i)
    | _ => (.unassigned, i)
  else if off < 0x5000000 then
    let q := off / 0x1000000 - 1
    let i := off % 0x1000000
    if i < 0x220000 then (.core q (i / 0x10000), i % 0x10000)
    else if 0x3F0000 ≤ i ∧ i < 0x400000 then (.qcm q, i - 0x3F0000)
    else if 0x400000 ≤ i ∧ i < 0x500000 then (.l2 q, i - 0x400000)
    else if 0x500000 ≤ i ∧ i < 0x600000 then (.sync q, i - 0x500000)
    else if 0x600000 ≤ i ∧ i < 0x700000 then (.link q, i - 0x600000)
    else if 0x700000 ≤ i ∧ i < 0x740000 then
      let e := (i - 0x700000) / 0x10000
      let k := (i % 0x10000) / 0x100
      if k < 16 then (.te (64 * q + 16 * e + k), i % 0x100) else (.unassigned, i)
    else if 0x800000 ≤ i ∧ i < 0x900000 then (.mc q, i - 0x800000)
    else (.unassigned, i)
  else (.unassigned, off)

/-- The index-0 offset of an indexed register: `n` registers from `first`, `step` bytes apart. -/
def foldIndex (first step n : Nat) (o : Nat) : Option Nat :=
  if first ≤ o ∧ o < first + n * step ∧ (o - first) % step = 0 then some first else none

/-- The offset under which a block's table lists the register at offset `o`. -/
def baseOffset (b : Blk) (o : Nat) : Nat :=
  match b with
  | .core _ c =>
    if 0x1000 ≤ o ∧ o < 0x1000 + (if c < 32 then 16 else 4) * 0x200 ∧ o % 8 = 0 then 0x1000 else o
  | .qcm _ => (foldIndex 0x200 8 16 o).getD o
  | .l2 _ => (foldIndex 0x0 8 8 o).getD o
  | .sync q => if 0x100 ≤ o ∧ q ≠ 0 then 0xFFFFFF else o
  | .link q =>
    if o < 0x400 then o % 0x100
    else if (o = 0x408 ∨ o = 0x410) ∧ q ≠ 0 then 0xFFFFFF else o
  | .mc _ => ((foldIndex 0x0 8 4 o).orElse fun _ => foldIndex 0x100 8 2 o).getD o
  | .sec =>
    if 0x2000 ≤ o ∧ o < 0x2400 ∧ o % 0x40 < 48 ∧ o % 8 = 0 then 0x2000
    else if 0x10000 ≤ o ∧ o < 0x20000 ∧ o % 8 = 0 then 0x10000 else o
  | .selftest =>
    if 0x100 ≤ o ∧ o < 0x320 ∧ o % 0x100 < 0x20 ∧ o % 8 = 0 then o / 0x100 * 0x100
    else (foldIndex 0x400 8 2 o).getD o
  | .deal =>
    if 0x1100 ≤ o ∧ o < 0x1140 ∧ o % 8 = 0 then 0x1100 + o % 0x10
    else ((((foldIndex 0x1200 8 8 o).orElse fun _ => foldIndex 0x10040 8 6 o).orElse
      fun _ => foldIndex 0x10080 8 4 o).orElse fun _ => foldIndex 0x10100 8 16 o).getD o
  | .host =>
    if 0x100 ≤ o ∧ o < 0x300 then 0x100 + o % 0x20
    else if 0x8000 ≤ o ∧ o < 0x10000 ∧ o % 8 = 0 then 0x8000
    else if 0x10000 ≤ o ∧ o < 0x10100 ∧ o % 8 = 0 then 0x10000
    else if 0x20000 ≤ o ∧ o < 0x30000 ∧ o % 8 = 0 then 0x20000 else o
  | _ => o

/-- The register table of a block. -/
def blockRegs (b : Blk) : List (Nat × RegDef) :=
  match b with
  | .core _ _ => coreRegs
  | .qcm _ => qcmRegs
  | .l2 _ => l2Regs
  | .sync _ => syncRegs
  | .link _ => linkRegs
  | .te _ => teRegs
  | .mc _ => mcRegs
  | .ident => identRegs
  | .cfg => cfgRegs
  | .safe => safeRegs
  | .commit => commitRegs
  | .sec => secRegs
  | .pwr => pwrRegs
  | .age => ageRegs
  | .selftest => selftestRegs
  | .deal => dealRegs
  | .job => jobRegs
  | .host => hostRegs
  | .unassigned => []

/-- A register that no table lists: it reads as 0 and ignores writes (R7, R530). -/
def noReg : RegDef := regDef 0 0 0 0 0 0 0

/-- The register at an offset of BAR0. -/
def regAt (off : Nat) : RegDef :=
  let b := blockOf off
  ((blockRegs b.1).lookup (baseOffset b.1 b.2)).getD noReg

/-- The reset value of the register at an offset. The vector control of an MSI-X table entry
resets to masked (PRESUMED from PCI Express, log entry 9). -/
def regReset (off : Nat) : Word :=
  if 0x708000 ≤ off ∧ off < 0x710000 ∧ off % 16 = 8 then 0x100000000 else (regAt off).reset

/-- Whether an offset names a register of a defined block (R509). -/
def regDefined (off : Nat) : Bool :=
  let b := blockOf off
  ((blockRegs b.1).lookup (baseOffset b.1 b.2)).isSome

/-- Areas that also accept aligned 4-byte accesses (R530). -/
def acceptsFour (off : Nat) : Bool :=
  let b := blockOf (off / 8 * 8)
  match b.1 with
  | .core _ c => decide (0x1000 ≤ b.2 ∧ b.2 < 0x1000 + (if c < 32 then 16 else 4) * 0x200)
  | .sec => decide (0x10000 ≤ b.2 ∧ b.2 < 0x20000)
  | .host => decide ((0x8000 ≤ b.2 ∧ b.2 < 0x10100) ∨ (0x20000 ≤ b.2 ∧ b.2 < 0x30000))
  | _ => false

/-! ### Offsets by name -/

def coreOff (q c o : Nat) : Nat := 0x1000000 * (q + 1) + 0x10000 * c + o
def qcmOff (q o : Nat) : Nat := 0x1000000 * (q + 1) + 0x3F0000 + o
def l2Off (q o : Nat) : Nat := 0x1000000 * (q + 1) + 0x400000 + o
def syncOff (q o : Nat) : Nat := 0x1000000 * (q + 1) + 0x500000 + o
def linkOff (q o : Nat) : Nat := 0x1000000 * (q + 1) + 0x600000 + o
/-- Register `o` of local port p of quadrant q, by port number 4q + p. -/
def portOff (port o : Nat) : Nat := linkOff (port / 4) (0x100 * (port % 4) + o)
/-- Register `o` of transfer-engine queue n. -/
def teOff (n o : Nat) : Nat :=
  0x1000000 * (n / 64 + 1) + 0x700000 + 0x10000 * (n / 16 % 4) + 0x100 * (n % 16) + o
def mcOff (q o : Nat) : Nat := 0x1000000 * (q + 1) + 0x800000 + o
def safeOff (o : Nat) : Nat := 0x200000 + o
def commitOff (o : Nat) : Nat := 0x210000 + o
def secOff (o : Nat) : Nat := 0x300000 + o
def pwrOff (o : Nat) : Nat := 0x400000 + o
def ageOff (o : Nat) : Nat := 0x420000 + o
def stOff (o : Nat) : Nat := 0x500000 + o
def dealOff (o : Nat) : Nat := 0x600000 + o
def jobOff (o : Nat) : Nat := 0x620000 + o
def hostOff (o : Nat) : Nat := 0x700000 + o

end Sys2Proof.Machine
end

