-- ==== Sys2Proof/Machine/Ops.lean ====
section
/-! DEFINITION. Named operations over the state: sparse tables, bit fields, registers, threads and
cores, reports, interrupts and host events. -/

namespace Sys2Proof.Machine

open Sys2Proof

/-! ### Sparse tables -/

/-- The entry of a key, if it is listed. -/
def tabFind {α : Type} : Tab α → Nat → Option α
  | [], _ => none
  | (k, v) :: t, i => if i = k then some v else tabFind t i

/-- List a key with a value, keeping keys rising. -/
def tabPut {α : Type} : Tab α → Nat → α → Tab α
  | [], i, v => [(i, v)]
  | (k, w) :: t, i, v =>
    if i = k then (i, v) :: t else if i < k then (i, v) :: (k, w) :: t else (k, w) :: tabPut t i v

/-- Take a key out of the table. -/
def tabDel {α : Type} : Tab α → Nat → Tab α
  | [], _ => []
  | (k, w) :: t, i => if i = k then tabDel t i else (k, w) :: tabDel t i

/-- What a key reads as: its entry, or the default of the key. -/
def tabGet {α : Type} (d : Nat → α) (t : Tab α) (i : Nat) : α := (tabFind t i).getD (d i)

/-- Write a key: the default is never listed. -/
def tabSet {α : Type} [DecidableEq α] (d : Nat → α) (t : Tab α) (i : Nat) (v : α) : Tab α :=
  if v = d i then tabDel t i else tabPut t i v

/-- The canonical form: keys strictly rising and no entry equal to its default. -/
def tabWf {α : Type} [DecidableEq α] (d : Nat → α) : Tab α → Bool
  | [] => true
  | (k, v) :: t => decide (v ≠ d k) && t.all (fun e => decide (k < e.1)) && tabWf d t

/-! ### Bits -/

/-- Bits [lo + len - 1 : lo] of a word, as a number. -/
def field (w : Word) (lo len : Nat) : Nat := (w.toNat >>> lo) % 2 ^ len

/-- One bit of a word. -/
def bit (w : Word) (i : Nat) : Bool := w.getLsbD i

/-- A word with bits [lo + len - 1 : lo] replaced. -/
def setField (w : Word) (lo len : Nat) (v : Nat) : Word :=
  let mask : Word := BitVec.ofNat 64 ((2 ^ len - 1) <<< lo)
  (w &&& ~~~mask) ||| (BitVec.ofNat 64 ((v % 2 ^ len) <<< lo))

/-- A Bool as a bit. -/
def b2n (b : Bool) : Nat := if b then 1 else 0

/-- A number as a word. -/
def wd (n : Nat) : Word := BitVec.ofNat 64 n

/-- The bytes of a number, least significant first. -/
def bytesOf : Nat → Nat → List Byte
  | 0, _ => []
  | k + 1, n => BitVec.ofNat 8 n :: bytesOf k (n / 256)

/-- The number that bytes spell, least significant first. -/
def ofBytes : List Byte → Nat
  | [] => 0
  | b :: t => b.toNat + 256 * ofBytes t

/-- Sign extension of the low `w` bits of a number. -/
def sext (w n : Nat) : Int :=
  let m := n % 2 ^ w
  if 2 * m < 2 ^ w then (m : Int) else (m : Int) - (2 ^ w : Nat)

/-- The word of an integer modulo 2^64. -/
def wdInt (i : Int) : Word := BitVec.ofInt 64 i

/-- Add to a number, stopping at a limit. -/
def satAdd (limit a b : Nat) : Nat := min limit (a + b)

/-- Take entries of a list until the first that meets a test, which is taken out. -/
def takeFirst {α : Type} (p : α → Bool) : List α → Option (α × List α)
  | [] => none
  | x :: t => if p x then some (x, t) else (takeFirst p t).map (fun r => (r.1, x :: r.2))

/-- Insert into a rising list of numbers with no repeats. -/
def insertNat (n : Nat) : List Nat → List Nat
  | [] => [n]
  | x :: t => if n = x then x :: t else if n < x then n :: x :: t else x :: insertNat n t

/-! ### Free values -/

/-- Draw a free value (log entry 3): the opaque constant applied to the draw counter. -/
def drawFree (s : State) : Word × State :=
  (Config.freeWord s.fresh, { s with fresh := s.fresh + 1 })

/-! ### Numbers of parts -/

/-- Index of a core: 34q + c, as presence vectors number them (R285). -/
def coreIx (q c : Nat) : Nat := 34 * q + c

def cix (c : CoreRef) : Nat := coreIx c.quad.toNat c.core.toNat

def thrCore (t : Thr) : Nat := coreIx t.quad.toNat t.core.toNat

/-- Index of a thread: 16 × core index + thread number. -/
def thrIx (t : Thr) : Nat := 16 * thrCore t + t.thr.toNat

/-- The thread an index names. -/
def thrOf (i : Nat) : Thr :=
  { quad := BitVec.ofNat 2 (i / 16 / 34), core := BitVec.ofNat 6 (i / 16 % 34),
    thr := BitVec.ofNat 4 (i % 16) }

/-- Whether a core index is a control core (R50). -/
def isControl (ci : Nat) : Bool := decide (32 ≤ ci % 34)

/-- Threads of a core: 16, or 4 on a control core. -/
def threadCount (ci : Nat) : Nat := if isControl ci then 4 else 16

/-- Queue number of a thread (R392). -/
def queueOf (i : Nat) : Nat :=
  let q := i / 16 / 34
  let c := i / 16 % 34
  let t := i % 16
  if c < 32 then 512 * q + 16 * c + t else 2048 + 8 * q + 4 * (c - 32) + t

/-- The thread index of a queue number below 2,080. -/
def threadOfQueue (n : Nat) : Nat :=
  if n < 2048 then 16 * coreIx (n / 512) (n / 16 % 32) + n % 16
  else
    let m := n - 2048
    16 * coreIx (m / 8) (32 + m / 4 % 2) + m % 4

/-- The number of an agent that is no queue. -/
def otherAgent : Nat := 4096

/-! ### Threads and cores -/

def getThread (s : State) (i : Nat) : Thread := tabGet (fun _ => Thread.off) s.threads i

/-- A thread whose instruction at the pc waits for nothing and has read nothing yet. -/
def Thread.quiet (t : Thread) : Thread :=
  { t with hold := .none, got := [], icode := [], asked := [], badGot := [], descs := [], gathered := []
           begun := false, midway := false, saveBad := false, raised := 0 }

def setThread (s : State) (i : Nat) (t : Thread) : State :=
  { s with threads := tabSet (fun _ => Thread.off) s.threads i t }

def getCore (s : State) (ci : Nat) : Core := tabGet (fun _ => Core.idle) s.cores ci

def setCore (s : State) (ci : Nat) (c : Core) : State :=
  { s with cores := tabSet (fun _ => Core.idle) s.cores ci c }

def corePresent (s : State) (ci : Nat) : Bool := tabGet (fun _ => false) s.present ci

def zeroWord : Nat → Word := fun _ => 0

/-- Read a general register; g0 reads as 0 (R56). -/
def getG (t : Thread) (r : BitVec 5) : Word := if r = 0 then 0 else tabGet zeroWord t.g r.toNat

/-- Write a general register; a write to g0 is discarded (R56). -/
def setG (t : Thread) (r : BitVec 5) (w : Word) : Thread :=
  if r = 0 then t else { t with g := tabSet zeroWord t.g r.toNat w }

def zeroV : Nat → VReg := fun _ => 0

def getV (t : Thread) (r : Nat) : VReg := tabGet zeroV t.v r

def setV (t : Thread) (r : Nat) (w : VReg) : Thread := { t with v := tabSet zeroV t.v r w }

def getM (t : Thread) (r : Nat) : VReg := tabGet zeroV t.m r

def setM (t : Thread) (r : Nat) (w : VReg) : Thread := { t with m := tabSet zeroV t.m r w }

/-- ENTRYn of a thread (n from 0 to 3). -/
def getEntry (t : Thread) (n : Nat) : Word := tabGet zeroWord t.entry n

def setEntry (t : Thread) (n : Nat) (w : Word) : Thread :=
  { t with entry := tabSet zeroWord t.entry n w }

def getTile (c : Core) (i : Nat) : Tile := tabGet (fun _ => Tile.free) c.tiles i

def setTile (c : Core) (i : Nat) (t : Tile) : Core :=
  { c with tiles := tabSet (fun _ => Tile.free) c.tiles i t }

/-- STATUS as c.rd reads it. -/
def statusWord (t : Thread) : Word :=
  wd (t.depth.toNat * 2 ^ 16 + t.fte.toNat * 2 ^ 8 + b2n t.ss * 16 + b2n t.em * 4 + t.ring.toNat)

/-- Set the fields of STATUS that a restore or a c.wr may set, ring excepted. -/
def setStatus (t : Thread) (w : Word) : Thread :=
  { t with fte := BitVec.ofNat 6 (field w 8 6), ss := bit w 4, em := bit w 2 }

/-- TID of a thread (R55 registers). -/
def tidWord (s : State) (i : Nat) : Word :=
  let q := i / 16 / 34
  let c := i / 16 % 34
  wd (s.devId.toNat * 2 ^ 32 + (if c < 32 then 0 else 1) * 2 ^ 12 + q * 2 ^ 10 + c * 2 ^ 4 + i % 16)

/-! ### Registers of the device register space, as stored -/

def rget (s : State) (off : Nat) : Word := tabGet regReset s.regs off

def rset (s : State) (off : Nat) (w : Word) : State :=
  { s with regs := tabSet regReset s.regs off w }

def rfield (s : State) (off lo len : Nat) : Nat := field (rget s off) lo len

def rsetField (s : State) (off lo len v : Nat) : State :=
  rset s off (setField (rget s off) lo len v)

/-- Add to a saturating field. -/
def raddSat (s : State) (off lo len n : Nat) : State :=
  rsetField s off lo len (satAdd (2 ^ len - 1) (rfield s off lo len) n)

/-- Add to a 64-bit counter, modulo 2^64. -/
def radd (s : State) (off : Nat) (n : Nat) : State := rset s off (rget s off + wd n)

/-! ### Reports, interrupts, host events -/

/-- Send a report to the safety controller (R466): it waits to be classified. -/
def report (s : State) (code unit : Nat) (loc info : Word) : State :=
  { s with safety := { s.safety with reports := s.safety.reports ++
    [{ code := BitVec.ofNat 16 code, unit := BitVec.ofNat 16 unit, loc := loc, info := info }] } }

/-- UNIT of a report that names part `n` of quadrant `q`. -/
def unitOf (q n : Nat) : Nat := q % 4 * 2 ^ 14 + n % 2 ^ 14

/-- Raise a latched interrupt on a thread (R95): nothing reaches a thread in OFF. -/
def raiseLatched (s : State) (i : Nat) (code : Nat) (info : Word) : State :=
  let t := getThread s i
  if t.mode = .off ∨ corePresent s (i / 16) = false then s else
    setThread s i { t with
      ipend := t.ipend ||| BitVec.ofNat 32 (2 ^ (code - 0x60)),
      ipendInfo := tabSet zeroWord t.ipendInfo code info }

/-- The thread that a control-core target of QUAD, CORE and THREAD names. -/
def targetThread (q core thr : Nat) : Nat := 16 * coreIx q (32 + core % 2) + thr % 4

/-- Raise a latched interrupt on the thread that a word of the layout of CTX_IRQ names, if EN. -/
def raiseIrq (s : State) (irq : Word) (code : Nat) (info : Word) : State :=
  if bit irq 15 then
    raiseLatched s (targetThread (field irq 11 2) (field irq 8 1) (field irq 0 2)) code info
  else s

/-- The offset of the vector-control word of an MSI-X vector. -/
def msixCtl (v : Nat) : Nat := hostOff (0x8000 + 16 * v + 8)

/-- Send MSI-X vector v, or set its pending bit when it is masked (R534). -/
def sendMsix (s : State) (v : Nat) : State :=
  if bit (rget s (msixCtl v)) 32 then
    let o := hostOff (0x10000 + v / 64 * 8)
    rset s o (rget s o ||| wd (2 ^ (v % 64)))
  else { s with host := { s.host with msgs := v :: s.host.msgs } }

/-- Set a bit of HOST_EVT; a rise sends its vector (R534). -/
def hostEvent (s : State) (b : Nat) : State :=
  let w := rget s (hostOff 0)
  if bit w b then s else sendMsix (rset s (hostOff 0) (w ||| wd (2 ^ b))) b

/-- The lowest pending code of an event register (bits 1 to 7). -/
def lowestEvent (w : Word) : Nat :=
  ((List.range 8).find? (fun c => decide (0 < c) && bit w c)).getD 0

/-- Raise event code c in the event register at `evt`, whose target word is at `irq`. -/
def raiseEvent (s : State) (evt irq cause c : Nat) : State :=
  let s := rset s evt (rget s evt ||| wd (2 ^ c))
  raiseIrq s (rget s irq) cause (wd (lowestEvent (rget s evt)))

def ctxEvent (s : State) (c : Nat) : State := raiseEvent s (dealOff 0x1020) (dealOff 0x1018) 0x65 c

def dealEvent (s : State) (c : Nat) : State :=
  raiseEvent s (dealOff 0x10028) (dealOff 0x10020) 0x64 c

def powerEvent (s : State) (c : Nat) : State :=
  hostEvent (raiseEvent s (pwrOff 0x10) (pwrOff 0x18) 0x69 c) 20

/-- READY has been reported (STAGE 0xA). -/
def isReady (s : State) : Bool := decide (rfield s 0x18 0 4 = 0xA)

/-! ### Tests and recovery in progress (R301, R469, R474) -/

/-- The region under a targeted test in a quadrant. -/
def testedRegion (s : State) (q : Nat) : Option Region :=
  if tabGet (fun _ => false) s.safety.testing q
  then (tabGet (fun _ => []) s.safety.tests q).head? else none

/-- The test of unit `k` of a quadrant is in progress, and its work is held (R469): 0 the pot, 1 to 4 the
transfer engines, 5 its quarter of the context manager, 6 the dealer, 7 its sync memory (log entry 136). -/
def unitTested (s : State) (q k : Nat) : Bool :=
  decide (testedRegion s q = some (.unit (16384 * q + k)))

/-- Recovery of a quadrant is in progress. -/
def recovering (s : State) (q : Nat) : Bool := decide (s.safety.recover = some q)

/-- The test of bank `b` of the device, or of a memory channel of its quadrant, is in progress. -/
def bankTested (s : State) (b : Nat) : Bool :=
  match testedRegion s (b / 32) with
  | some (.l2way x _) => decide (x = b)
  | some (.hbmRow _) => true
  | some (.ddrRow _) => true
  | _ => false

/-- The clock of an island runs (R482, R488). -/
def islandRuns (s : State) (n : Nat) : Bool := decide (n ∉ s.power.changing ∧ n ∉ s.power.halted)

/-! ### Accessors of the other tables -/

def getPort (s : State) (p : Nat) : Port := tabGet (fun _ => Port.down) s.ports p
def setPort (s : State) (p : Nat) (v : Port) : State :=
  { s with ports := tabSet (fun _ => Port.down) s.ports p v }
def getQueue (s : State) (n : Nat) : TeQueue := tabGet (fun _ => TeQueue.empty) s.queues n
def setQueue (s : State) (n : Nat) (v : TeQueue) : State :=
  { s with queues := tabSet (fun _ => TeQueue.empty) s.queues n v }
def getSlot (s : State) (r : Nat) : PotSlot := tabGet (fun _ => PotSlot.idle) s.potSlots r
def setSlot (s : State) (r : Nat) (v : PotSlot) : State :=
  { s with potSlots := tabSet (fun _ => PotSlot.idle) s.potSlots r v }
def getObj (s : State) (o : Nat) : SyncObj := tabGet (fun _ => SyncObj.zero) s.sync o
def setObj (s : State) (o : Nat) (v : SyncObj) : State :=
  { s with sync := tabSet (fun _ => SyncObj.zero) s.sync o v }
def getBank (s : State) (b : Nat) : Arb Req := tabGet (fun _ => Arb.idle) s.banks b
def setBank (s : State) (b : Nat) (v : Arb Req) : State :=
  { s with banks := tabSet (fun _ => Arb.idle) s.banks b v }
def getChannel (s : State) (c : Nat) : Arb Req := tabGet (fun _ => Arb.idle) s.channels c
def setChannel (s : State) (c : Nat) (v : Arb Req) : State :=
  { s with channels := tabSet (fun _ => Arb.idle) s.channels c v }
def getPot (s : State) (q : Nat) : Arb PotFlit := tabGet (fun _ => Arb.idle) s.pots q
def setPot (s : State) (q : Nat) (v : Arb PotFlit) : State :=
  { s with pots := tabSet (fun _ => Arb.idle) s.pots q v }
def Window.empty : Window := { arriving := [], entries := [], sent := [] }
def getWindow (s : State) (b : Nat) : Window := tabGet (fun _ => Window.empty) s.windows b
def setWindow (s : State) (b : Nat) (v : Window) : State :=
  { s with windows := tabSet (fun _ => Window.empty) s.windows b v }

/-! ### The commit that is applied next (R515, R516) -/

/-- The transaction whose accepted commit is the oldest. -/
def txnFront (s : State) : Option Txn := s.txn.txns.find? (fun t => t.committed)

/-- A transaction writes a register that a test picks. -/
def Txn.stages (t : Txn) (p : Nat → Bool) : Bool := t.regs.any (fun e => p e.1)

/-- The commit that is applied next writes a register that a test picks: its unit is held at its safe point. -/
def frontStages (s : State) (p : Nat → Bool) : Bool := (txnFront s).any (fun t => t.stages p)

/-- ARB_WAYMASK and ARB_TRUMP_THRESH of a quadrant. -/
def isArbReg (q off : Nat) : Bool :=
  match blockOf off with
  | (.l2 r, o) => decide (r = q ∧ (o < 0x40 ∨ o = 0x200))
  | _ => false

/-- CTX_CFG and DEAL_CFG. -/
def isStoreReg (off : Nat) : Bool := decide (off = dealOff 0x1000 ∨ off = dealOff 0x10000)

/-- No hand is being published (R358): nothing of one waits for an acknowledgement or is held. -/
def publishedAll (s : State) : Bool := s.dealer.pubs.isEmpty && s.dealer.out.isEmpty

/-- Put an item at an arbiter for requester `req` (R314). -/
def arbEnqueue {α : Type} (a : Arb α) (req : Nat) (x : α) : Arb α :=
  { a with waiting := a.waiting ++ [{ req := req, wait := 0, trump := none, item := x }] }

/-- Send an operation to the home of its object. -/
def sendSync (s : State) (op : SyncOp) : State :=
  let q := op.obj.toNat / 2 ^ 14
  let op := { op with seq := s.nextSync }
  { s with syncQ := tabSet (fun _ => []) s.syncQ q (tabGet (fun _ => []) s.syncQ q ++ [op])
           nextSync := s.nextSync + 1 }

/-- Add `n` to object `o` on behalf of a unit of the device. -/
def unitSignal (s : State) (o n : Nat) : State :=
  sendSync s { seq := 0, kind := .sig, src := .unit, obj := BitVec.ofNat 16 o, arg := BitVec.ofNat 32 n }

end Sys2Proof.Machine
end

