-- ==== Sys2Proof/Machine/Flit.lean ====
section
/-! DEFINITION. What the link layer puts on a port's lanes: packet headers (R413), payload flits and link
flits (R395), their checks (R396), and the packets that received flits spell. -/

namespace Sys2Proof.Machine

open Sys2Proof

/-! ### CRC-32 (R396) -/

/-- One bit of the reflected form of the generator 0x1EDC6F41. -/
def crcBit (c : BitVec 32) : BitVec 32 := if c.getLsbD 0 then (c >>> 1) ^^^ 0x82F63B78 else c >>> 1

def crcBits : Nat → BitVec 32 → BitVec 32
  | 0, c => c
  | n + 1, c => crcBits n (crcBit c)

/-- CRC-32 of bytes, the first byte first. -/
def linkCrc (bs : List Byte) : BitVec 32 :=
  ~~~ (bs.foldl (fun c b => crcBits 8 (c ^^^ b.zeroExtend 32)) 0xFFFFFFFF)

/-! ### Packet headers (R413) -/

def typeCode : PktType → Nat
  | .put => 1
  | .putAcc => 2
  | .getReq => 3
  | .getResp => 4
  | .writeAck => 5
  | .sig => 6
  | .sigAck => 7
  | .red => 8
  | .redAbort => 9
  | .mgmt => 10

/-- The type of a code; the others are reserved. -/
def typeOfCode (n : Nat) : Option PktType :=
  [PktType.put, .putAcc, .getReq, .getResp, .writeAck, .sig, .sigAck, .red, .redAbort, .mgmt].find?
    (fun t => decide (typeCode t = n))

/-- The four words of a header. -/
def headerWords (p : Packet) : List Nat :=
  [typeCode p.type + p.acc.toNat * 2 ^ 8 + p.fmt.toNat * 2 ^ 12 + p.len.toNat * 2 ^ 16 + p.dst.toNat * 2 ^ 32,
   p.src.toNat + p.sq.toNat * 2 ^ 20 + p.tag.toNat * 2 ^ 32,
   p.addr.toNat + p.obj.toNat * 2 ^ 48,
   p.value.toNat + p.status.toNat * 2 ^ 32]

/-- The 32 bytes of a header. -/
def headerBytes (p : Packet) : List Byte := (headerWords p).flatMap (bytesOf 8)

/-- Word k of a header as bytes. -/
def headerWord (bs : List Byte) (k : Nat) : Nat := ofBytes ((bs.drop (8 * k)).take 8)

/-- The packet that a header begins; none of a reserved type. Reserved bits are ignored (DESIGN CHOICE, log
entry 45). -/
def readHeader (bs : List Byte) : Option Packet :=
  let w (k lo n : Nat) : Nat := headerWord bs k / 2 ^ lo % 2 ^ n
  (typeOfCode (w 0 0 8)).map fun t =>
    { type := t, acc := BitVec.ofNat 4 (w 0 8 4), fmt := BitVec.ofNat 4 (w 0 12 4)
      len := BitVec.ofNat 16 (w 0 16 16), dst := BitVec.ofNat 20 (w 0 32 20)
      src := BitVec.ofNat 20 (w 1 0 20), sq := BitVec.ofNat 8 (w 1 20 8), tag := BitVec.ofNat 32 (w 1 32 32)
      addr := BitVec.ofNat 48 (w 2 0 48), obj := BitVec.ofNat 16 (w 2 48 16)
      value := BitVec.ofNat 32 (w 3 0 32), status := BitVec.ofNat 8 (w 3 32 8), data := [] }

/-- Data bytes that follow a header: LEN of them in the types that carry data. -/
def dataLen (p : Packet) : Nat :=
  match p.type with
  | .put => p.len.toNat
  | .putAcc => p.len.toNat
  | .getResp => p.len.toNat
  | .red => p.len.toNat
  | _ => 0

/-! ### Payload flits (R395) -/

/-- Bytes filled up to n with zeros. -/
def padTo (n : Nat) (bs : List Byte) : List Byte := (bs ++ List.replicate n 0).take n

/-- A packet with no more than 32 data bytes travels as a cell. -/
def isCell (p : Packet) : Bool := decide (p.data.length ≤ 32)

/-- Flits of a packet: the data flits of a long packet, or one for a cell (R400, R413). -/
def packetFlits (p : Packet) : Nat := if isCell p then 1 else (p.data.length + 255) / 256

/-- The 64 bytes of a cell: its header and its inline data. -/
def cellBytes (p : Packet) : List Byte := headerBytes p ++ padTo 32 p.data

/-- Data flit k of a long packet. -/
def dataFlit (vc : BitVec 3) (p : Packet) (k : Nat) : Flit :=
  { vc := vc, cell := false, bytes := padTo 256 ((p.data.drop (256 * k)).take 256) }

/-- The open group of a port. -/
def openGroup (t : Port) : Option SentGroup := if t.txOpen then t.txHeld.getLast? else none

/-- The cell flit of the open group that a cell of a channel joins. -/
def joinsCell (t : Port) (vc : BitVec 3) : Bool :=
  match (openGroup t).bind (fun g => g.flits.getLast?) with
  | some f => f.cell && decide (f.vc = vc ∧ f.bytes.length < 256)
  | none => false

/-- The first data flit of a long packet. -/
def beginsLong (e : TxFlit) : Bool := !isCell e.pkt && decide (e.part = 0)

/-- Flits, and so credits, that a flit needs (R400): none where a cell joins one. -/
def newFlits (t : Port) (e : TxFlit) : Nat := if isCell e.pkt && joinsCell t e.vc then 0 else 1

/-- Groups that a flit opens. A long packet begins in a group with room for its header (R395). -/
def newGroups (t : Port) (e : TxFlit) : Nat :=
  match openGroup t with
  | none => 1
  | some g => if beginsLong e && decide (2 ≤ g.hdrs.length) then 1 else 0

/-! ### Link flits (R395) -/

/-- The highest group received and verified in order. -/
def ackSeq (t : Port) : BitVec 16 :=
  match t.rxHeld with
  | some _ => t.rxNext - 2
  | none => t.rxNext - 1

/-- The entry of VCMAP of a payload flit. -/
def vcEntry (f : Flit) : Nat := f.vc.toNat + (if f.cell then 8 else 0)

/-- Entries of 4 bits, the first lowest. -/
def packNibbles : List Nat → Nat
  | [] => 0
  | v :: t => v % 16 + 16 * packNibbles t

/-- Bytes 0 to 251 of a link flit. -/
def linkBody (gseq ack : BitVec 16) (nak : Bool) (owed : Tab Nat) (flits : List Flit)
    (hdrs : List (List Byte)) (crcs : List (BitVec 32)) : List Byte :=
  padTo 252 (
    bytesOf 2 gseq.toNat ++ bytesOf 2 ack.toNat ++ bytesOf 1 (if nak then 1 else 0) ++
    bytesOf 1 flits.length ++ bytesOf 2 0 ++
    (List.range 8).flatMap (fun c => bytesOf 2 (tabGet (fun _ => 0) owed c)) ++
    bytesOf 16 (packNibbles (flits.map vcEntry)) ++
    padTo 64 (hdrs.flatMap (fun h => h)) ++
    padTo 128 (crcs.flatMap (fun c => bytesOf 4 c.toNat)))

/-- A link flit with its LCRC. -/
def sealLink (body : List Byte) : List Byte := body ++ bytesOf 4 (linkCrc body).toNat

/-- A payload flit as it is sent. -/
def sentFlit (f : Flit) : List Byte := padTo 256 f.bytes

/-- A closed group as the port sends it: its link flit, then its payload flits. -/
def groupWire (g : SentGroup) : List (List Byte) := g.link :: g.flits.map sentFlit

/-- Change the newest group. -/
def modGroup (t : Port) (f : SentGroup → SentGroup) : Port :=
  { t with txHeld := t.txHeld.dropLast ++ (t.txHeld.getLast?.toList.map f) }

/-- Close the open group and send it: its link flit returns the credits owed and checks the group before
it. -/
def closeGroup (t : Port) : Port :=
  match openGroup t with
  | none => t
  | some g =>
    let g := { g with link := sealLink (linkBody g.gseq (ackSeq t) t.nakOut t.owed g.flits g.hdrs t.txCrcs) }
    { modGroup t (fun _ => g) with
      txOpen := false, owed := [], wire := groupWire g
      txCrcs := g.flits.map (fun f => linkCrc (sentFlit f)) }

/-- The link flit of an idle port: it carries no payload flit and is numbered as the next group (log
entry 45). -/
def idleFlit (t : Port) : Port :=
  { t with
    owed := []
    wire := [sealLink (linkBody t.txSeq (ackSeq t) t.nakOut t.owed [] [] t.txCrcs)] }

/-- Send every group held again, in order, with the contents it had (R398). -/
def resendGroups (t : Port) : Port :=
  let t := closeGroup t
  { t with wire := t.txHeld.flatMap groupWire }

/-- A full group is closed (R395). -/
def closeFull (t : Port) : Port :=
  match openGroup t with
  | some g => if 32 ≤ g.flits.length then closeGroup t else t
  | none => t

/-- A group that is open, after closing one that `full` says has no room. -/
def needGroup (full : SentGroup → Bool) (t : Port) : Port :=
  let t := match openGroup t with
    | some g => if full g then closeGroup t else t
    | none => t
  match openGroup t with
  | some _ => t
  | none =>
    { t with txHeld := t.txHeld ++ [{ gseq := t.txSeq, flits := [], hdrs := [], packets := [], link := [] }]
             txSeq := t.txSeq + 1, txOpen := true }

/-- Put a payload flit into the open group or a new one. -/
def pushFlit (t : Port) (f : Flit) : Port :=
  closeFull (modGroup (needGroup (fun _ => false) t) (fun g => { g with flits := g.flits ++ [f] }))

/-- A cell joins the cell flit of its channel or begins one. -/
def pushCell (t : Port) (vc : BitVec 3) (p : Packet) : Port :=
  if joinsCell t vc then
    modGroup t (fun g => { g with
      packets := g.packets ++ [(vc, p)]
      flits := g.flits.dropLast ++ (g.flits.getLast?.toList.map
        (fun f => { f with bytes := f.bytes ++ cellBytes p })) })
  else
    pushFlit (modGroup (needGroup (fun _ => false) t) (fun g => { g with packets := g.packets ++ [(vc, p)] }))
      { vc := vc, cell := true, bytes := cellBytes p }

/-- A data flit of a long packet. The header stands in the group in which the first one lies. -/
def pushLong (t : Port) (e : TxFlit) : Port :=
  let t := if beginsLong e then
      modGroup (needGroup (fun g => decide (2 ≤ g.hdrs.length)) t) (fun g => { g with
        hdrs := g.hdrs ++ [headerBytes e.pkt], packets := g.packets ++ [(e.vc, e.pkt)] })
    else t
  pushFlit t (dataFlit e.vc e.pkt e.part)

/-- Put a flit into the groups of a port. -/
def pushTx (t : Port) (e : TxFlit) : Port := if isCell e.pkt then pushCell t e.vc e.pkt else pushLong t e

/-! ### Reading a link flit -/

/-- A field of n bytes at an offset of a link flit. -/
def linkField (g : Group) (at' n : Nat) : Nat := ofBytes ((g.link.drop at').take n)

def linkSeq (g : Group) : BitVec 16 := BitVec.ofNat 16 (linkField g 0 2)
def linkAck (g : Group) : BitVec 16 := BitVec.ofNat 16 (linkField g 2 2)
def linkNak (g : Group) : Bool := (linkField g 4 1).testBit 0
def linkNpf (g : Group) : Nat := linkField g 5 1
def linkCredits (g : Group) : List Nat := (List.range 8).map (fun c => linkField g (8 + 2 * c) 2)
def linkVc (g : Group) (k : Nat) : Nat := linkField g 24 16 / 16 ^ k % 16
def linkHdr (g : Group) (k : Nat) : List Byte := (g.link.drop (40 + 32 * k)).take 32
def linkFcrc (g : Group) (k : Nat) : BitVec 32 := BitVec.ofNat 32 (linkField g (104 + 4 * k) 4)

/-- LCRC matches. -/
def lcrcGood (g : Group) : Bool :=
  decide (g.link.length = 256 ∧ linkField g 252 4 = (linkCrc (g.link.take 252)).toNat)

/-- The FCRC entries of a group match every payload flit of the group before it, which are all there. -/
def fcrcGood (g before : Group) : Bool :=
  decide (before.flits.length = linkNpf before) &&
    ((List.range before.flits.length).zip before.flits).all
      (fun x => decide (linkFcrc g x.1 = linkCrc x.2))

/-! ### The packets that flits spell -/

/-- The packet of a cell. An empty cell has a reserved type, and one whose data do not fit is no packet. -/
def readCell (bs : List Byte) : Option Packet :=
  (readHeader bs).bind fun p =>
    if dataLen p ≤ 32 then some { p with data := (bs.drop 32).take (dataLen p) } else none

/-- The packets of a cell flit. -/
def readCells (bs : List Byte) : List Packet :=
  (List.range 4).filterMap (fun k => readCell ((bs.drop (64 * k)).take 64))

/-- A received packet stands in a cell. -/
def inCell (p : Packet) : Bool := decide (dataLen p ≤ 32)

/-- What the payload flits of a group spell, in order: for each its channel and the packets that it
completes, or none where it belongs to no packet, with the long packets that are not yet complete. The
headers are taken in the order of the first data flits (DESIGN CHOICE, log entry 45). -/
def readFlits (g : Group) : List (Nat × List Byte) → Tab Packet → Nat →
    List (Nat × Option (List Packet)) × Tab Packet
  | [], part, _ => ([], part)
  | (k, bs) :: t, part, h =>
    let vc := linkVc g k % 8
    if 8 ≤ linkVc g k then
      let r := readFlits g t part h
      ((vc, some (readCells bs)) :: r.1, r.2)
    else
      let old := tabFind part vc
      let h' := if old.isSome then h else h + 1
      match old.orElse (fun _ => if h < 2 then readHeader (linkHdr g h) else none) with
      | none =>
        let r := readFlits g t part h'
        ((vc, none) :: r.1, r.2)
      | some p =>
        let p := { p with data := p.data ++ bs.take (dataLen p - p.data.length) }
        let done := decide (dataLen p ≤ p.data.length)
        let r := readFlits g t (if done then tabDel part vc else tabPut part vc p) h'
        ((vc, some (if done then [p] else [])) :: r.1, r.2)

/-- The flits of a group, read after what has arrived before. -/
def readGroup (g : Group) (part : Tab Packet) : List (Nat × Option (List Packet)) × Tab Packet :=
  readFlits g ((List.range g.flits.length).zip g.flits) part 0

/-- The packets of a group that has not been verified yet. -/
def heldPackets (t : Port) : List Packet :=
  match t.rxHeld with
  | some g => (readGroup g t.rxPart).1.flatMap (fun r => r.2.getD [])
  | none => []

end Sys2Proof.Machine
end

