-- ==== Sys2Proof/Machine/Flags.lean ====
section
/-! DEFINITION. Number formats, rounding and flag computations (Number formats and conversions,
R113 to R139): every operation computes the exact dyadic value and rounds once. Flags are six bits
in FFLAGS order: OVS 32, INV 16, DZ 8, OF 4, UF 2, NX 1. -/

namespace Sys2Proof.Machine

open Sys2Proof

abbrev FFlags := BitVec 6

def fNX : FFlags := 1
def fUF : FFlags := 2
def fOF : FFlags := 4
def fDZ : FFlags := 8
def fINV : FFlags := 16
def fOVS : FFlags := 32

/-- Bits needed to write a number. -/
def bitLen (n : Nat) : Nat := if n = 0 then 0 else Nat.log2 n + 1

/-! ### Format codes (R113) -/

def isShort (f : Nat) : Bool := decide (f = 6 ∨ f = 8 ∨ f = 9 ∨ f = 10)
def isIeee (f : Nat) : Bool := decide (f = 11 ∨ f = 12)
def isIntFmt (f : Nat) : Bool := decide (f ≤ 5)

/-- Width of a format in bits; 0 for a reserved code. -/
def fmtWidth (f : Nat) : Nat :=
  match f with
  | 0 | 1 | 7 | 8 | 9 => 8
  | 2 | 10 => 16
  | 3 | 11 => 32
  | 4 | 12 => 64
  | 5 | 6 => 4
  | _ => 0

/-- Exponent bits, fraction bits and bias of a float format. -/
def floatParams (f : Nat) : Nat × Nat × Nat :=
  match f with
  | 6 => (2, 1, 1)
  | 8 => (4, 3, 7)
  | 9 => (5, 2, 15)
  | 10 => (8, 7, 127)
  | 11 => (8, 23, 127)
  | _ => (11, 52, 1023)

/-! ### Rounding -/

/-- Whether the magnitude q + r × 2^-k (r < 2^k) rounds up to q + 1 under rounding direction rm of
R118. -/
def roundsUp (rm : Nat) (neg : Bool) (q r k : Nat) : Bool :=
  let two := 2 * r
  let one := 2 ^ k
  if r = 0 then false else
  match rm with
  | 0 => decide (one < two ∨ (two = one ∧ q % 2 = 1))
  | 1 => false
  | 2 => neg
  | 3 => !neg
  | _ => decide (one ≤ two)

/-- Round m × 2^-k to an integer: the integer and whether it is inexact. -/
def roundShift (rm : Nat) (neg : Bool) (m k : Nat) : Nat × Bool :=
  let q := m >>> k
  let r := m % 2 ^ k
  (if roundsUp rm neg q r k then q + 1 else q, decide (r ≠ 0))

/-- m × 2^e as a multiple of 2^qe, rounded. -/
def roundAt (rm : Nat) (neg : Bool) (m : Nat) (e qe : Int) : Nat × Bool :=
  if qe ≤ e then (m <<< (e - qe).toNat, false) else roundShift rm neg m (qe - e).toNat

/-- The code of FP32 or FP64 with a sign. -/
def signCode (f : Nat) (neg : Bool) (code : Nat) : Nat :=
  let p := floatParams f
  code + (if neg then 2 ^ (p.1 + p.2.1) else 0)

/-- The default quiet NaN (R116), and the NaN code of a short format. -/
def defaultNan (f : Nat) : Nat :=
  match f with
  | 11 => 0x7FC00000
  | 12 => 0x7FF8000000000000
  | 6 => 8
  | 10 => 0x8000
  | _ => 0x80

/-- The infinity of FP32 or FP64. -/
def infCode (f : Nat) (neg : Bool) : Nat :=
  let p := floatParams f
  signCode f neg ((2 ^ p.1 - 1) * 2 ^ p.2.1)

/-- Round an exact nonzero magnitude to FP32 or FP64 (R114, R115). Underflow is detected after
rounding. -/
def ieeeRound (f rm : Nat) (neg : Bool) (m : Nat) (e : Int) : Nat × FFlags :=
  if m = 0 then (signCode f neg 0, 0) else
  let p := floatParams f
  let mb := p.2.1
  let emin : Int := 1 - (p.2.2 : Int)
  let top : Int := e + bitLen m - 1
  let qe : Int := max (top - mb) (emin - mb)
  let r := roundAt rm neg m e qe
  let carry := decide (2 ^ (mb + 1) ≤ r.1)
  let q := if carry then r.1 / 2 else r.1
  let qe' := if carry then qe + 1 else qe
  let free := roundAt rm neg m e (top - mb)
  let topR := if 2 ^ (mb + 1) ≤ free.1 then top + 1 else top
  let nx : FFlags := if r.2 then fNX else 0
  if q < 2 ^ mb then (signCode f neg q, if r.2 then fNX ||| fUF else 0)
  else
    let ef := (qe' + mb + p.2.2).toNat
    if 2 ^ p.1 - 1 ≤ ef then
      let big := match rm with
        | 1 => false
        | 2 => neg
        | 3 => !neg
        | _ => true
      (if big then infCode f neg
       else signCode f neg ((2 ^ p.1 - 2) * 2 ^ mb + (2 ^ mb - 1)), fOF ||| fNX)
    else
      let uf : FFlags := if r.2 && decide (topR < emin) then fUF else 0
      (signCode f neg (ef * 2 ^ mb + (q - 2 ^ mb)), nx ||| uf)

/-! ### Reading elements -/

/-- The value of a code of a format (R124, R126, R127). A B8 code or a reserved format has no
value here and reads as a NaN. -/
def decodeFmt (f code : Nat) : Fp :=
  match f with
  | 0 => .fin (decide (128 ≤ code)) (sext 8 code).natAbs 0
  | 1 => .fin false code 0
  | 2 => .fin (decide (0x8000 ≤ code)) (sext 16 code).natAbs 0
  | 3 => .fin (decide (0x80000000 ≤ code)) (sext 32 code).natAbs 0
  | 4 => .fin (decide (0x8000000000000000 ≤ code)) (sext 64 code).natAbs 0
  | 5 => .fin (decide (8 ≤ code)) (sext 4 code).natAbs 0
  | _ =>
    let p := floatParams f
    let fr := code % 2 ^ p.2.1
    let ef := (code >>> p.2.1) % 2 ^ p.1
    let neg := decide ((code >>> (p.1 + p.2.1)) % 2 = 1)
    if isIeee f && decide (ef = 2 ^ p.1 - 1) then
      if fr = 0 then .inf neg else .nan (decide (fr < 2 ^ (p.2.1 - 1))) code
    else if isShort f && neg && decide (ef = 0 ∧ fr = 0) then .nan false code
    else if ef = 0 then .fin neg fr (1 - p.2.2 - p.2.1)
    else .fin neg (2 ^ p.2.1 + fr) (ef - p.2.2 - p.2.1)

/-- An FP32 or FP64 NaN made quiet, its payload kept. -/
def quiet (f code : Nat) : Nat :=
  let q := 2 ^ ((floatParams f).2.1 - 1)
  if (code / q) % 2 = 1 then code else code + q

/-- The first NaN of a list of operands, made quiet, or the default quiet NaN (R116); INV if one
of them signals. -/
def nanResult (f : Nat) (ops : List Fp) : Nat × FFlags :=
  let inv : FFlags := if ops.any (fun x => match x with | .nan s _ => s | _ => false)
    then fINV else 0
  match ops.findSome? (fun x => match x with | .nan _ c => some c | _ => none) with
  | some c => (quiet f c, inv)
  | none => (defaultNan f, inv)

def Fp.isNan : Fp → Bool
  | .nan _ _ => true
  | _ => false

/-- The negative of a value; a NaN is unchanged. -/
def fpNeg : Fp → Fp
  | .fin n m e => .fin (!n) m e
  | .inf n => .inf (!n)
  | x => x

/-- Signed mantissa of a finite value at a common exponent. -/
def atExp (neg : Bool) (m : Nat) (e base : Int) : Int :=
  let v : Int := (m : Int) * ((2 ^ (e - base).toNat : Nat) : Int)
  if neg then -v else v

/-- The exact sum of two finite values; an exact zero takes the sign IEEE 754 gives it. -/
def addExact (rm : Nat) (n1 : Bool) (m1 : Nat) (e1 : Int) (n2 : Bool) (m2 : Nat) (e2 : Int) : Fp :=
  let base := min e1 e2
  let v := atExp n1 m1 e1 base + atExp n2 m2 e2 base
  if v = 0 then
    .fin (if m1 = 0 ∧ m2 = 0 ∧ n1 = n2 then n1 else decide (rm = 2)) 0 base
  else .fin (decide (v < 0)) v.natAbs base

/-- The exact sum of two values none of which is a NaN; none for ∞ − ∞. -/
def fpAddExact (rm : Nat) (x y : Fp) : Option Fp :=
  match x, y with
  | .inf a, .inf b => if a = b then some (.inf a) else none
  | .inf a, _ => some (.inf a)
  | _, .inf b => some (.inf b)
  | .fin a m e, .fin b n g => some (addExact rm a m e b n g)
  | _, _ => none

/-- The exact product of two values none of which is a NaN; none for 0 × ∞. -/
def fpMulExact (x y : Fp) : Option Fp :=
  match x, y with
  | .inf a, .inf b => some (.inf (a != b))
  | .inf a, .fin b m _ => if m = 0 then none else some (.inf (a != b))
  | .fin a m _, .inf b => if m = 0 then none else some (.inf (a != b))
  | .fin a m e, .fin b n g => some (.fin (a != b) (m * n) (e + g))
  | _, _ => none

/-- Round an exact value that is not a NaN to FP32 or FP64. -/
def ieeeOf (f rm : Nat) : Fp → Nat × FFlags
  | .fin n m e => ieeeRound f rm n m e
  | .inf n => (infCode f n, 0)
  | .nan _ _ => (defaultNan f, 0)

/-! ### Conversion to a short format (R128 to R132) -/

/-- The random bits of R132. -/
def srMix : Nat → Nat → Nat
  | 0, x => x
  | k + 1, x =>
    let x := x ^^^ (x >>> 29)
    let x := (x * 0x9E6D5A3BC27184F5) % 2 ^ 64
    let x := x ^^^ (x >>> 32)
    srMix k x

def srBits (key ctr i : Nat) : Nat :=
  srMix 4 ((key <<< 32) ||| ((ctr + i) % 2 ^ 32)) % 2 ^ 16

/-- Convert an exact value to a short format under R129; rnd is RND, r the sixteen drawn bits. -/
def shortOf (f rnd r : Nat) (x : Fp) : Nat × FFlags :=
  match x with
  | .nan s _ => (defaultNan f, if s then fINV else 0)
  | .inf _ => (defaultNan f, fINV)
  | .fin neg m e =>
    if m = 0 then (0, 0) else
    let p := floatParams f
    let mb := p.2.1
    let emin : Int := 1 - (p.2.2 : Int)
    let top : Int := e + bitLen m - 1
    let qe : Int := max (top - mb) (emin - mb)
    let q : Nat :=
      if rnd = 2 then
        if qe ≤ e then m <<< (e - qe).toNat
        else
          let k := (qe - e).toNat
          let lo := m >>> k
          let d := ((m % 2 ^ k) * 2 ^ 16) >>> k
          if 2 ^ 16 ≤ d + r then lo + 1 else lo
      else (roundAt (if rnd = 1 then 1 else 0) neg m e qe).1
    if q = 0 then (0, 0) else
    let carry := decide (2 ^ (mb + 1) ≤ q)
    let q' := if carry then q / 2 else q
    let qe' := if carry then qe + 1 else qe
    let code :=
      if q' < 2 ^ mb then q' else (qe' + mb + p.2.2).toNat * 2 ^ mb + (q' - 2 ^ mb)
    let big := 2 ^ (p.1 + mb) - 1
    if big < code then (signCode f neg big, fOVS) else (signCode f neg code, 0)

/-! ### Conversion to an integer (R136) -/

/-- Least and greatest value of an integer format. -/
def intRange (f : Nat) : Int × Int :=
  match f with
  | 0 => (-128, 127)
  | 1 => (0, 255)
  | 2 => (-0x8000, 0x7FFF)
  | 3 => (-0x80000000, 0x7FFFFFFF)
  | 4 => (-0x8000000000000000, 0x7FFFFFFFFFFFFFFF)
  | 5 => (-8, 7)
  | 13 => (0, 0xFFFFFFFF)
  | _ => (0, 0xFFFFFFFFFFFFFFFF)

/-- Round to an integer by rm and saturate to a range: the integer and the flags. -/
def toIntRange (lo hi : Int) (rm : Nat) (x : Fp) : Int × FFlags :=
  match x with
  | .nan _ _ => (0, fINV)
  | .inf n => (if n then lo else hi, fINV)
  | .fin n m e =>
    let r := roundAt rm n m e 0
    let v : Int := if n then -(r.1 : Int) else r.1
    if v < lo then (lo, fINV) else if hi < v then (hi, fINV) else (v, if r.2 then fNX else 0)

/-- A code of w bits of an integer. -/
def intCode (w : Nat) (i : Int) : Nat := (i % ((2 ^ w : Nat) : Int)).toNat

/-- A NaN of FP32 or FP64 carried to the other width with its payload, made quiet. To FP32 the upper 23 of the 52
fraction bits are kept (log entry 144). -/
def nanMove (src dst code : Nat) : Nat :=
  let ps := floatParams src
  let pd := floatParams dst
  let frac := code % 2 ^ ps.2.1
  let frac' := if ps.2.1 ≤ pd.2.1 then frac <<< (pd.2.1 - ps.2.1) else frac >>> (ps.2.1 - pd.2.1)
  let neg := decide (2 ^ (ps.1 + ps.2.1) ≤ code)
  quiet dst (infCode dst neg + frac')

/-- Convert a value of format `src` to format `dst` (R129 to R138): the code and the flags. A scaled G4 value
beyond FP32's range rounds as any other (DEDUCED, log entry 126). -/
def convFmt (src dst rm rnd r : Nat) (x : Fp) : Nat × FFlags :=
  if isShort dst then shortOf dst rnd r x
  else if isIeee dst then
    match x with
    | .nan s c =>
      if isIeee src then (nanMove src dst c, if s then fINV else 0) else (defaultNan dst, 0)
    | .fin n m e =>
      if m = 0 && isIntFmt src then (0, 0) else ieeeRound dst rm n m e
    | y => ieeeOf dst rm y
  else
    let lim := intRange dst
    let v := toIntRange lim.1 lim.2 rm x
    (intCode (fmtWidth dst) v.1, v.2)

/-! ### Arithmetic of FP32 and FP64 on codes -/

def fpAdd (f rm : Nat) (a b : Nat) : Nat × FFlags :=
  let x := decodeFmt f a
  let y := decodeFmt f b
  if x.isNan || y.isNan then nanResult f [x, y]
  else match fpAddExact rm x y with
    | some z => ieeeOf f rm z
    | none => (defaultNan f, fINV)

/-- a − b: the second operand's sign is changed unless it is a NaN. -/
def fpSub (f rm : Nat) (a b : Nat) : Nat × FFlags :=
  let x := decodeFmt f a
  let y := decodeFmt f b
  if x.isNan || y.isNan then nanResult f [x, y]
  else match fpAddExact rm x (fpNeg y) with
    | some z => ieeeOf f rm z
    | none => (defaultNan f, fINV)

def fpMul (f rm : Nat) (a b : Nat) : Nat × FFlags :=
  let x := decodeFmt f a
  let y := decodeFmt f b
  if x.isNan || y.isNan then nanResult f [x, y]
  else match fpMulExact x y with
    | some z => ieeeOf f rm z
    | none => (defaultNan f, fINV)

def fpDiv (f rm : Nat) (a b : Nat) : Nat × FFlags :=
  let x := decodeFmt f a
  let y := decodeFmt f b
  if x.isNan || y.isNan then nanResult f [x, y]
  else match x, y with
    | .inf _, .inf _ => (defaultNan f, fINV)
    | .inf n, .fin k _ _ => (infCode f (n != k), 0)
    | .fin n _ _, .inf k => (signCode f (n != k) 0, 0)
    | .fin n m e, .fin k d g =>
      if d = 0 then
        if m = 0 then (defaultNan f, fINV) else (infCode f (n != k), fDZ)
      else
        let sh := (floatParams f).2.1 + 4 + bitLen d
        let num := m <<< sh
        let q := 2 * (num / d) + (if num % d = 0 then 0 else 1)
        ieeeRound f rm (n != k) q (e - g - sh - 1)
    | _, _ => (defaultNan f, fINV)

/-- The integer square root, bit by bit. -/
def isqrtGo : Nat → Nat → Nat → Nat
  | 0, _, r => r
  | k + 1, n, r =>
    let c := r + 2 ^ k
    isqrtGo k n (if c * c ≤ n then c else r)

def isqrt (n : Nat) : Nat := isqrtGo (bitLen n / 2 + 1) n 0

def fpSqrt (f rm : Nat) (a : Nat) : Nat × FFlags :=
  match decodeFmt f a with
  | .nan s c => nanResult f [.nan s c]
  | .inf n => if n then (defaultNan f, fINV) else (infCode f false, 0)
  | .fin n m e =>
    if m = 0 then (a, 0) else if n then (defaultNan f, fINV)
    else
      let sh := 2 * ((floatParams f).2.1 + 4)
      let odd := decide (e % 2 ≠ 0)
      let m' := if odd then 2 * m else m
      let e' := if odd then e - 1 else e
      let big := m' <<< sh
      let r := isqrt big
      let q := 2 * r + (if r * r = big then 0 else 1)
      ieeeRound f rm false q (e' / 2 - sh / 2 - 1)

/-- ±(a × b) ± c with one rounding (R117, R161). -/
def fpFma (f rm : Nat) (negProd negAdd : Bool) (a b c : Nat) : Nat × FFlags :=
  let x := decodeFmt f a
  let y := decodeFmt f b
  let z := decodeFmt f c
  let zeroInf := !x.isNan && !y.isNan && (fpMulExact x y).isNone
  if x.isNan || y.isNan || z.isNan then
    let r := nanResult f [x, y, z]
    (r.1, if zeroInf then r.2 ||| fINV else r.2)
  else match fpMulExact x y with
    | none => (defaultNan f, fINV)
    | some p =>
      let p' := if negProd then fpNeg p else p
      let z' := if negAdd then fpNeg z else z
      match fpAddExact rm p' z' with
      | some w => ieeeOf f rm w
      | none => (defaultNan f, fINV)

/-- Comparison of two values that are not NaNs: −1, 0 or 1 by value; −0 equals +0. -/
def fpCmp (x y : Fp) : Int :=
  match x, y with
  | .inf a, .inf b => if a = b then 0 else if a then -1 else 1
  | .inf a, _ => if a then -1 else 1
  | _, .inf b => if b then 1 else -1
  | .fin a m e, .fin b n g =>
    let base := min e g
    let d := atExp a m e base - atExp b n g base
    if d < 0 then -1 else if 0 < d then 1 else 0
  | _, _ => 0

def Fp.neg? : Fp → Bool
  | .fin n _ _ => n
  | .inf n => n
  | .nan _ _ => false

/-- Order in which −0 is below +0. -/
def fpBelow (x y : Fp) : Bool :=
  decide (fpCmp x y < 0) || (decide (fpCmp x y = 0) && x.neg? && !y.neg?)

/-- maximumNumber and minimumNumber (R119). -/
def fpMinMax (f : Nat) (wantMax : Bool) (a b : Nat) : Nat × FFlags :=
  let x := decodeFmt f a
  let y := decodeFmt f b
  let inv := (nanResult f [x, y]).2
  if x.isNan && y.isNan then nanResult f [x, y]
  else if x.isNan then (b, inv)
  else if y.isNan then (a, inv)
  else if wantMax then (if fpBelow x y then b else a, 0)
  else (if fpBelow y x then b else a, 0)

/-- cmp.eq, cmp.lt, cmp.le (R120): 0 equal, 1 less, 2 less or equal. -/
def fpCompare (f kind : Nat) (a b : Nat) : Bool × FFlags :=
  let x := decodeFmt f a
  let y := decodeFmt f b
  if x.isNan || y.isNan then
    (false, if kind = 0 then (nanResult f [x, y]).2 else fINV)
  else
    let c := fpCmp x y
    (match kind with | 0 => decide (c = 0) | 1 => decide (c < 0) | _ => decide (c ≤ 0), 0)

/-- sgnj, sgnjn, sgnjx: 0, 1, 2. No flag (R120). -/
def fpSgnj (f kind : Nat) (a b : Nat) : Nat :=
  let w := fmtWidth f
  let top := 2 ^ (w - 1)
  let sa := (a / top) % 2
  let sb := (b / top) % 2
  let s := match kind with | 0 => sb | 1 => 1 - sb | _ => (sa + sb) % 2
  a % top + s * top

/-- class (R71): the number of the one bit set. -/
def fpClass (f : Nat) (a : Nat) : Nat :=
  match decodeFmt f a with
  | .nan s _ => if s then 1 else 0
  | .inf n => if n then 9 else 2
  | .fin n m _ =>
    if m = 0 then (if n then 6 else 5)
    else
      let p := floatParams f
      let sub := decide ((a >>> p.2.1) % 2 ^ p.1 = 0)
      if n then (if sub then 7 else 8) else (if sub then 4 else 3)

/-! ### Arithmetic with a short-format result (R138, R139) -/

/-- Convert an exact result; a result that is no finite number gives the NaN code with INV. -/
def shortResult (f rnd r : Nat) (x : Option Fp) : Nat × FFlags :=
  match x with
  | some (.fin n m e) => shortOf f rnd r (.fin n m e)
  | _ => (defaultNan f, fINV)

/-- max and min of a short format (R139). -/
def shortMinMax (f : Nat) (wantMax : Bool) (a b : Nat) : Nat :=
  let x := decodeFmt f a
  let y := decodeFmt f b
  if x.isNan then b else if y.isNan then a
  else if wantMax then (if fpBelow x y then b else a) else (if fpBelow y x then b else a)

/-- Comparisons of a short format (R139): a NaN code is unordered and raises no flag. -/
def shortCompare (f kind : Nat) (a b : Nat) : Bool :=
  let x := decodeFmt f a
  let y := decodeFmt f b
  if x.isNan || y.isNan then false
  else
    let c := fpCmp x y
    match kind with | 0 => decide (c = 0) | 1 => decide (c < 0) | _ => decide (c ≤ 0)

/-! ### G4 blocks (R134) -/

/-- Least k with A ≤ 6 × 2^k, for A = m × 2^e > 0. -/
def scaleExp (m : Nat) (e : Int) : Int :=
  let k : Int := e + bitLen m - 4
  -- m × 2^e ≤ 6 × 2^j, tried from a value below the least
  let fits (j : Int) : Bool :=
    let base := min e j
    decide (m * 2 ^ (e - base).toNat ≤ 6 * 2 ^ (j - base).toNat)
  if fits k then k else if fits (k + 1) then k + 1 else if fits (k + 2) then k + 2 else k + 3

/-- The scale exponent k′ of a block of values (R134). -/
def blockScale (xs : List Fp) : Int :=
  let best := xs.foldl (fun acc x =>
    match x with
    | .fin _ m e =>
      if m = 0 then acc
      else match acc with
        | none => some (m, e)
        | some (n, g) => if fpCmp (.fin false n g) (.fin false m e) < 0 then some (m, e) else acc
    | _ => acc) (none : Option (Nat × Int))
  match best with
  | none => 0
  | some (m, e) => max (-127) (min 127 (scaleExp m e))

/-- A value times 2^j. -/
def fpScale (j : Int) : Fp → Fp
  | .fin n m e => .fin n m (e + j)
  | x => x

/-- The value of a G4 code in a block with a B8 scale code (R125, R126). -/
def g4Value (code scale : Nat) : Fp :=
  if scale = 255 then .nan false 8 else fpScale ((scale : Int) - 127) (decodeFmt 6 code)

end Sys2Proof.Machine
end

