-- ==== Sys2Proof/Machine/Mem.lean ====
section
/-! DEFINITION. Memory behind the home banks (Caches, prefetch and arbitration; R282 to R292, R295,
R308, R463, R464) and the combining windows in front of them (R275 to R280). Lines are named by
their line address, the physical address divided by 128. -/

namespace Sys2Proof.Machine

open Sys2Proof

/-! ### The local physical map (R282, R327, R551) -/

/-- Home quadrant of a physical address of HBM or the DDR5 tier. -/
def homeQuad (pa : Nat) : Nat :=
  if pa < 0x8000000000 then pa / 0x2000000000 else (pa - 0x80000000000) / 0x20000000000 % 4

def inHbm (pa : Nat) : Bool := decide (pa < 0x8000000000)

/-- Installed DDR5 bytes of a quadrant. -/
def ddrCapacity (s : State) (q : Nat) : Nat := tabGet (fun _ => 0) s.boot.ddr q

def inDdr (s : State) (pa : Nat) : Bool :=
  decide (0x80000000000 ≤ pa ∧ pa < 0x100000000000 ∧
    (pa - 0x80000000000) % 0x20000000000 < ddrCapacity s (homeQuad pa))

/-- Installed HBM and installed DDR5 tier. -/
def inMemory (s : State) (pa : Nat) : Bool := inHbm pa || inDdr s pa

/-- The device register space. -/
def inDevice (pa : Nat) : Bool := decide (0x3FFF00000000 ≤ pa ∧ pa < 0x400000000000)

/-- BAR0 offset of an address of the device register space. -/
def deviceOff (pa : Nat) : Nat := pa - 0x3FFF00000000

/-- Home bank of a line, as 32 × quadrant + bank. -/
def lineBank (l : Nat) : Nat := 32 * homeQuad (128 * l) + l % 32

/-- Set of a line in its bank. -/
def lineSet (l : Nat) : Nat := l / 32 % 1024

/-! ### DRAM -/

/-- What an unlisted byte reads as: DRAM is cleared at reset (R498). -/
def zeroByte : Nat → Byte := fun _ => 0

/-- One byte of DRAM. -/
def memByte (s : State) (a : Nat) : Byte := tabGet zeroByte s.mem a

/-- A line of DRAM. -/
def memLine (s : State) (l : Nat) : Line :=
  s.mem.foldl (fun acc e => if e.1 / 128 = l
    then acc ||| BitVec.ofNat 1024 (e.2.toNat <<< (8 * (e.1 % 128))) else acc) 0

/-- Write bytes from an address up. -/
def writeBytes : Tab Byte → Nat → List Byte → Tab Byte
  | m, _, [] => m
  | m, a, b :: t => writeBytes (tabSet zeroByte m a b) (a + 1) t

def lineBytes (d : Line) : List Byte := bytesOf 128 d.toNat

/-- Whether memory keeps its canonical form. -/
def memWf (s : State) : Bool := tabWf zeroByte s.mem

/-- Bytes of a line from an offset, as a number. -/
def lineGet (d : Line) (off size : Nat) : Nat := (d.toNat >>> (8 * off)) % 2 ^ (8 * size)

/-- A line with `size` bytes from an offset replaced. -/
def linePut (d : Line) (off size v : Nat) : Line :=
  let m : Line := BitVec.ofNat 1024 ((2 ^ (8 * size) - 1) <<< (8 * off))
  (d &&& ~~~m) ||| BitVec.ofNat 1024 ((v % 2 ^ (8 * size)) <<< (8 * off))

/-- The bits of a line that a write of `size` bytes at an offset covers, and its bits in place. -/
def byteMask (off size : Nat) : Line := BitVec.ofNat 1024 ((2 ^ (8 * size) - 1) <<< (8 * off))
def byteData (off size v : Nat) : Line :=
  BitVec.ofNat 1024 ((v % 2 ^ (8 * size)) <<< (8 * off))

/-- A line with the bits of a mask replaced. -/
def lineMask (d mask data : Line) : Line := (d &&& ~~~mask) ||| (data &&& mask)

def badWords (s : State) (l : Nat) : BitVec 16 := tabGet (fun _ => 0) s.memBad l

/-- Write a whole line to DRAM; words marked bad take the reserved check pattern (R464). -/
def writeMemLine (s : State) (l : Nat) (d : Line) (bad : BitVec 16) : State :=
  { s with mem := writeBytes s.mem (128 * l) (lineBytes d)
           memBad := tabSet (fun _ => 0) s.memBad l bad }

/-! ### L1 copies -/

/-- A line delivered to a waiting instruction of a core is no longer there (R290). -/
def dropGot (s : State) (c l : Nat) : State :=
  (List.range 16).foldl (fun s n =>
    let th := getThread s (16 * c + n)
    if (tabFind th.got l).isNone then s
    else setThread s (16 * c + n) { th with got := tabDel th.got l }) s

/-- Remove every L1 copy that a presence vector names, and let no fill in flight be kept
(R285). -/
def dropCopies (s : State) (l : Nat) : List Nat → State
  | [] => s
  | c :: t =>
    let k := getCore s c
    let k := { k with
      l1d := tabDel k.l1d l
      msgs := k.msgs.map (fun m => match m with
        | .fill l' d a p kp => if l' = l then .fill l' d a p false else .fill l' d a p kp
        | m => m) }
    dropCopies (dropGot (setCore s c k) c l) l t

/-! ### L2 lines, ways and victims (R288, R291, R292, R295) -/

/-- INFO of an event that names the part it concerns, where WHERE is no row of memory: the core of UNIT, a
way of a bank, a row of another SRAM, or no part that is tested (log entry 136). -/
def inCore : Word := wd (2 ^ 60)
def inWay (bank way : Nat) : Word := wd (2 ^ 61 + 32 * bank + way)
def inSram : Word := wd (3 * 2 ^ 60)
def inNone : Word := wd (2 ^ 62)

/-- Report an uncorrectable error that was consumed, with the part it lies in (R463). -/
def ueIn (s : State) (unit : Nat) (loc part : Word) : State := report s 0x0003 unit loc part

/-- Report an uncorrectable error of the row of memory at `loc` that was consumed. -/
def ueConsumed (s : State) (unit : Nat) (loc : Word) : State := ueIn s unit loc 0

/-- Take a line out of L2: its L1 copies are invalidated, and it is written back if dirty. -/
def evictLine (s : State) (l : Nat) : State :=
  match tabFind s.l2 l with
  | none => s
  | some ln =>
    let s := dropCopies s l ln.sharers
    let s := { s with l2 := tabDel s.l2 l }
    if ln.dirty then
      let s := writeMemLine s l ln.data ln.bad
      if ln.bad = 0 then s
      else report s 0x0004 (unitOf (homeQuad (128 * l)) (l % 32)) (wd (128 * l)) (inWay (lineBank l) ln.way)
    else s

/-- The lines of L2 in the set of a line. -/
def sameSet (s : State) (l : Nat) : List (Nat × L2Line) :=
  s.l2.filter (fun e => decide (e.1 % 32768 = l % 32768 ∧ lineBank e.1 = lineBank l))

/-- Physical way w of a quadrant is in the retirement store. -/
def physWayRetired (k : Kept) (q w : Nat) : Bool :=
  k.retire.any (fun e => decide (e.kind = 2 ∧ field (e.region.zeroExtend 64) 8 2 = q ∧
    field (e.region.zeroExtend 64) 0 5 = w))

/-- The physical way that a way of a quadrant is: its own number, but for way 0 (R470). -/
def physWay (s : State) (q w : Nat) : Nat := if w = 0 then tabGet (fun _ => 0) s.wayZero q else w

/-- A way of a quadrant is retired (R312, R470): its physical way is, or holds way 0. Way 0 is always
on: its own retirement moves it at the next device reset. -/
def wayRetired (s : State) (q w : Nat) : Bool :=
  decide (w ≠ 0) && (physWayRetired s.kept q w || decide (physWay s q 0 = w))

/-- Way 0 of each quadrant on the lowest healthy physical way (R470). -/
def waysZero (k : Kept) : Tab Nat :=
  (List.range 4).foldl (fun t q => tabSet (fun _ => 0) t q
    (((List.range 24).find? (fun w => !physWayRetired k q w)).getD 0)) []

/-- Ways a class may allocate in, in a quadrant (R295): those of its mask that are usable, that are
not asked to power down (R310), that are not retired (R312) and that are in no transition. -/
def classWays (s : State) (q cls : Nat) : List Nat :=
  let p := rget s (l2Off q 0x100)
  let mask := rfield s (l2Off q (8 * cls)) 0 24 &&& field p 24 24 &&& field p 0 24
  (List.range 24).filter (fun w =>
    mask.testBit w && !wayRetired s q w && !(bit p 56 && decide (field p 48 5 = w)))

/-- Ways that hold a line, with its age; the choice of R292 over them: an invalid way, else the
lowest way of age 3 after the ages have risen by the same amount. -/
def chooseWay (ways : List Nat) (held : List (Nat × Nat)) : Option (Nat × Nat) :=
  match ways.find? (fun w => held.all (fun h => decide (h.1 ≠ w))) with
  | some w => some (w, 0)
  | none =>
    let mine := held.filter (fun h => decide (h.1 ∈ ways))
    let oldest := mine.foldl (fun a h => max a h.2) 0
    match ways.find? (fun w => mine.any (fun h => decide (h.1 = w ∧ h.2 = oldest))) with
    | some w => some (w, 3 - oldest)
    | none => none

/-- Raise ages by `n` in the ways given. -/
def ageSet (t : Tab L2Line) (keys : List Nat) (ways : List Nat) (n : Nat) : Tab L2Line :=
  t.map (fun e => if e.1 ∈ keys ∧ e.2.way ∈ ways
    then (e.1, { e.2 with age := min 3 (e.2.age + n) }) else e)

/-- Put a line into L2 under a class's effective mask, at an age; none where the mask is empty. -/
def allocLine (s : State) (l cls age : Nat) (d : Line) (dirty : Bool) : Option State :=
  let ways := classWays s (homeQuad (128 * l)) cls
  let set := sameSet s l
  match chooseWay ways (set.map (fun e => (e.2.way, e.2.age))) with
  | none => none
  | some (w, n) =>
    let s := { s with l2 := ageSet s.l2 (set.map Prod.fst) ways n }
    let s := match set.find? (fun e => decide (e.2.way = w)) with
      | some e => evictLine s e.1
      | none => s
    let ln : L2Line := { data := d, bad := 0, dirty := dirty, way := w, age := age, sharers := [] }
    some { s with l2 := tabPut s.l2 l ln }

/-- The set of a line is marked lost (R308). -/
def setLost (s : State) (l : Nat) : Bool := decide (lineBank l * 1024 + lineSet l ∈ s.lost)

/-! ### Accumulation (R275, R278) -/

/-- Combine two partial values; `acc` is 1 add, 2 max, 3 min. A G16 add is carried in FP32. -/
def accMerge (acc fmt : Nat) (x y : Nat) : Nat :=
  match fmt with
  | 3 | 4 =>
    let w := fmtWidth fmt
    let i := sext w x
    let j := sext w y
    intCode w (if acc = 1 then i + j else if acc = 2 then max i j else min i j)
  | 10 => if acc = 1 then (fpAdd 11 0 x y).1 else shortMinMax 10 (acc = 2) x y
  | f => if acc = 1 then (fpAdd f 0 x y).1 else (fpMinMax f (acc = 2) x y).1

/-- The partial value of one written element. -/
def accPartial (acc fmt : Nat) (x : Nat) : Nat :=
  if fmt = 10 ∧ acc = 1 then (convFmt 10 11 0 0 0 (decodeFmt 10 x)).1 else x

/-- Apply a partial value to the stored element. -/
def accFinal (acc fmt : Nat) (old partial_ : Nat) : Nat :=
  if fmt = 10 ∧ acc = 1 then
    let x := decodeFmt 10 old
    let y := decodeFmt 11 partial_
    if x.isNan || y.isNan then defaultNan 10 else (shortResult 10 0 0 (fpAddExact 0 x y)).1
  else accMerge acc fmt old partial_

/-- Apply an entry to the data of its line. -/
def accApply (u : AccUpd) (d : Line) : Line :=
  let f := u.fmt.toNat
  let n := fmtWidth f / 8
  u.elems.foldl (fun d e =>
    linePut d (n * e.1) n (accFinal u.acc.toNat f (lineGet d (n * e.1) n) e.2.toNat)) d

/-- Merge an update into an entry of the same key. -/
def accJoin (a b : AccUpd) : AccUpd :=
  { a with
    elems := b.elems.foldl (fun t e =>
      tabPut t e.1 (match tabFind t e.1 with
        | some x => wd (accMerge a.acc.toNat a.fmt.toNat x.toNat e.2.toNat)
        | none => e.2)) a.elems
    agents := b.agents.foldl (fun t n => insertNat n t) a.agents }

/-! ### Invalidations (R287) -/

/-- Send an invalidation of write `wid` to a core. -/
def sendInval (s : State) (l wid : Nat) : List Nat → State
  | [] => s
  | c :: t =>
    let k := getCore s c
    sendInval (setCore s c { k with msgs := k.msgs ++ [.inval l wid] }) l wid t

/-- Record a write performed at home for some agents: every sharer but the one to skip is sent an
invalidation, and the write is performed when all have acknowledged. A store has its write number
already. -/
def notePerformed (s : State) (wid : Option Nat) (whos : List Nat) (l : Nat) (skip : Option Nat)
    (sharers : List Nat) : State :=
  let acks := sharers.filter (fun c => decide (some c ≠ skip))
  if acks.isEmpty then s else
    let id := wid.getD s.nextWrite
    let s := { s with
      nextWrite := if wid.isNone then id + 1 else s.nextWrite
      writes := s.writes ++ [{ id := id, agents := whos, line := l, acks := acks }] }
    sendInval s l id acks

/-- An unreadable line that is clean is invalidated where it is found (R305). -/
def dropBadClean (s : State) (l : Nat) : State :=
  match tabFind s.l2 l with
  | some ln => if ln.bad ≠ 0 ∧ ln.dirty = false then
      let s := dropCopies s l ln.sharers
      { s with l2 := tabDel s.l2 l } else s
  | none => s

/-- Note the way of a bank that holds an unreadable line. -/
def suspect (s : State) (n : Nat) : State := { s with safety := { s.safety with suspect := n } }

/-- Bring a line's data at its home bank: the state, the data, and a cause code where the line cannot
be read. A hit makes the line's age 0; a miss allocates under the class's mask (R288, R291). -/
def homeFetch (s : State) (l cls age : Nat) : State × Line × Option (BitVec 8) :=
  match tabFind s.l2 l with
  | some ln =>
    if ln.bad ≠ 0 then (dropBadClean (suspect s (32 * lineBank l + ln.way)) l, 0, some 0x41)
    else ({ s with l2 := tabPut s.l2 l { ln with age := 0 } }, ln.data, none)
  | none =>
    if setLost s l then (s, 0, some 0x43)
    else if badWords s l ≠ 0 then (s, 0, some 0x40)
    else
      let d := memLine s l
      ((allocLine s l cls age d false).getD s, d, none)

/-- Put changed data of a line at home: in L2 if it is there, else in memory. -/
def homeStore (s : State) (l : Nat) (d : Line) : State :=
  match tabFind s.l2 l with
  | some ln => { s with l2 := tabPut s.l2 l { ln with data := d, bad := 0, dirty := true } }
  | none => writeMemLine s l d 0

def sharersOf (s : State) (l : Nat) : List Nat :=
  match tabFind s.l2 l with
  | some ln => ln.sharers
  | none => []

/-- L2 insertion age of a class's fills without the streaming hint (R291). -/
def insertAge (cls : Nat) : Nat :=
  match cls with
  | 2 | 5 => 2
  | 7 => 3
  | _ => 1

/-- Unit of a report that names an agent by its queue number: the core of a thread, or the number. -/
def queueUnit (n : Nat) : Nat :=
  if n < 2080 then unitOf (threadOfQueue n / 16 / 34) (threadOfQueue n / 16 % 34) else unitOf 0 n

/-- Apply one combining-window entry at its bank (R280, R287), under the class of its writer. An update
of an unreadable line is not performed, and the event names its writers (R464). -/
def applyUpdate (s : State) (u : AccUpd) : State :=
  let r := homeFetch s u.line u.cls (insertAge u.cls)
  match r.2.2 with
  | some _ => u.agents.foldl (fun s n => ueConsumed s (queueUnit n) (wd (128 * u.line))) r.1
  | none =>
    let sh := sharersOf r.1 u.line
    let s := homeStore r.1 u.line (accApply u r.2.1)
    notePerformed s none u.agents u.line none sh

/-- Every update of a line that has reached its window is applied before another access to the line is
served (R279, R280), and so are the accessing agent's own updates, which precede the access on its
path (R369). -/
def settle (s : State) (who l : Nat) : State :=
  let b := lineBank l
  let w := getWindow s b
  let here (u : AccUpd) : Bool := decide (u.line = l)
  let own (u : AccUpd) : Bool := here u && decide (who ∈ u.agents)
  let all := (w.sent ++ w.entries).filter here ++ w.arriving.filter own
  if all.isEmpty then s else
    let s := setWindow s b
      { arriving := w.arriving.filter (fun u => !own u)
        entries := w.entries.filter (fun u => !here u)
        sent := w.sent.filter (fun u => !here u) }
    all.foldl applyUpdate s

/-- An accumulating write of an agent to a line has not been applied. -/
def ownUpdate (s : State) (who l : Nat) : Bool :=
  let w := getWindow s (lineBank l)
  (w.sent ++ w.entries ++ w.arriving).any (fun u => decide (u.line = l ∧ who ∈ u.agents))

/-- Keep fills on their way to a core in step with its own store. -/
def patchFills (s : State) (c l : Nat) (mask data : Line) : State :=
  let k := getCore s c
  setCore s c { k with
    msgs := k.msgs.map (fun m => match m with
      | .fill l' d a p kp => if l' = l then .fill l' (lineMask d mask data) a p kp
                             else .fill l' d a p kp
      | m => m) }

/-- A store changes the line where it was delivered to a waiting instruction of its core. -/
def patchGot (s : State) (c l : Nat) (mask data : Line) : State :=
  (List.range 16).foldl (fun s n =>
    let th := getThread s (16 * c + n)
    match tabFind th.got l with
    | some d => setThread s (16 * c + n) { th with got := tabPut th.got l (lineMask d mask data) }
    | none => s) s

/-- A store hits its core's L1 line: the line takes the data, its age becomes 0 and its prefetch flag is
cleared (R286, R291). -/
def patchL1 (s : State) (c l : Nat) (mask data : Line) : State :=
  let s := patchGot s c l mask data
  let k := getCore s c
  match tabFind k.l1d l with
  | some e => setCore s c { k with
      l1d := tabPut k.l1d l { e with data := lineMask e.data mask data, age := 0, pf := false } }
  | none => s

/-- An access to a line would be refused: its set is lost and L2 does not hold it (R308). -/
def refused (s : State) (l : Nat) : Bool := setLost s l && (tabFind s.l2 l).isNone

/-- Perform a write of the bits of a mask to a line (R287, R288, R464): a whole-line write reads
nothing. `skip` is the core whose copy is not invalidated, `wid` the number of a store. The cause code
tells of a line that could not be written. -/
def homeMask (s : State) (wid : Option Nat) (whos : List Nat) (skip : Option Nat) (l : Nat)
    (mask data : Line) (cls age : Nat) : State × Option (BitVec 8) :=
  if mask = BitVec.allOnes 1024 then
    if refused s l then (s, some 0x43) else
    let sh := sharersOf s l
    let s := match tabFind s.l2 l with
      | some ln => homeStore { s with l2 := tabPut s.l2 l { ln with age := 0 } } l data
      | none => match allocLine s l cls age data true with
        | some s' => s'
        | none => writeMemLine s l data 0
    (notePerformed s wid whos l skip sh, none)
  else
    let r := homeFetch s l cls age
    match r.2.2 with
    | some c => (r.1, some c)
    | none =>
      let sh := sharersOf r.1 l
      let s := homeStore r.1 l (lineMask r.2.1 mask data)
      (notePerformed s wid whos l skip sh, none)

/-- What an atomic leaves in memory (R71); values of `size` bytes. -/
def amoResult (op : AmoOp) (size old b d : Nat) : Nat :=
  let w := 8 * size
  match op with
  | .add => (old + b) % 2 ^ w
  | .swap => b
  | .cas => if old = d % 2 ^ w then b else old
  | .min => if sext w old ≤ sext w b then old else b
  | .max => if sext w old < sext w b then b else old
  | .minu => Nat.min old b
  | .maxu => Nat.max old b

/-! ### The stores of a core that have not been performed -/

/-- Perform a store of a core at its home bank (R287). -/
def performStore (s : State) (r : Req) : State :=
  match r.kind with
  | .store off size v =>
    let s := settle s (queueOf r.thr) r.line
    let x := homeMask s (some r.wid) [queueOf r.thr] (some r.core) r.line (byteMask off size)
      (byteData off size v.toNat) r.cls r.l2age
    let s := patchFills x.1 r.core r.line (byteMask off size) (byteData off size v.toNat)
    match x.2 with
    | some _ => ueConsumed s (unitOf (r.core / 34) (r.core % 34)) (wd (128 * r.line))
    | none => s
  | _ => s

/-- A request is a store of core `c` to line `l`. -/
def isStoreOf (c l : Nat) (r : Req) : Bool :=
  match r.kind with
  | .store _ _ _ => decide (r.core = c ∧ r.line = l)
  | _ => false

/-- Requests of an arbiter, granted ones first. -/
def arbItems (a : Arb Req) : List Req := a.granted ++ a.waiting.map (·.item)

/-- An arbiter without the requests a test picks. -/
def arbDrop {α : Type} (a : Arb α) (p : α → Bool) : Arb α :=
  { a with waiting := a.waiting.filter (fun w => !p w.item)
           granted := a.granted.filter (fun r => !p r) }

/-- The memory channel of a line: 64q + channel for HBM4, 256 + 4q + channel for DDR5. Which
channel serves a line is not stated: consecutive lines of a bank rotate (DESIGN CHOICE, log
entry 12). -/
def lineChannel (l : Nat) : Nat :=
  let q := homeQuad (128 * l)
  if inHbm (128 * l) then 64 * q + l / 32 % 64 else 256 + 4 * q + l / 32 % 4

/-! ### Counters and requesters of the arbiters (R319, R320) -/

/-- A saturating 32-bit sum. -/
def sat32 (a : BitVec 32) (n : Nat) : BitVec 32 := BitVec.ofNat 32 (satAdd (2 ^ 32 - 1) a.toNat n)

def ArbCount.zero : ArbCount := { grants := 0, waits := 0, longest := 0 }

/-- Count units granted to requester `req` of arbiter number `n`, and the wait of the request. -/
def countAt (s : State) (n req units wait : Nat) : State :=
  let k := 64 * n + req
  let c := tabGet (fun _ => ArbCount.zero) s.arbCounts k
  let c : ArbCount :=
    { grants := sat32 c.grants units, waits := sat32 c.waits wait
      longest := if c.longest.toNat < wait then sat32 0 wait else c.longest }
  { s with arbCounts := tabSet (fun _ => ArbCount.zero) s.arbCounts k c }

/-- The pointer and the run of an arbiter after a grant to `req`. -/
def arbPoint {α : Type} (a : Arb α) (req : Nat) : Arb α :=
  { a with last := req, run := if req = a.last ∧ 0 < a.run then a.run + 1 else 1 }

/-- Requester index of quadrant p at a bank of another quadrant q. -/
def quadIndex (q p : Nat) : Nat := 34 + (if p < q then p else p - 1)

/-- Requester index of a core at a bank of quadrant q. -/
def reqIndex (q ci : Nat) : Nat := if ci / 34 = q then ci % 34 else quadIndex q (ci / 34)

/-- Requester index of an agent at a bank of quadrant q: a core, an engine or a pot, of this quadrant or
another, the context manager and the dealer, or any other (R319). -/
def agentIndex (q : Nat) (a : Agent) : Nat :=
  match a.core with
  | some c => reqIndex q c
  | none =>
    if 2080 ≤ a.who ∧ a.who < 2336 then
      let e := (a.who - 2080) / 16
      if e / 4 = q then 37 + e % 4 else quadIndex q (e / 4)
    else if a.cls = 4 then 41
    else if 16384 ≤ a.who then
      let p := (a.who - 16384) / 16384
      if p = q then 42 else quadIndex q p
    else 43

/-- Number of a memory channel among the arbiters. -/
def channelNumber (ch : Nat) : Nat := 128 + ch

/-! ### Any arbiter (R315 to R317) -/

/-- The first waiting trumped request, in the order in which they became trumped; requesters that became
trumped in one period of the board reference tie and rank by index (R317). -/
def firstTrumped {α : Type} (ws : List (ArbWait α)) : Option (ArbWait α) :=
  ws.foldl (fun best w =>
    match best, w.trump with
    | none, some _ => some w
    | some b, some n =>
      match b.trump with
      | some m => if n < m ∨ (n = m ∧ w.req < b.req) then some w else best
      | none => some w
    | best, none => best) none

/-- The first waiting request found by searching upward from the pointer plus 1 (R315). -/
def nextInTurn {α : Type} (p last : Nat) (ws : List (ArbWait α)) : Option (ArbWait α) :=
  (List.range p).findSome? (fun k => ws.find? (fun w => decide (w.req = (last + 1 + k) % p)))

/-- The choice at a break point (R316): `ws` are the requests that can be served, `p` the requester
count and `hold` the most units the holder may have in a row. A run of 0 says that no requester holds
the grant. -/
def arbChoose {α : Type} (p hold : Nat) (a : Arb α) (ws : List (ArbWait α)) : Option (ArbWait α) :=
  match firstTrumped ws with
  | some w => some w
  | none =>
    match (if 0 < a.run ∧ a.run < hold then ws.find? (fun w => decide (w.req = a.last)) else none) with
    | some w => some w
    | none => nextInTurn p a.last ws

/-- Grant a request: it leaves the waiting list; `keep` says that it is kept as granted. -/
def arbTake {α : Type} [DecidableEq α] (a : Arb α) (w : ArbWait α) (keep : Bool) : Arb α :=
  let a := arbPoint a w.req
  { a with
    waiting := match takeFirst (fun x => decide (x = w)) a.waiting with
      | some r => r.2
      | none => a.waiting
    granted := if keep then a.granted ++ [w.item] else a.granted }

/-- The requests that a test picks leave arbiter number `n` as granted, each counted with its wait. -/
def takeAll (s : State) (n : Nat) (a : Arb Req) (p : Req → Bool) : State × Arb Req :=
  (a.waiting.filter (fun w => p w.item)).foldl (fun (x : State × Arb Req) w =>
    (countAt x.1 n w.req 1 w.wait, arbPoint x.2 w.req)) (s, arbDrop a p)

/-! ### What a thread has seen (R371) -/

/-- Stores of other threads of a core to a line that have not been performed. -/
def siblingStores (s : State) (c t l : Nat) : List Nat :=
  ((arbItems (getChannel s (lineChannel l)) ++ arbItems (getBank s (lineBank l))).filter
    (fun r => isStoreOf c l r && decide (r.thr ≠ t))).map (·.wid)

/-- Outstanding writes whose value a read of a line by thread t returns: those performed at home, and
stores of its own core, which its L1 shows before. -/
def seenBy (s : State) (t l : Nat) : List Nat :=
  (s.writes.filter (fun w => decide (w.line = l ∧ queueOf t ∉ w.agents))).map (·.id) ++
    siblingStores s (t / 16) t l

/-- Add writes to those that a thread has seen. -/
def addSeen (s : State) (t : Nat) (ids : List Nat) : State :=
  if ids.isEmpty then s else
    let th := getThread s t
    setThread s t { th with seen := ids.foldl (fun a n => insertNat n a) th.seen }

/-- A thread has read a line: it has seen the outstanding writes that the line shows, kept for f.dev. -/
def noteSeen (s : State) (t : Nat) (l : Nat) : State := addSeen s t (seenBy s t l)

/-! ### Serving a request (R287 to R289, R295) -/

/-- A request number that names no thread. -/
def noThread : Nat := 65536

/-- Put a message on a core's path. -/
def sendMsg (s : State) (c : Nat) (m : CoreMsg) : State :=
  let k := getCore s c
  setCore s c { k with msgs := k.msgs ++ [m] }

/-- Add a core to the presence vector of a line. -/
def addSharer (s : State) (l c : Nat) : State :=
  match tabFind s.l2 l with
  | some ln => { s with l2 := tabPut s.l2 l { ln with sharers := insertNat c ln.sharers } }
  | none => s

/-- The line of a request. -/
def lineFor (s : State) (r : Req) : State × Line × Option (BitVec 8) :=
  homeFetch (settle s (queueOf r.thr) r.line) r.line r.cls r.l2age

/-- A line for a core's L1, or for L2 only. -/
def serveRead (s : State) (r : Req) (pf l2only : Bool) : State :=
  let x := lineFor s r
  match x.2.2 with
  | some c => sendMsg x.1 r.core (.error noThread c r.line 0)
  | none =>
    let here := (tabFind x.1.l2 r.line).isSome && !l2only
    let s := if here then addSharer x.1 r.line r.core else x.1
    sendMsg s r.core (.fill r.line x.2.1 r.age pf here)

/-- A line for a core's L1 instruction cache, which observes no store and is in no presence vector
(R70). -/
def serveFetch (s : State) (r : Req) : State :=
  let x := lineFor s r
  sendMsg x.1 r.core (match x.2.2 with
    | some c => .ierror r.line c
    | none => .ifill r.line x.2.1 (tabFind x.1.l2 r.line).isSome)

/-- An atomic (R71, R287): the writing core's own L1 is invalidated too. -/
def serveAmo (s : State) (r : Req) (op : AmoOp) (off size : Nat) (b old : Word) (d : BitVec 5)
    (va : Word) : State :=
  let x := lineFor s r
  match x.2.2 with
  | some c => sendMsg x.1 r.core (.error r.thr c r.line va)
  | none =>
    let saw := seenBy x.1 r.thr r.line
    let was := lineGet x.2.1 off size
    let now := amoResult op size was (b.toNat % 2 ^ (8 * size)) old.toNat
    let sh := sharersOf x.1 r.line
    let s := homeStore x.1 r.line (linePut x.2.1 off size now)
    let s := notePerformed s none [queueOf r.thr] r.line none sh
    sendMsg s r.core (.value r.thr r.line d (wdInt (sext (8 * size) was)) saw)

/-- Serve a request whose line is in L2, or has come from memory. -/
def serveReq (s : State) (r : Req) : State :=
  match r.kind with
  | .load => serveRead s r false false
  | .prefetch l2only => serveRead s r true l2only
  | .store _ _ _ => performStore s r
  | .amo op off size b old d va => serveAmo s r op off size b old d va
  | .ifetch => serveFetch s r

/-- Serve, oldest first, the requests that a test picks and that have passed a bank to their channel. -/
def drainChannel (s : State) (ch : Nat) (p : Req → Bool) : State :=
  let mine := (arbItems (getChannel s ch)).filter p
  if mine.isEmpty then s else
    let x := takeAll s (channelNumber ch) (getChannel s ch) p
    mine.foldl serveReq (setChannel x.1 ch x.2)

/-- Serve, oldest first, the requests that a test picks and that are at a bank. -/
def drainBank (s : State) (b : Nat) (p : Req → Bool) : State :=
  let mine := (arbItems (getBank s b)).filter p
  if mine.isEmpty then s else
    let x := takeAll s b (getBank s b) p
    mine.foldl serveReq (setBank x.1 b x.2)

/-- Perform the stores of a core to a line that have not been performed, oldest first, so that the core
sees its own writes in program order (R369). -/
def drainCore (s : State) (c l : Nat) : State :=
  drainBank (drainChannel s (lineChannel l) (isStoreOf c l)) (lineBank l) (isStoreOf c l)

/-- Drain for the core of an agent, if it has one. -/
def drainFor (s : State) (a : Agent) (l : Nat) : State :=
  match a.core with
  | some c => drainCore s c l
  | none => s

/-! ### Errors at a bank (R305, R307, R308) -/

/-- Every L1 of the device invalidates its lines of a set of a bank. -/
def dropSet (s : State) (l : Nat) : State :=
  let hit (k : Nat) : Bool := decide (k % 32768 = l % 32768 ∧ lineBank k = lineBank l)
  { s with cores := s.cores.map (fun e => (e.1, { e.2 with
      l1d := e.2.l1d.filter (fun x => !hit x.1)
      l1i := e.2.l1i.filter (fun x => !hit x.1)
      msgs := e.2.msgs.map (fun m => match m with
        | .fill k d a p kp => .fill k d a p (kp && !hit k)
        | .ifill k d kp => .ifill k d (kp && !hit k)
        | m => m) }))
           threads := s.threads.map (fun e => (e.1, { e.2 with
             got := e.2.got.filter (fun x => !hit x.1) })) }

/-- The tag of a line of the set of line `l` fails, or of a way that holds none: the set is dropped from
every L1; a clean line whose state is good is invalidated and the access goes on; else the set is marked
lost. -/
def tagError (s : State) (l way : Nat) (victim : Option Nat) (stateBad : Bool) : State :=
  let unit := unitOf (homeQuad (128 * l)) (l % 32)
  let dirty := match victim.bind (tabFind s.l2) with
    | some ln => ln.dirty
    | none => false
  let s := dropSet s l
  let s := match victim with
    | some v => { s with l2 := tabDel s.l2 v }
    | none => s
  if stateBad || dirty then
    let k := lineBank l * 1024 + lineSet l
    report { s with lost := if k ∈ s.lost then s.lost else s.lost ++ [k] } 0x0005 unit
      (wd (lineSet l)) (inWay (lineBank l) way)
  else report s 0x0002 unit (wd (24 * lineSet l + way)) (inWay (lineBank l) way)

/-- The line that a way holds in the set of line `l`. -/
def lineInWay (s : State) (l w : Nat) : Option Nat :=
  ((sameSet s l).find? (fun e => decide (e.2.way = w))).map Prod.fst

/-- The way that holds a line, 0 where L2 does not hold it. -/
def wayOf (s : State) (l : Nat) : Nat :=
  match tabFind s.l2 l with
  | some ln => ln.way
  | none => 0

/-- A data word of a line in L2 fails: the line is unreadable, and its consumer is told; a clean
line is then invalidated (R305, R464). -/
def dataError (s : State) (l : Nat) (bad : BitVec 16) : State :=
  match tabFind s.l2 l with
  | some ln => { s with l2 := tabPut s.l2 l { ln with bad := ln.bad ||| bad } }
  | none => s

/-- Apply the error that an access meets. -/
def bankError (s : State) (l : Nat) (err : L2Err) : State :=
  match err with
  | .none => s
  | .tagClean => tagError s l (wayOf s l) (some l) false
  | .tagState => tagError s l (wayOf s l) (some l) true
  | .tagWay w st => tagError s l w.toNat (lineInWay s l w.toNat) st
  | .data bad => dataError s l bad

/-- Serve the request at the front of a bank, after the older stores of its core to the line that have
passed to its channel (R369), or send it on to its memory channel. A lost set is answered at once (R308). -/
def bankServe (s : State) (r : Req) (err : L2Err) : State :=
  let s := bankError (settle s (queueOf r.thr) r.line) r.line err
  if (tabFind s.l2 r.line).isSome || setLost s r.line
  then serveReq (drainChannel s (lineChannel r.line) (isStoreOf r.core r.line)) r
  else setChannel s (lineChannel r.line)
    (arbEnqueue (getChannel s (lineChannel r.line)) (lineBank r.line % 32) r)

/-! ### Passing an arbiter (R300, R313 to R320) -/

/-- A bank is in blocking mode (R301). -/
def bankBlocks (s : State) (bk : Nat) : Bool :=
  !isReady s || bankTested s bk || recovering s (bk / 32)

/-- The fills that a bank waits for are completed. -/
def blockBank (s : State) (b : Nat) : State :=
  s.channels.foldl (fun s e => drainChannel s e.1 (fun r => decide (lineBank r.line = b))) s

/-- The waiting request that an arbiter of `p` requesters grants before one of requester `req` that arrives
too and has waited `wait` cycles, if there is one. -/
def grantBefore (p hold : Nat) (a : Arb Req) (req wait : Nat) : Option (ArbWait Req) :=
  let others : List (ArbWait (Option Req)) := a.waiting.map (fun w =>
    { req := w.req, wait := w.wait, trump := w.trump, item := some w.item })
  let holder : Arb (Option Req) := { waiting := [], granted := [], last := a.last, run := a.run }
  match arbChoose p hold holder (others ++ [{ req := req, wait := wait, trump := none, item := none }]) with
  | some w => w.item.map (fun r => { req := w.req, wait := w.wait, trump := w.trump, item := r })
  | none => none

/-- The turns of a bank's arbiter up to the grant of an access that has arrived: the requests that it grants
before are served, one L2 cycle each. In blocking mode each is completed with its fill first (R300). -/
def bankTurns (b req : Nat) : Nat → Nat → State → State
  | 0, n, s => countAt (setBank s b (arbPoint (getBank s b) req)) b req 1 n
  | fuel + 1, n, s =>
    match grantBefore 44 4 (getBank s b) req n with
    | some w =>
      let s := bankServe (setBank (countAt s b w.req 1 w.wait) b (arbTake (getBank s b) w false)) w.item .none
      bankTurns b req fuel (n + 1) (if bankBlocks s b then blockBank s b else s)
    | none => countAt (setBank s b (arbPoint (getBank s b) req)) b req 1 n

/-- An access passes its bank's arbiter (R284, R314): what has been granted before is served, then the
requests that the arbiter grants before it. It meets the error that is due at the bank, if one is (R307). -/
def passBank (s : State) (a : Agent) (l : Nat) : State :=
  let b := lineBank l
  let k := getBank s b
  let s := k.granted.foldl (fun s r => bankServe s r .none) (setBank s b { k with granted := [] })
  let s := if bankBlocks s b then blockBank s b else s
  let s := bankTurns b (agentIndex (b / 32) a) (getBank s b).waiting.length 0 s
  bankError { s with bankErr := tabDel s.bankErr b } l (tabGet (fun _ => L2Err.none) s.bankErr b)

/-- Memory cycles of one unit of a channel (R319). -/
def channelUnit (ch : Nat) : Nat := if ch < 256 then 2 else 4

/-- The turns of a channel's arbiter up to the grant of an access of requester `req` that has arrived.
Whether the holder asks for the same DRAM row again is free (log entry 32). -/
def channelTurns (ch req : Nat) : Nat → Nat → State → State
  | 0, n, s => countAt (setChannel s ch (arbPoint (getChannel s ch) req)) (channelNumber ch) req 1 n
  | fuel + 1, n, s =>
    let f := drawFree s
    match grantBefore 33 (if bit f.1 0 then 16 else 0) (getChannel f.2 ch) req n with
    | some w =>
      channelTurns ch req fuel (n + channelUnit ch)
        (serveReq (setChannel (countAt f.2 (channelNumber ch) w.req 1 w.wait) ch
          (arbTake (getChannel f.2 ch) w false)) w.item)
    | none => countAt (setChannel f.2 ch (arbPoint (getChannel f.2 ch) req)) (channelNumber ch) req 1 n

/-- An access of requester `req` passes the arbiter of a memory channel. -/
def passChannel (s : State) (ch req : Nat) : State :=
  let k := getChannel s ch
  let s := k.granted.foldl serveReq (setChannel s ch { k with granted := [] })
  channelTurns ch req (getChannel s ch).waiting.length 0 s

/-- An access whose line L2 does not hold passes the line's memory channel too, where it is not refused. -/
def passFill (s : State) (l : Nat) : State :=
  if (tabFind s.l2 l).isSome || setLost s l then s
  else passChannel s (lineChannel l) (lineBank l % 32)

/-! ### Accesses at home -/

/-- The stores and accumulating writes that come before an agent's access to a line have been
performed. -/
def settleFor (s : State) (a : Agent) (l : Nat) : State := settle (drainFor s a l) a.who l

/-- Read a line for an agent whose request has been granted. -/
def homeLine (s : State) (a : Agent) (l : Nat) : State × Line × Option (BitVec 8) :=
  homeFetch (settleFor s a l) l a.cls a.age

/-- Read a line at home for an agent. -/
def homeRead (s : State) (a : Agent) (l : Nat) : State × Line × Option (BitVec 8) :=
  homeLine (passFill (passBank s a l) l) a l

/-- Unit of a report that names an agent. -/
def agentUnit (a : Agent) : Nat :=
  match a.core with
  | some c => unitOf (c / 34) (c % 34)
  | none => unitOf 0 a.who

/-- Cause and FAULTINFO of an access that met an unreadable line: the line address for a lost set,
else the virtual address. The consumer is reported to the safety controller (R463). -/
def memError (s : State) (a : Agent) (l : Nat) (va : Word) (code : BitVec 8) :
    State × BitVec 8 × Word :=
  let part := if code = 0x41 then inWay (s.safety.suspect / 32) (s.safety.suspect % 32)
    else if code = 0x43 then inNone else 0
  (ueIn s (agentUnit a) (wd (128 * l)) part, code, if code = 0x43 then wd (128 * l) else va)

/-- Cause and FAULTINFO of an access that met an uncorrectable word in its L1 (R305). -/
def l1Error (s : State) (a : Agent) (l : Nat) (va : Word) : State × BitVec 8 × Word :=
  (ueIn s (agentUnit a) (wd (128 * l)) inCore, 0x41, va)

/-- Read bytes that lie in one line, at home. -/
def readPa (s : State) (a : Agent) (pa size : Nat) : State × Nat × Option (BitVec 8) :=
  let r := homeRead s a (pa / 128)
  (r.1, lineGet r.2.1 (pa % 128) size, r.2.2)

/-- The core whose L1 an agent's writes keep in step: the stores of a thread, not the writes of a drain
port, which bypasses L1 (R287, R299). -/
def storeCore (a : Agent) : Option Nat := if a.cls = 2 then none else a.core

/-- Write the bits of a mask to a line at home for an agent whose request has been granted. The copy of the
storing core follows. -/
def writeLine (s : State) (a : Agent) (l : Nat) (mask data : Line) : State × Option (BitVec 8) :=
  let r := homeMask s none [a.who] (storeCore a) l mask data a.cls a.age
  match r.2, storeCore a with
  | none, some c => (patchL1 (patchFills r.1 c l mask data) c l mask data, none)
  | _, _ => r

/-- A write passes the arbiters; a whole-line write reads nothing from memory (R288). What comes before it
has been performed. -/
def passWrite (s : State) (a : Agent) (l : Nat) (mask : Line) : State :=
  let s := passBank s a l
  settleFor (if mask = BitVec.allOnes 1024 then s else passFill s l) a l

/-- Write the bits of a mask to a line at home for an agent. -/
def writeMask (s : State) (a : Agent) (l : Nat) (mask data : Line) : State × Option (BitVec 8) :=
  writeLine (passWrite s a l mask) a l mask data

/-- Write bytes that lie in one line, at home. -/
def writePa (s : State) (a : Agent) (pa size v : Nat) : State × Option (BitVec 8) :=
  writeMask s a (pa / 128) (byteMask (pa % 128) size) (byteData (pa % 128) size v)

/-- Write bytes for a unit; a partial write of an unreadable line is not performed and is logged, naming
the writer (R464). -/
def putPa (s : State) (a : Agent) (pa size v : Nat) : State :=
  match writePa s a pa size v with
  | (s, none) => s
  | (s, some _) => ueConsumed s (agentUnit a) (wd (128 * (pa / 128)))

/-- Put a line update before the window of its bank (R278). -/
def sendUpdate (s : State) (u : AccUpd) : State :=
  let b := lineBank u.line
  let w := getWindow s b
  setWindow s b { w with arriving := w.arriving ++ [u] }

end Sys2Proof.Machine
end

