-- ==== Sys2Proof/Machine/Arbiter.lean ====
section
/-! DEFINITION. The arbiters of L2 banks, memory channels, pots and port egresses (R313 to R320,
R434), and the flits that a granted packet puts into a group (R395, R398, R400). -/

namespace Sys2Proof.Machine

open Sys2Proof

/-! ### Waits -/

/-- A requester's oldest request becomes trumped when it has waited more than `limit` cycles; `now` is the
period of the board reference. -/
def arbTrump {α : Type} (now limit req : Nat) (a : Arb α) : Arb α :=
  let rec go : List (ArbWait α) → List (ArbWait α)
    | [] => []
    | w :: t =>
      if w.req = req then
        (if w.trump.isNone && decide (limit < w.wait) then { w with trump := some now } else w) :: t
      else w :: go t
  { a with waiting := go a.waiting }

/-- `n` cycles pass: every waiting request has waited them, and a holder that has no next request has
let the grant go at its break point (R316). -/
def arbAge {α : Type} (n : Nat) (a : Arb α) : Arb α :=
  { a with
    waiting := a.waiting.map (fun w => { w with wait := w.wait + n })
    run := if a.waiting.any (fun w => decide (w.req = a.last)) then a.run else 0 }

/-! ### Numbers of arbiters, thresholds and counters (R319, R320) -/

/-- Number of an arbiter in the counters' table. -/
def arbNumber : ArbRef → Nat
  | .bank q b => 32 * q.toNat + b.toNat
  | .hbm q ch => 128 + 64 * q.toNat + ch.toNat
  | .ddr q ch => 384 + 4 * q.toNat + ch.toNat
  | .pot q => 400 + q.toNat
  | .port p => 404 + p.toNat

/-- Number of a channel in the table of channels. -/
def chNumber : ArbRef → Nat
  | .hbm q ch => 64 * q.toNat + ch.toNat
  | .ddr q ch => 256 + 4 * q.toNat + ch.toNat
  | _ => 0

/-- T of an arbiter; values below 16 act as 16. -/
def arbLimit (s : State) (a : ArbRef) : Nat :=
  max 16 (match a with
    | .bank q _ => rfield s (l2Off q.toNat 0x200) 0 16
    | .hbm q _ => rfield s (l2Off q.toNat 0x200) 16 16
    | .ddr q _ => rfield s (l2Off q.toNat 0x200) 32 16
    | .pot q => rfield s (linkOff q.toNat 0x400) 16 16
    | .port p => rfield s (linkOff (p.toNat / 4) 0x400) 0 16)

/-- Requesters of an arbiter. -/
def arbCount : ArbRef → Nat
  | .bank _ _ => 44
  | .hbm _ _ => 33
  | .ddr _ _ => 33
  | .pot _ => 9
  | .port _ => 22

/-- Count units granted and the wait of the request. -/
def countGrant (s : State) (a : ArbRef) (req units wait : Nat) : State :=
  countAt s (arbNumber a) req units wait

/-- The requests of an arbiter whose requester is not blocked at this break point (R318). -/
def unblocked {α : Type} (blocked : BitVec 44) (ws : List (ArbWait α)) : List (ArbWait α) :=
  ws.filter (fun w => !blocked.getLsbD w.req)

/-! ### Port egress -/

/-- LINK_STATUS.STATE of a port. -/
def portState (s : State) (p : Nat) : Nat := rfield s (portOff p 8) 0 4

/-- A port in UP. -/
def portUp (s : State) (p : Nat) : Bool := decide (portState s p = 6)

/-- A flit of a requester can be sent: the port is UP, holds credit for it, holds no more than 16 groups, and
no other requester's packet is partly sent on its channel (R398, R400). -/
def canSend (s : State) (p req : Nat) (e : TxFlit) : Bool :=
  let t := getPort s p
  portUp s p && decide ((tabFind t.txOn e.vc.toNat).getD req = req ∧
    newFlits t e ≤ tabGet (fun _ => 0) t.credits e.vc.toNat ∧ t.txHeld.length + newGroups t e ≤ 16)

/-- Requests of a port that can be served, in order within each requester and channel (R318,
R400). -/
def sendable (s : State) (p : Nat) (ws : List (ArbWait TxFlit)) : List (ArbWait TxFlit) :=
  (ws.foldl (fun (acc : List (Nat × BitVec 3) × List (ArbWait TxFlit)) w =>
    let k := (w.req, w.item.vc)
    if k ∈ acc.1 then acc
    else (k :: acc.1, if canSend s p w.req w.item then acc.2 ++ [w] else acc.2)) ([], [])).2

/-- Put a granted flit into the groups of a port and take its credit. The group is closed as soon as
nothing more can be sent (R395). -/
def sendFlit (s : State) (p req : Nat) (e : TxFlit) : State :=
  let t := getPort s p
  let c := e.vc.toNat
  let left := tabGet (fun _ => 0) t.credits c - newFlits t e
  let t := { pushTx t e with
    credits := tabSet (fun _ => 0) t.credits c left
    txOn := if e.part + 1 < packetFlits e.pkt then tabPut t.txOn c req else tabDel t.txOn c }
  let s := setPort s p t
  if (sendable s p t.egress.waiting).isEmpty then setPort s p (closeGroup t) else s

/-- Grant one flit at a port egress (R434). -/
def grantPort (s : State) (a : ArbRef) (blocked : BitVec 44) (p : Nat) : State :=
  let t := getPort s p
  match arbChoose 22 16 t.egress (sendable s p (unblocked blocked t.egress.waiting)) with
  | none => s
  | some w =>
    let s := countGrant s a w.req 1 w.wait
    sendFlit (setPort s p { t with egress := arbTake t.egress w false }) p w.req w.item

/-! ### The commands -/

/-- A bank in blocking mode grants one access at a time, and completes it with any fill first. -/
def bankBusy (s : State) (bk : Nat) : Bool :=
  bankBlocks s bk && (!(getBank s bk).granted.isEmpty ||
    s.channels.any (fun c => (arbItems c.2).any (fun r => decide (lineBank r.line = bk))))

/-- The island of an arbiter (AGE_SEL). -/
def arbIsland (a : ArbRef) : Nat :=
  match a with
  | .bank q _ => 64 * q.toNat + 37
  | .pot q => 64 * q.toNat + 36
  | .port p => 64 * (p.toNat / 4) + 44 + p.toNat % 4
  | _ =>
    let ch := chNumber a
    if ch < 256 then 64 * (ch / 64) + 38 + ch % 64 / 32 else 64 * ((ch - 256) / 4) + 40 + ch % 4

/-- A commit holds the arbiter at its break point (R515): a memory channel or a bank. -/
def arbHeld (s : State) : ArbRef → Bool
  | .bank q _ => frontStages s (isArbReg q.toNat)
  | .hbm q _ => frontStages s (isArbReg q.toNat)
  | .ddr q _ => frontStages s (isArbReg q.toNat)
  | _ => false

/-- ARB_GRANT (R314 to R318). `a.blocked` are the requesters whose requests the resource cannot serve at
this break point, by a full fill buffer or the line spacing of R280, which are passed over; a port also
passes over what it holds no credits for. Whether a channel's holder asks for the same DRAM row again is
free (log entry 32). -/
def execArbGrant (a : ArbTurn) (s : State) : Host.Outcome State Fault Refusal :=
  .next (if !islandRuns s (arbIsland a.arb) || arbHeld s a.arb then s else
    match a.arb with
    | .bank q b =>
      let bk := 32 * q.toNat + b.toNat
      let r := getBank s bk
      if bankBusy s bk then s else
      match arbChoose 44 4 r (unblocked a.blocked r.waiting) with
      | none => s
      | some w => setBank (countGrant s a.arb w.req 1 w.wait) bk (arbTake r w true)
    | .pot q =>
      let r := getPot s q.toNat
      if unitTested s q.toNat 0 then s else
      match arbChoose 9 1 r (unblocked a.blocked r.waiting) with
      | none => s
      | some w => setPot (countGrant s a.arb w.req 1 w.wait) q.toNat (arbTake r w true)
    | .port p => grantPort s a.arb a.blocked p.toNat
    | _ =>
      let ch := chNumber a.arb
      let r := getChannel s ch
      let f := drawFree s
      if ch ∈ s.safety.retrain then s else
      match arbChoose 33 (if bit f.1 0 then 16 else 0) r (unblocked a.blocked r.waiting) with
      | none => s
      | some w => setChannel (countGrant f.2 a.arb w.req 1 w.wait) ch (arbTake r w true))

/-- TRUMP (R317). -/
def execTrump (a : ArbRef) (req : BitVec 6) (s : State) : Host.Outcome State Fault Refusal :=
  let n := arbLimit s a
  .next (match a with
    | .bank q b =>
      let bk := 32 * q.toNat + b.toNat
      setBank s bk (arbTrump s.ticks n req.toNat (getBank s bk))
    | .pot q => setPot s q.toNat (arbTrump s.ticks n req.toNat (getPot s q.toNat))
    | .port p =>
      let t := getPort s p.toNat
      setPort s p.toNat { t with egress := arbTrump s.ticks n req.toNat t.egress }
    | _ => setChannel s (chNumber a) (arbTrump s.ticks n req.toNat (getChannel s (chNumber a))))

end Sys2Proof.Machine
end

