-- ==== Sys2Proof/Machine/Sender.lean ====
section
/-! DEFINITION. Who may write a register by a command of its own row (R27, R495, R509, R538). -/

namespace Sys2Proof.Machine

open Sys2Proof

/-- Life-cycle state in force: the DIAGNOSTIC latch, or the fused state (R522). -/
def lcState (s : State) : Nat := if s.kept.diag then 3 else s.kept.lc.toNat

/-- Ring of a sender: the host and the debug port write as ring 0; the board target has no rights
over the device register space. -/
def senderRing (s : State) : Sender → Nat
  | .host => 0
  | .debug => 0
  | .board => 4
  | .thread t => (getThread s (thrIx t)).ring.toNat

/-- Agent number of the host's writes through BAR2. -/
def hostAgent : Nat := 4097

/-- The operation is a write of SYNC_HOST_OP by the host. -/
def isHostOp (op : SyncOp) : Bool :=
  match op.src with
  | .host => true
  | _ => false

/-- A host access waits until every earlier host write has been performed (R532): until then its
command changes nothing. -/
def hostClear (s : State) (src : Sender) : Bool :=
  decide (src ≠ .host) || (s.writes.all (fun w => decide (hostAgent ∉ w.agents)) &&
    s.syncQ.all (fun e => e.2.all (fun op => !isHostOp op)))

/-- The device answers, the sender's ring is no higher than the block allows, and no earlier write of
the host is outstanding. -/
def mayWrite (s : State) (src : Sender) (maxRing : Nat) : Bool :=
  isReady s && decide (senderRing s src ≤ maxRing) && hostClear s src

end Sys2Proof.Machine
end

