-- ==== Sys2Proof/Machine/ArrayMath.lean ====
section
/-! DEFINITION. The arithmetic of a pass (R140 to R143, R209 to R212, R232 to R236): modes, plane
elements, the terms of a row and their combination, the accumulator, and the checksum. -/

namespace Sys2Proof.Machine

open Sys2Proof

/-! ### Modes (R209) -/

/-- Row of the table of array modes that a format belongs to; 6 for none. -/
def modeOf (fmt : Nat) : Nat :=
  match fmt with
  | 8 | 9 => 0
  | 0 | 1 => 1
  | 10 => 2
  | 2 => 3
  | 6 => 4
  | 5 => 5
  | _ => 6

/-- K and N of a mode. -/
def modeK (m : Nat) : Nat := if m < 2 then 256 else if m < 4 then 128 else 512
def modeN (m : Nat) : Nat := if m = 2 ∨ m = 3 then 128 else 256
def modeFloat (m : Nat) : Bool := decide (m % 2 = 0)
def mode4 (m : Nat) : Bool := decide (m = 4 ∨ m = 5)
def mode16 (m : Nat) : Bool := decide (m = 2 ∨ m = 3)

/-- Row length and output count on an axis (R212). -/
def axisLen (m : Nat) (ax : Bool) : Nat := if ax then modeN m else modeK m
def axisOut (m : Nat) (ax : Bool) : Nat := if ax then modeK m else modeN m

/-! ### Elements (R211) -/

/-- Code of plane element W[k][j]. -/
def planeCode (p : Plane) (k j : Nat) : Nat :=
  let w := fmtWidth p.fmt.toNat
  ((tabGet (fun _ => (0 : TileRow)) p.cols j).toNat >>> (w * k)) % 2 ^ w

/-- Value of plane element W[k][j]. -/
def planeVal (p : Plane) (k j : Nat) : Fp :=
  if p.fmt = 6 then
    g4Value (planeCode p k j)
      (((tabGet (fun _ => (0 : BitVec 128)) p.scales j).toNat >>> (8 * (k / 32))) % 256)
  else decodeFmt p.fmt.toNat (planeCode p k j)

/-- Code and value of element n of a streamed row. -/
def rowCode (fmt : Nat) (r : PassRow) (n : Nat) : Nat :=
  let w := fmtWidth fmt
  (r.bits.toNat >>> (w * n)) % 2 ^ w
def rowVal (fmt : Nat) (r : PassRow) (n : Nat) : Fp :=
  if fmt = 6 then g4Value (rowCode fmt r n) ((r.scales.toNat >>> (8 * (n / 32))) % 256)
  else decodeFmt fmt (rowCode fmt r n)

/-! ### Terms and rows (R140, R232 to R234) -/

/-- Magnitude of an exact value. -/
def fpAbs : Fp → Fp
  | .fin _ m e => .fin false m e
  | .inf _ => .inf false
  | x => x

/-- Exact difference of two values. -/
def fpDiff (x w : Fp) : Fp :=
  if x.isNan || w.isNan then .nan false 0
  else (fpAddExact 0 x (fpNeg w)).getD (.nan false 0)

/-- Exact product. -/
def fpProd (x w : Fp) : Fp :=
  if x.isNan || w.isNan then .nan false 0 else (fpMulExact x w).getD (.nan false 0)

/-- The exact term of multiply-add, L1 distance and squared difference. -/
def exactTerm (op : Nat) (x w : Fp) : Fp :=
  match op with
  | 3 => fpAbs (fpDiff x w)
  | 4 => fpProd (fpDiff x w) (fpDiff x w)
  | _ => fpProd x w

/-- The term of min-plus and max-plus in a float mode: an FP32 code. -/
def plusTerm (x w : Fp) : Nat :=
  if x.isNan || w.isNan then defaultNan 11
  else match fpAddExact 0 x w with
    | some z => (ieeeOf 11 0 z).1
    | none => defaultNan 11

/-- Exponent of the leading bit of the largest magnitude. -/
def topExp (xs : List Fp) : Option Int :=
  xs.foldl (fun a x =>
    match x with
    | .fin _ m e =>
      if m = 0 then a else
      let t : Int := e + bitLen m - 1
      (match a with
       | some b => some (max b t)
       | none => some t)
    | _ => a) none

/-- The sum of R140: each term truncated toward zero to a multiple of 2^(E − 48). A NaN term makes
the sum NaN (R142). A sum of exactly zero is +0 (log entry 145). -/
def rowSum (xs : List Fp) : Fp :=
  if xs.any Fp.isNan then .nan false 0 else
  match topExp xs with
  | none => .fin false 0 0
  | some t =>
    let q := t - 48
    let v : Int := xs.foldl (fun a x =>
      match x with
      | .fin n m e =>
        let k : Int := if q ≤ e then (m <<< (e - q).toNat : Nat) else (m >>> (q - e).toNat : Nat)
        if n then a - k else a + k
      | _ => a) 0
    .fin (decide (v < 0)) v.natAbs q

/-- The integer that an exact value of an integer format is. -/
def fpInt : Fp → Int
  | .fin n m _ => if n then -(m : Int) else m
  | _ => 0

def intFp (v : Int) : Fp := .fin (decide (v < 0)) v.natAbs 0

/-- maximumNumber or minimumNumber of FP32 codes, a NaN being the default one (R233). -/
def plusPick (wantMax : Bool) (a b : Nat) : Nat :=
  let c := (fpMinMax 11 wantMax a b).1
  if (decodeFmt 11 c).isNan then defaultNan 11 else c

/-- Combine the terms of one row for one output: pairs of codes and values of x and w. -/
def rowResult (float : Bool) (op : Nat) (ts : List ((Nat × Fp) × (Nat × Fp))) : Fp :=
  match op with
  | 5 => intFp (ts.foldl (fun a p => a + (popcount (p.1.1 ^^^ p.2.1) : Nat)) 0)
  | 6 => intFp (ts.foldl (fun a p => if p.1.1 = p.2.1 then a + 1 else a) 0)
  | 1 | 2 =>
    let wantMax := decide (op = 2)
    if float then
      let xs := ts.map (fun p => plusTerm p.1.2 p.2.2)
      decodeFmt 11 (xs.drop 1 |>.foldl (plusPick wantMax) (xs.headD (defaultNan 11)))
    else
      let xs := ts.map (fun p => fpInt p.1.2 + fpInt p.2.2)
      intFp (xs.drop 1 |>.foldl (fun a b => if wantMax then max a b else min a b) (xs.headD 0))
  | _ =>
    let xs := ts.map (fun p => exactTerm op p.1.2 p.2.2)
    if float then rowSum xs else intFp (xs.foldl (fun a x => a + fpInt x) 0)
where
  /-- One bits of a code of at most 16 bits. -/
  popcount (n : Nat) : Nat := ((List.range 16).filter (fun i => n.testBit i)).length

/-- The outputs of one streamed row (R212). -/
def rowOutputs (p : Plane) (fmt op : Nat) (ax : Bool) (r : PassRow) : List Fp :=
  let m := modeOf p.fmt.toNat
  let n := axisLen m ax
  let xs := (List.range n).map (fun i => (rowCode fmt r i, rowVal fmt r i))
  (List.range (axisOut m ax)).map (fun o =>
    rowResult (modeFloat m) op (xs.zip ((List.range n).map (fun i =>
      if ax then (planeCode p o i, planeVal p o i) else (planeCode p i o, planeVal p i o)))))

/-! ### The accumulator (R140, R142, R143, R225, R232, R233) -/

/-- An output is an I32: integer modes, XOR-popcount and equal-count. -/
def outIsInt (float : Bool) (op : Nat) : Bool := !float || decide (op = 5 ∨ op = 6)

/-- Combine an output with an accumulator element; with `clr` it replaces it. -/
def accumulate (float : Bool) (op : Nat) (clr : Bool) (old : Nat) (x : Fp) : Nat × FFlags :=
  if outIsInt float op then
    let v := fpInt x
    let o := sext 32 old
    let r := if clr then v else
      match op with
      | 1 => min o v
      | 2 => max o v
      | _ => o + v
    (intCode 32 r, 0)
  else if op = 1 ∨ op = 2 then
    let c := if x.isNan then defaultNan 11 else (ieeeOf 11 0 x).1
    (if clr then c else plusPick (decide (op = 2)) old c, 0)
  else if x.isNan then (defaultNan 11, 0)
  else
    let o := decodeFmt 11 (if clr then 0 else old)
    if o.isNan then nanResult 11 [o]
    else match fpAddExact 0 o x with
      | some z => ieeeOf 11 0 z
      | none => (defaultNan 11, fINV)

/-! ### The checksum (R235, R236) -/

/-- A value in units of 2^-u. -/
def fixed (u : Int) : Fp → Int
  | .fin n m e => atExp n m e (-u)
  | _ => 0

/-- The unit of a plane's sums: 2^-400 in float modes, 1 in integer modes. -/
def sumUnit (fmt : Nat) : Int := if modeFloat (modeOf fmt) then 400 else 0

/-- Rows and columns of a plane. -/
def planeSum (p : Plane) (ks js : List Nat) (mag : Bool) : Int :=
  let u := sumUnit p.fmt.toNat
  ks.foldl (fun a k => js.foldl (fun a j =>
    let v := fixed u (planeVal p k j)
    a + (if mag then (v.natAbs : Int) else v)) a) 0

/-- Compute the checksum cells of a plane. -/
def checkCells (p : Plane) : Plane :=
  let m := modeOf p.fmt.toNat
  let ks := List.range (modeK m)
  let js := List.range (modeN m)
  let tab (is : List Nat) (g : Nat → Int) : Tab Int :=
    is.foldl (fun t i => tabSet (fun _ => 0) t i (g i)) []
  { p with
    s := tab ks (fun k => planeSum p [k] js false)
    a := tab ks (fun k => planeSum p [k] js true)
    c := tab js (fun j => planeSum p ks [j] false)
    b := tab js (fun j => planeSum p ks [j] true) }

/-- A row of a multiply-add pass mismatches; the outputs are the row sums as formed. -/
def mismatch (p : Plane) (fmt : Nat) (ax : Bool) (r : PassRow) (outs : List Fp) : Bool :=
  let m := modeOf p.fmt.toNat
  let u := sumUnit p.fmt.toNat
  let is := List.range (axisLen m ax)
  let xs := is.map (fun i => rowVal fmt r i)
  if outs.any Fp.isNan || xs.any Fp.isNan then false else
  let cells (t : Tab Int) (i : Nat) : Int := tabGet (fun _ => 0) t i
  let c : Int := (is.zip xs).foldl (fun a e =>
    a + fixed u e.2 * cells (if ax then p.c else p.s) e.1) 0
  let b : Int := (is.zip xs).foldl (fun a e =>
    a + (fixed u e.2).natAbs * cells (if ax then p.b else p.a) e.1) 0
  let s : Int := outs.foldl (fun a o => a + fixed (2 * u) o) 0
  if modeFloat m then decide (b < 1024 * (s - c).natAbs) else decide (s ≠ c)

end Sys2Proof.Machine
end

