-- ==== Sys2Proof/Machine/Translate.lean ====
section
/-! DEFINITION. Address translation: page tables, the cached translations of cores and engines, context
windows and the access rules of the local physical map (R321 to R333, R338, R341, R350, R551). -/

namespace Sys2Proof.Machine

open Sys2Proof

/-- Translation fault of an access (R322). -/
def transCode : Acc → BitVec 8
  | .fetch => 0x01
  | .load => 0x07
  | .store => 0x08
  | .amo => 0x08

/-- Access fault of an access. -/
def accessCode : Acc → BitVec 8
  | .fetch => 0x02
  | .load => 0x09
  | .store => 0x0A
  | .amo => 0x0A

def Acc.writes : Acc → Bool
  | .store => true
  | .amo => true
  | _ => false

/-- Whether a leaf's rights allow an access: R 59, W 58, X 57; an atomic needs R and W. -/
def rightsAllow (k : Acc) (pte : Word) : Bool :=
  match k with
  | .fetch => bit pte 57
  | .load => bit pte 59
  | .store => bit pte 58
  | .amo => bit pte 58 && bit pte 59

/-! ### Context windows (R331 to R333) -/

/-- Key of block `b` of shard `sh` of sequence `q`. -/
def seqKey (q sh b : Nat) : Nat := 2 * ((q * 256 + sh) * 1024 + b)

/-- Key of page `p` of shard `sh` of stash slot `t`. -/
def stashKey (t sh p : Nat) : Nat := 2 * ((t * 256 + sh) * 16384 + p) + 1

def ctxCfg (s : State) : Word := rget s (dealOff 0x1000)
def ctxMaxSeq (s : State) : Nat := field (ctxCfg s) 8 13
def ctxShards (s : State) : Nat := field (ctxCfg s) 0 8 + 1
def ctxSlots (s : State) : Nat := field (ctxCfg s) 40 8
def ctxBlockLog (s : State) : Nat := field (ctxCfg s) 48 3

/-- The key a window address names; none where SEQ, SHARD or SLOT is out of range. -/
def windowKey (s : State) (va : Word) : Option Nat :=
  if field va 46 2 = 3 then
    if field va 34 12 < ctxMaxSeq s ∧ field va 26 8 < ctxShards s
    then some (seqKey (field va 34 12) (field va 26 8) (field va 16 10)) else none
  else
    if field va 38 8 < ctxSlots s ∧ field va 30 8 < ctxShards s
    then some (stashKey (field va 38 8) (field va 30 8) (field va 16 14)) else none

/-- Sequence a key belongs to. -/
def keySeq (k : Nat) : Option Nat := if k % 2 = 0 then some (k / 2 / 1024 / 256) else none

def findPage (s : State) (ppn : Nat) : Option PageRec := tabFind s.ctx.pages ppn
def findEnt (s : State) (key : Nat) : Option CtxEnt := tabFind s.ctx.ents key

/-- Translate a window address. The translation fault of a field out of range has the lower code and comes
first (R92). A device that is not the lead knows no sequence, so a write to an unmapped page of its sequence
window raises STORE_TRANSLATION (DESIGN CHOICE, log entry 132). -/
def windowXlat (a : Agent) (k : Acc) (s : State) (va : Word) : XRes :=
  match windowKey s va with
  | none => .trap (transCode k) va
  | some key =>
    if k = .fetch ∨ field (ctxCfg s) 62 2 < a.ring then .trap (accessCode k) va else
    match findEnt s key with
    | none =>
      if k.writes then
        match keySeq key with
        | some q =>
          if (tabFind s.dealer.seqs q).isSome then .held (.alloc key) else .trap (transCode k) va
        | none => .held (.alloc key)
      else .trap (transCode k) va
    | some e =>
      if k.writes && decide (e.tier = 2) then .held (.move key)
      else if k.writes && (match findPage s e.ppn with
          | some p => decide (1 < p.ref ∧ p.state = 1)
          | none => false) then .held (.copy key)
      else .to (e.ppn * 0x10000 + va.toNat % 0x10000)

/-! ### Page tables (R321, R322) -/

/-- Whether the layout of an entry is legal: bits [54:46] are 0, CW stands only in a level-3 entry
with W, a leaf is no larger than its level allows and is aligned, and a table is aligned to its
size. -/
def pteLegal (level shift : Nat) (pte : Word) : Bool :=
  let leaf := bit pte 62
  let addr := field pte 8 38 * 256
  decide (field pte 46 9 = 0) &&
  (!bit pte 56 || (decide (level = 3) && bit pte 58)) &&
  (if leaf then decide (level ≠ 0 ∧ addr % 2 ^ shift = 0)
   else decide (level ≠ 3) && decide (addr % (if level = 2 then 256 else 4096) = 0))

/-- Walk from a table at physical address `table`; the levels that are left are given as level,
shift and index bits. The answer is the leaf, its shift and its own address. An uncorrectable error on
a read of the walk is MEM_DRAM. -/
def walk (a : Agent) (k : Acc) (va : Word) (levels : List (Nat × Nat × Nat)) (s : State)
    (table : Nat) : State × (XRes ⊕ (Word × Nat × Nat)) :=
  match levels with
  | [] => (s, .inl (.trap (transCode k) va))
  | (level, shift, bits) :: rest =>
    let pa := table + 8 * field va shift bits
    if !inMemory s pa then (s, .inl (.trap (transCode k) va)) else
    let r := readPa s a pa 8
    match r.2.2 with
    | some c =>
      let e := memError r.1 a (pa / 128) va (if c = 0x41 then 0x40 else c)
      (e.1, .inl (.trap e.2.1 e.2.2))
    | none =>
      let pte := wd r.2.1
      if !bit pte 63 || !pteLegal level shift pte then (r.1, .inl (.trap (transCode k) va))
      else if bit pte 62 then (r.1, .inr (pte, shift, pa))
      else walk a k va rest r.1 (field pte 8 38 * 256)

/-- The four levels. -/
def walkLevels : List (Nat × Nat × Nat) := [(0, 39, 9), (1, 30, 9), (2, 21, 9), (3, 16, 5)]

/-! ### Cached translations (R324, R325) -/

/-- The translations that an agent caches: the key of its list and how many it holds. -/
def tlbOf (a : Agent) : Option (Nat × Nat) :=
  match a.core with
  | some c => some (c, 1024)
  | none => if 2080 ≤ a.who ∧ a.who < 2336 then some (136 + (a.who - 2080) / 16, 256) else none

def getTlb (s : State) (k : Nat) : List TlbEnt := tabGet (fun _ => []) s.tlbs k
def setTlb (s : State) (k : Nat) (es : List TlbEnt) : State :=
  { s with tlbs := tabSet (fun _ => []) s.tlbs k es }

/-- An entry maps a virtual address in the address space of an ASPACE value. -/
def tlbMaps (aspace va : Word) (e : TlbEnt) : Bool :=
  (match e.asid with
   | some n => decide (n = field aspace 48 16)
   | none => true) && decide (e.page = va.toNat >>> e.shift)

/-- A line as its home bank would give it now, without an effect: none where it cannot be read. -/
def peekLine (s : State) (l : Nat) : Option Line :=
  match tabFind s.l2 l with
  | some ln => if ln.bad = 0 then some ln.data else none
  | none => if setLost s l || decide (badWords s l ≠ 0) then none else some (memLine s l)

/-- The leaf that a walk would find now. -/
def peekLeaf (s : State) (va : Word) : List (Nat × Nat × Nat) → Nat → Option (Word × Nat × Nat)
  | [], _ => none
  | (level, shift, bits) :: rest, table =>
    let pa := table + 8 * field va shift bits
    if !inMemory s pa then none else
    match peekLine s (pa / 128) with
    | none => none
    | some d =>
      let pte := wd (lineGet d (pa % 128) 8)
      if !bit pte 63 || !pteLegal level shift pte then none
      else if bit pte 62 then some (pte, shift, pa)
      else peekLeaf s va rest (field pte 8 38 * 256)

/-- Table of level 0. -/
def rootOf (aspace : Word) : Nat := field aspace 12 34 * 4096

/-- Add a leaf to an agent's translations. Which entry a full cache gives up is free (log entry 13). -/
def tlbPut (s : State) (k cap : Nat) (e : TlbEnt) : State :=
  let es := getTlb s k
  if es.length < cap then setTlb s k (es ++ [e]) else
    let f := drawFree s
    setTlb f.2 k (es.eraseIdx (f.1.toNat % es.length) ++ [e])

/-- Walk for an agent, and cache the leaf. -/
def walkFill (a : Agent) (k : Acc) (va : Word) (s : State) : State × (XRes ⊕ (Word × Nat × Nat)) :=
  match walk a k va walkLevels s (rootOf a.aspace) with
  | (s, .inl x) => (s, .inl x)
  | (s, .inr (pte, shift, pa)) =>
    match tlbOf a with
    | none => (s, .inr (pte, shift, pa))
    | some (key, cap) =>
      let e : TlbEnt :=
        { asid := if bit pte 55 then none else some (field a.aspace 48 16), shift := shift
          page := va.toNat >>> shift, pte := pte, addr := pa }
      (tlbPut s key cap e, .inr (pte, shift, pa))

/-- The leaf that maps an address: a cached one, else that of a walk. Where the tables have changed since
and no invalidation has completed, whether the cached entry or the new one is used is free (R325). -/
def leafOf (a : Agent) (k : Acc) (va : Word) (s : State) : State × (XRes ⊕ (Word × Nat × Nat)) :=
  match tlbOf a with
  | none => walkFill a k va s
  | some (key, _) =>
    match (getTlb s key).find? (tlbMaps a.aspace va) with
    | none => walkFill a k va s
    | some e =>
      if peekLeaf s va walkLevels (rootOf a.aspace) = some (e.pte, e.shift, e.addr)
      then (s, .inr (e.pte, e.shift, e.addr))
      else
        let f := drawFree s
        if bit f.1 0 then (f.2, .inr (e.pte, e.shift, e.addr))
        else walkFill a k va
          (setTlb f.2 key ((getTlb f.2 key).filter (fun x => !tlbMaps a.aspace va x)))

/-- Every cache of translations drops the entries that a test picks (R326, R341). -/
def dropTlb (s : State) (p : TlbEnt → Bool) : State :=
  { s with tlbs := (s.tlbs.map (fun e => (e.1, e.2.filter (fun x => !p x)))).filter (fun e => !e.2.isEmpty) }

/-- What a physical address is, for an access that may reach the device register space or not
(R327, R551). -/
def physical (s : State) (k : Acc) (device : Bool) (va : Word) (pa : Nat) : XRes :=
  if inMemory s pa || (device && inDevice pa) then .to pa else .trap (accessCode k) va

/-- A held write whose copy met an unreadable line takes the fault its own access would take (R463): MEM_DRAM
with its address (DEDUCED, log entry 129). -/
def heldOr (a : Agent) (va : Word) (r : State × XRes) : State × XRes :=
  match r.2 with
  | .held need =>
    match takeFirst (fun x => decide (x = (a.thr, need))) r.1.ctx.failed with
    | some x => ({ r.1 with ctx := { r.1.ctx with failed := x.2 } }, .trap 0x40 va)
    | none => r
  | _ => r

/-- Translate one address by windows, page tables or as it is. -/
def xlatBase (device : Bool) (a : Agent) (k : Acc) (s : State) (va : Word) : State × XRes :=
  let en := bit a.aspace 0
  let ctx := bit a.aspace 1
  if (en && decide (field va 48 16 ≠ 0)) then (s, .trap (transCode k) va)
  else if ctx && decide (field va 48 16 = 0) && bit va 47 then (s, windowXlat a k s va)
  else if !en then
    if 2 ≤ a.ring then (s, .trap (transCode k) va)
    else (s, physical s k device va va.toNat)
  else
    match leafOf a k va s with
    | (s, .inl x) => (s, x)
    | (s, .inr (pte, shift, pa)) =>
      if field pte 60 2 < a.ring ∨ rightsAllow k pte = false then (s, .trap (accessCode k) va)
      else
        let base := field pte 8 38 * 256
        match physical s k device va (base + va.toNat % 2 ^ shift) with
        | .to p =>
          if k.writes && bit pte 56 then (s, .held (.snap (base / 0x10000) pa)) else (s, .to p)
        | x => (s, x)

/-- Translate one address (R322, R323, R331). -/
def xlatAny (device : Bool) (a : Agent) (k : Acc) (s : State) (va : Word) : State × XRes :=
  heldOr a va (xlatBase device a k s va)

/-- Translate an address of memory. -/
def xlat (a : Agent) (k : Acc) (s : State) (va : Word) : State × XRes := xlatAny false a k s va

/-- List a write that the context manager holds. -/
def listHeld (s : State) (thr : Option Nat) (need : CtxNeed) : State :=
  let h : CtxHeld := { thr := thr, need := need, told := false }
  if s.ctx.held.any (fun x => decide (x.thr = thr ∧ x.need = need)) then s
  else { s with ctx := { s.ctx with held := s.ctx.held ++ [h] } }

/-- Register a write that the context manager holds; its thread waits. -/
def holdWrite (s : State) (thr : Option Nat) (need : CtxNeed) : State :=
  let s := listHeld s thr need
  match thr with
  | some i => setThread s i { getThread s i with hold := .ctx }
  | none => s

/-! ### Accesses by virtual address -/

/-- Read bytes that lie in one line; a thread has then seen what the line shows (R371). -/
def readVa (a : Agent) (s : State) (va : Word) (size : Nat) :
    State × (Nat ⊕ (BitVec 8 × Word)) :=
  match xlat a .load s va with
  | (s, .to pa) =>
    let r := readPa s a pa size
    match r.2.2 with
    | none => (match a.thr with
      | some i => noteSeen r.1 i (pa / 128)
      | none => r.1, .inl r.2.1)
    | some c =>
      let e := memError r.1 a (pa / 128) va c
      (e.1, .inr (e.2.1, e.2.2))
  | (s, .trap c i) => (s, .inr (c, i))
  | (s, .held _) => (s, .inr (transCode .load, va))

/-- Read 64-bit words from an address up. -/
def readWords (a : Agent) : Nat → State → Word → State × (List Word ⊕ (BitVec 8 × Word))
  | 0, s, _ => (s, .inl [])
  | n + 1, s, va =>
    match readVa a s va 8 with
    | (s, .inr e) => (s, .inr e)
    | (s, .inl v) =>
      match readWords a n s (va + 8) with
      | (s, .inr e) => (s, .inr e)
      | (s, .inl vs) => (s, .inl (wd v :: vs))

end Sys2Proof.Machine
end

