-- ==== Sys2Proof/Machine/Exceptions.lean ====
section
/-! DEFINITION. Taking an exception and returning from one (Exceptions, rings and task state):
frames, the emergency frame, the mask bit and the choice among pending conditions. -/

namespace Sys2Proof.Machine

open Sys2Proof

/-! ### Agents -/

/-- Requester class of a core's accesses of class `cls` (R293): a control core has class 6. -/
def coreCls (ci cls : Nat) : Nat := if isControl ci then 6 else cls

/-- A thread as the maker of accesses at its ring. -/
def threadAgent (s : State) (i : Nat) : Agent :=
  let t := getThread s i
  { who := queueOf i, core := some (i / 16), thr := some i, aspace := t.aspace,
    ring := t.ring.toNat, cls := coreCls (i / 16) 0, age := 1 }

/-- A thread's accesses with ring 0 rights (R88, R89, R99). -/
def monitorAgent (s : State) (i : Nat) : Agent := { threadAgent s i with ring := 0 }

/-! ### Registers of the core block used here -/

/-- Offset of a register of the core of a core index. -/
def coreReg (ci o : Nat) : Nat := coreOff (ci / 34) (ci % 34) o

/-- Offset of word `k` of the emergency frame of a thread. -/
def eframeOff (i k : Nat) : Nat := coreReg (i / 16) (0x1000 + 0x200 * (i % 16) + 8 * k)

def occBit (s : State) (i : Nat) : Bool := (getCore s (i / 16)).occ.getLsbD (i % 16)

def setOcc (s : State) (i : Nat) (b : Bool) : State :=
  let k := getCore s (i / 16)
  let m : BitVec 16 := BitVec.ofNat 16 (2 ^ (i % 16))
  setCore s (i / 16) { k with occ := if b then k.occ ||| m else k.occ &&& ~~~m }

/-! ### Causes -/

/-- Handling ring H of a cause (Cause codes). -/
def causeRing (code : BitVec 8) : Nat :=
  match code.toNat with
  | 0x01 | 0x07 | 0x08 => 1
  | 0x11 | 0x20 => 3
  | 0x90 | 0x91 => 0
  | 0xC8 => 1
  | c => if 0x60 ≤ c ∧ c ≤ 0x6F then 1 else 2

/-- The CAUSE register for an event at a ring. -/
def causeWord (ring : BitVec 2) (pos : Bool) (code : BitVec 8) : Word :=
  wd (ring.toNat * 2 ^ 14 + b2n pos * 2 ^ 13 + code.toNat)

/-- The ring entered: the first of T, T − 1, ... whose ENTRY register is not 0 (R91). -/
def entryRing (t : Thread) : Nat → Option Nat
  | 0 => if getEntry t 0 = 0 then none else some 0
  | r + 1 => if getEntry t (r + 1) = 0 then entryRing t r else some (r + 1)

/-! ### Frames (R99 to R101) -/

/-- The 64 words of a frame. -/
def frameWords (t : Thread) (ret cause info hcause hinfo : Word) : List Word :=
  [ret, statusWord t, cause, info] ++ (List.range 32).map (fun n => getG t (BitVec.ofNat 5 n)) ++
  [wd t.vl.toNat, wd t.vgrp.toNat, wd t.vstart.toNat, wd t.tstart.toNat, wd t.apos.toNat,
   wd t.fflags.toNat, wd t.frm.toNat, t.seed, t.crcpoly, t.oob, 0, 0, hcause, hinfo] ++
  List.replicate 14 0

/-- The number that 64-bit words spell. -/
def ofWords : List Word → Nat
  | [] => 0
  | w :: t => w.toNat + 2 ^ 64 * ofWords t

/-- Translate the lines of a range for writing, in order. -/
def xlatLines (a : Agent) (k : Acc) : Nat → State → Word → State × (List Nat ⊕ XRes)
  | 0, s, _ => (s, .inl [])
  | n + 1, s, va =>
    match xlat a k s va with
    | (s, .to pa) =>
      match xlatLines a k n s (va + 128) with
      | (s, .inl ps) => (s, .inl (pa :: ps))
      | x => x
    | (s, x) => (s, .inr x)

/-- Write 16-word lines; false where one could not be written. -/
def writeLines (a : Agent) : List Nat → List Word → State → State × Bool
  | [], _, s => (s, true)
  | pa :: t, ws, s =>
    match writePa s a pa 128 (ofWords (ws.take 16)) with
    | (s, none) => writeLines a t (ws.drop 16) s
    | (s, some _) => (s, false)

/-- Push a frame (R99, R100). -/
def pushFrame (s : State) (i : Nat) (ret cause info : Word) : State × Push :=
  let t := getThread s i
  let a := monitorAgent s i
  if t.tsb = 0 then (s, .invalid 0) else
  match readWords a 2 s t.tsb with
  | (s, .inr _) => (s, .invalid t.tsb)
  | (s, .inl ws) =>
    let size := (ws.headD 0).toNat
    let ptr := ((ws.drop 1).headD 0).toNat
    let fi := t.tsb + wd ptr
    if ptr % 0x200 ≠ 0 ∨ ptr < 0x200 ∨ size < ptr + 0x200 then (s, .invalid fi) else
    match xlatLines a .store 1 s t.tsb with
    | (s, .inr (.held n)) => (s, .held n)
    | (s, .inr _) => (s, .invalid fi)
    | (s, .inl hs) =>
      match xlatLines a .store 4 s (t.tsb + wd ptr) with
      | (s, .inr (.held n)) => (s, .held n)
      | (s, .inr _) => (s, .invalid fi)
      | (s, .inl ps) =>
        match writeLines a ps (frameWords t ret cause info 0 0) s with
        | (s, false) => (s, .invalid fi)
        | (s, true) =>
          match writePa s a (hs.headD 0 + 8) 8 (ptr + 0x200) with
          | (s, some _) => (s, .invalid fi)
          | (s, none) =>
            let t := getThread s i
            (setThread s i { t with
              depth := if t.depth = 0xFFFF then t.depth else t.depth + 1 }, .ok)

/-! ### The emergency frame (R103 to R105, R107, R108) -/

/-- Write words from an offset up. -/
def rsetWords (s : State) (off : Nat) : List Word → State
  | [] => s
  | w :: t => rsetWords (rset s off w) (off + 8) t

/-- Save a thread's state into its emergency frame and set OCC. -/
def saveEmergency (s : State) (i : Nat) (ret cause info hcause hinfo : Word) : State :=
  setOcc (rsetWords s (eframeOff i 0) (frameWords (getThread s i) ret cause info hcause hinfo)) i true

/-- Put a thread into HALT. -/
def haltThread (s : State) (i : Nat) : State :=
  setThread s i { (getThread s i).quiet with mode := .halt, custom := none }

/-- Report a halted thread to the safety controller (THREAD_HALT). -/
def reportHalt (s : State) (i : Nat) : State :=
  report s 0x000D (unitOf (i / 16 / 34) (i / 16 % 34)) (tidWord s i) 0

/-- R105: an exception that finds OCC set and no valid push halts the thread. -/
def haltLost (s : State) (i : Nat) (code : BitVec 8) : State :=
  let s := rset s (eframeOff i 48) 0x92
  let s := rset s (eframeOff i 49) (wd code.toNat)
  reportHalt (haltThread s i) i

/-- The monitor thread of a quadrant (QCM_MONITOR). -/
def monitorOf (s : State) (q : Nat) : Nat :=
  let w := rget s (qcmOff q 0x18)
  targetThread q (field w 8 1) (field w 0 2)

/-- R107, R108: a synchronous fault with EM = 1. `bad` says that the emergency save meets a fault, which
halts the thread (R105). -/
def maskedFault (bad : Bool) (s : State) (i : Nat) (ret cause info : Word) (code : BitVec 8) : State :=
  if occBit s i || bad then haltLost s i code else
  let s := saveEmergency s i ret cause info 0x91 (wd code.toNat)
  let s := haltThread s i
  let q := i / 16 / 34
  let m := monitorOf s q
  let mt := getThread s m
  if m = i ∨ corePresent s (m / 16) = false ∨ mt.mode = .off ∨ mt.mode = .halt then reportHalt s i
  else
    let s := rsetField s (qcmOff q 0x18) 16 1 1
    { s with maskedTid := tabSet zeroWord s.maskedTid q (tidWord s i) }

/-- Continue at the entry of ring r. -/
def enterAt (s : State) (i r : Nat) (cause info : Word) (em : Bool) : State :=
  let t := getThread s i
  setThread s i { t.quiet with
    ring := BitVec.ofNat 2 r, cause := cause, faultinfo := info, pc := getEntry t r,
    em := t.em || em, mode := .run, partway := false, tileBusy := none, custom := none }

/-- A push that is not valid (R91, R103, R105). `bad` says that the emergency save meets a fault. Where the
thread enters ring 0, HALT_CAUSE and HALT_INFO of the emergency frame are 0 (DESIGN CHOICE, log entry 137: the
manual names them for a halt alone). -/
def invalidPush (bad : Bool) (s : State) (i : Nat) (ret cause info fi : Word) (code : BitVec 8) : State :=
  if occBit s i || bad then haltLost s i code
  else
    let t := getThread s i
    if getEntry t 0 = 0 then
      reportHalt (haltThread (saveEmergency s i ret cause info 0x90 (wd code.toNat)) i) i
    else
      enterAt (saveEmergency s i ret cause info 0 0) i 0 (causeWord t.ring t.partway 0x90) fi true

/-- Take an exception (R90 to R94, R99 to R105): save the state of the thread in a frame and
continue at the entry of a ring no less privileged than H and the thread's own. An entry whose push the
context manager holds is in progress until the push has been made. -/
def takeException (bad : Bool) (s : State) (i : Nat) (ret : Word) (code : BitVec 8) (info : Word)
    (em : Bool) : State :=
  let t := getThread s i
  let cause := causeWord t.ring t.partway code
  match entryRing t (min t.ring.toNat (causeRing code)) with
  | none => invalidPush bad s i ret cause info t.tsb code
  | some r =>
    match pushFrame s i ret cause info with
    | (s, .held need) =>
      let t := getThread s i
      listHeld (setThread s i { t.quiet with
        mode := .run, hold := .entry ret code info em, custom := none, saveBad := bad }) (some i) need
    | (s, .invalid fi) => invalidPush bad s i ret cause info fi code
    | (s, .ok) => enterAt s i r cause info em

/-- A synchronous fault of the instruction at the pc; `bad` says that an emergency save that it causes
meets a fault. -/
def takeFault (bad : Bool) (s : State) (i : Nat) (code : BitVec 8) (info : Word) : State :=
  let t := getThread s i
  let s := setThread s i { t.quiet with custom := none }
  if code = 0x11 ∧ t.claimed = true then setThread s i { getThread s i with mode := .debug }
  else if t.em then maskedFault bad s i t.pc (causeWord t.ring t.partway code) info code
  else takeException bad s i t.pc code info false

/-- A synchronous fault of an instruction that has waited: its issue said whether an emergency save that
the fault causes meets a fault (R105). -/
def takeSync (s : State) (i : Nat) (code : BitVec 8) (info : Word) : State :=
  takeFault (getThread s i).saveBad s i code info

/-- An exception entry in progress goes on when the context manager has released its push. -/
def resumeEntry (s : State) (i : Nat) : State :=
  match (getThread s i).hold with
  | .entry ret code info em => takeException (getThread s i).saveBad s i ret code info em
  | _ => s

/-! ### Pending conditions (R95 to R98, R109) -/

/-- Queue a deferred condition, lowest cause code first, in order of arrival within a code. -/
def insertDeferred (x : BitVec 8 × Word) : List (BitVec 8 × Word) → List (BitVec 8 × Word)
  | [] => [x]
  | y :: t => if x.1 < y.1 then x :: y :: t else y :: insertDeferred x t

def addDeferred (s : State) (i : Nat) (code : BitVec 8) (info : Word) : State :=
  let t := getThread s i
  setThread s i { t with deferred := insertDeferred (code, info) t.deferred }

/-- The timer interrupt follows CORE_TIMER_CTL.PEND for the thread that TGT names (R45). -/
def timerPending (s : State) (i : Nat) : Bool :=
  let w := rget s (coreReg (i / 16) 0x20)
  bit w 8 && decide (field w 0 4 = i % 16)

/-- IPEND with its level bit. -/
def ipendWord (s : State) (i : Nat) : BitVec 32 :=
  (getThread s i).ipend ||| (if timerPending s i then 2 else 0)

/-- The lowest pending interrupt. -/
def lowestInterrupt (w : BitVec 32) : Option Nat :=
  (List.range 32).find? (fun n => decide (0 < n) && w.getLsbD n)

/-- MASKED_FAULT is pending for a thread (R109). -/
def maskedPending (s : State) (i : Nat) : Bool :=
  let q := i / 16 / 34
  decide (monitorOf s q = i) && bit (rget s (qcmOff q 0x18)) 16

/-- What a thread with EM = 0 takes next: MASKED_FAULT, then the first deferred condition, then the
lowest interrupt. A thread in WAIT takes no deferred condition (R97). -/
def nextEvent (s : State) (i : Nat) : Option (BitVec 8 × Word) :=
  let t := getThread s i
  if t.em then none
  else if maskedPending s i then some (0x91, tabGet zeroWord s.maskedTid (i / 16 / 34))
  else match (if t.mode = .wait then [] else t.deferred) with
    | x :: _ => some x
    | [] =>
      match lowestInterrupt (ipendWord s i) with
      | some n =>
        let held := match t.custom with
          | some c => c.held && decide (c.count < 4096)
          | none => false
        if held then none
        else some (BitVec.ofNat 8 (0x60 + n), tabGet zeroWord t.ipendInfo (0x60 + n))
      | none => none

/-- A thread stands at a boundary where an exception can be taken: between instructions, at an
element, row or micro-word boundary of one in progress, at a c.wr to TCFG that waits, or in
WAIT. An instruction that runs to completion has none (R205). -/
def atBoundary (t : Thread) : Bool :=
  match t.mode, t.hold with
  | .wait, _ => true
  | .run, .none => !t.midway
  | .run, .unit _ => !t.midway
  | .run, .ifetch _ => true
  | .run, .line _ => true
  | .run, .tcfg _ => true
  | .run, .ctx => !t.midway
  | _, _ => false

/-- Take an event out of what is pending. -/
def clearEvent (s : State) (i : Nat) (code : BitVec 8) : State :=
  let t := getThread s i
  if code = 0x91 then
    let q := i / 16 / 34
    rsetField { s with maskedTid := tabSet zeroWord s.maskedTid q 0 } (qcmOff q 0x18) 16 1 0
  else if code = 0x20 ∨ code = 0x21 ∨ code = 0xC8 then setThread s i { t with deferred := t.deferred.drop 1 }
  else setThread s i { t with
    ipend := t.ipend &&& ~~~(BitVec.ofNat 32 (2 ^ (code.toNat - 0x60)))
    ipendInfo := tabSet zeroWord t.ipendInfo code.toNat 0 }

/-- Withdraw a thread's wait from the waiter list of every object (R39, R97, R386); a release of an
s.wait that is on its way finds no wait any more. -/
def withdrawWaiter (s : State) (queue : Nat) : State :=
  let go (o : SyncObj) : SyncObj :=
    { o with waiters := o.waiters.filter (fun w => decide (w.queue ≠ queue)) }
  let all := s.sync.map (fun e => (e.1, go e.2))
  { s with sync := all.filter (fun e => decide (e.2 ≠ SyncObj.zero))
           releases := s.releases.filter (fun r => decide (r.queue ≠ queue) || r.take) }

/-- A grant of an s.take is on its way to a queue (R40, R97). -/
def grantInFlight (s : State) (queue : Nat) : Bool :=
  s.releases.any (fun r => decide (r.queue = queue) && r.take)

/-- EXCEPTION_TAKE (R96): at a boundary with EM = 0 the thread takes one pending exception. An s.take
whose grant is on its way completes first. A restart after MASKED_FAULT follows an interrupt for R86
(log entry 121). -/
def execExceptionTake (x : ExcTurn) (s : State) : Host.Outcome State Fault Refusal :=
  let i := thrIx x.thr
  let th := getThread s i
  let k := getCore s (i / 16)
  if corePresent s (i / 16) = false ∨ k.stopped = true ∨ k.testing = true ∨ atBoundary th = false ∨
      (th.mode = .wait ∧ grantInFlight s (queueOf i) = true) then .next s else
  match nextEvent s i with
  | none => .next s
  | some (code, info) =>
    if code = 0xC8 ∧ th.claimed = true then
      .next (setThread (clearEvent s i code) i
        { getThread (clearEvent s i code) i with mode := .debug })
    else
      let s := if th.mode = .wait then withdrawWaiter s (queueOf i) else s
      let s := clearEvent s i code
      let th := getThread s i
      let again := match th.custom with
        | some _ => if 0x60 ≤ code.toNat then th.pc :: th.custRestart else th.custRestart
        | none => th.custRestart
      let s := setThread s i { th with custRestart := again, custom := none }
      .next (takeException x.bad s i th.pc code info
        (decide (code ≠ 0x20 ∧ code ≠ 0x21 ∧ code ≠ 0xC8)))

/-! ### Restoring from a frame (R89, R104, R110) -/

/-- The checks of R89 on a frame's values: its ring is not lower than the current one, FRM is a
rounding mode, VL is at most 4,096. -/
def frameLegal (t : Thread) (ws : List Word) : Bool :=
  let w (k : Nat) : Word := (ws.drop k).headD 0
  decide (t.ring.toNat ≤ field (w 1) 0 2 ∧ field (w 42) 0 3 ≤ 4 ∧ (w 36).toNat ≤ 4096)

/-- Restore a thread from the words of a frame; registers g1 to gn are kept, and EM where `keepEm`
says so. On a control core APOS stays 0 (R552). -/
def restoreFrame (control : Bool) (t : Thread) (ws : List Word) (n : Nat) (keepEm : Bool) : Thread :=
  let w (k : Nat) : Word := (ws.drop k).headD 0
  let g := (List.range 32).foldl (fun g r =>
    if r ≤ n then g else tabSet zeroWord g r (w (4 + r))) t.g
  { t with
    pc := w 0, g := g, ring := BitVec.ofNat 2 (field (w 1) 0 2)
    em := if keepEm then t.em else bit (w 1) 2
    ss := bit (w 1) 4, fte := BitVec.ofNat 6 (field (w 1) 8 6)
    vl := BitVec.ofNat 13 (w 36).toNat, vgrp := BitVec.ofNat 2 (w 37).toNat
    vstart := BitVec.ofNat 13 (w 38).toNat
    tstart := if control then 0 else BitVec.ofNat 8 (w 39).toNat
    apos := if control then 0 else BitVec.ofNat 32 (w 40).toNat, fflags := BitVec.ofNat 6 (w 41).toNat
    frm := BitVec.ofNat 3 (w 42).toNat, seed := w 43, crcpoly := w 44, oob := w 45 }

/-- The words of a thread's emergency frame. -/
def eframeWords (s : State) (i : Nat) : List Word :=
  (List.range 64).map (fun k => rget s (eframeOff i k))

end Sys2Proof.Machine
end

