-- ==== Sys2Proof/Machine/Issue.lean ====
section
/-! DEFINITION. The issue of an instruction: which thread issues (R32, R33), the fetch of its words
(R64, R70, R299, R322), what follows a completed instruction, and how each outcome of an instruction's
body changes the thread. The latencies that make a thread not ready for some cycles are an operand of the
command (log entry 6). -/

namespace Sys2Proof.Machine

open Sys2Proof

/-- Physical core of a logical core (R51): 0 to 31, spares 32 and 33, control cores 34 and 35, as
the boot sequence assigned them. -/
def physCore (s : State) (ci : Nat) : Nat :=
  tabGet (fun k => if k % 34 < 32 then k % 34 else k % 34 + 2) s.kept.coreMap ci

/-- Island of a core (AGE_SEL). -/
def coreIsland (s : State) (ci : Nat) : Nat := 64 * (ci / 34) + physCore s ci

/-- A core issues: it is present, has not stopped under R54, is not under test (R476) and its clock
is not being changed (R488). -/
def coreIssues (s : State) (ci : Nat) : Bool :=
  let k := getCore s ci
  corePresent s ci && !k.stopped && !k.testing && islandRuns s (coreIsland s ci)

/-- A store of thread i that has not been performed at home. -/
def isStoreBy (i : Nat) (r : Req) : Bool :=
  match r.kind with
  | .store _ _ _ => decide (r.thr = i)
  | _ => false

/-- The thread's store buffer has room: fewer than 8 of its stores wait to enter a bank (R33). -/
def storeRoom (s : State) (i : Nat) : Bool :=
  decide ((s.banks.map (fun e => (e.2.waiting.filter (fun w => isStoreBy i w.item)).length)).sum < 8)

/-- Change a thread. -/
def modThread (s : State) (i : Nat) (f : Thread → Thread) : State := setThread s i (f (getThread s i))

/-- The core's L1 caches are in blocking mode (R301). -/
def l1Blocks (s : State) (ci : Nat) : Bool :=
  !isReady s || (getCore s ci).testing || recovering s (ci / 34)

/-- A blocking L1 whose one miss is pending serves no other access of any thread (R300). -/
def l1Closed (s : State) (ci : Nat) : Bool := l1Blocks s ci && !(getCore s ci).misses.isEmpty

/-- A miss register of the L1 instruction cache is free for a line: 8 registers, at most 2 of them against
one bank, and one in blocking mode (R299, R300). -/
def fetchFits (s : State) (ci l : Nat) : Bool :=
  let m := (getCore s ci).imisses
  if l1Blocks s ci then m.isEmpty
  else decide (m.length < 8 ∧ (m.filter (fun x => lineBank x = lineBank l)).length < 2)

/-- Microcode and bindings, which only the host and ring 0 stage (R77). -/
def isUcode (off : Nat) : Bool :=
  match blockOf off with
  | (.qcm _, o) => decide (o = 0x108 ∨ o = 0x110 ∨ (0x200 ≤ o ∧ o < 0x280))
  | _ => false

/-- Quadrant of a core-management register. -/
def qcmQuad (off : Nat) : Nat := off / 0x1000000 - 1

/-- A quadrant's microcode or bindings are written by a commit. -/
def txnUcode (t : Txn) (q : Nat) : Bool :=
  t.words.any (fun e => decide (e.1 / 65536 = q)) ||
    t.regs.any (fun e => isUcode e.1 && decide (qcmQuad e.1 = q))

/-- A commit that waits holds back new custom instructions of a quadrant (R78). -/
def ucodePending (s : State) (q : Nat) : Bool := s.txn.txns.any (fun t => t.committed && txnUcode t q)

/-- No claim or free of another thread of the core is under way on a tile or on the array (R184, R205). -/
def openTo (resv : Option Nat) (i : Nat) : Bool := decide (resv = none ∨ resv = some (i % 16))

/-- A unit that the next instruction of thread i needs accepts it. -/
def unitFree (s : State) (i : Nat) (n : Need) : Bool :=
  let k := getCore s (i / 16)
  let runs (names : Pass → Bool) : Bool :=
    match k.arr.pass with
    | some p => names p && decide (p.state = .running)
    | none => false
  match n with
  | .tile t => !(getTile k t).zeroing && openTo (getTile k t).resv i && !(match k.arr.ldw with
      | some (x, _) => decide (x = t)
      | none => false) && !runs (fun p => !p.src && decide (p.srcAddr.toNat % 8 = t))
  | .pass => !k.arr.saving && openTo k.arr.resv i && !(decide (k.arr.owner = some (i % 16)) && runs (fun _ => true))
  | .ldw => k.arr.ldw.isNone
  | .zeroing => !k.arr.zeroing && !k.arr.saving && openTo k.arr.resv i
  | .l1 => !l1Closed s (i / 16)
  | .l1i l => fetchFits s (i / 16) l
  | .ucode => !ucodePending s (i / 16 / 34)

/-- A thread issues: it is in RUN on a core that issues, its store buffer has room, it has not been
stopped, and no exception is due first (R33, R39, R96); the last two wait for an instruction that runs to
completion. -/
def mayRun (s : State) (i : Nat) : Bool :=
  let t := getThread s i
  coreIssues s (i / 16) && decide (t.mode = .run) && storeRoom s i &&
    (t.midway || (!t.stopping && (nextEvent s i).isNone))

/-- A thread can issue its next instruction: nothing holds it but a unit, which the instruction will ask
again, and no custom instruction is in progress. -/
def canIssue (s : State) (i : Nat) : Bool :=
  let t := getThread s i
  mayRun s i && t.custom.isNone && (match t.hold with
    | .none => true
    | .unit _ => true
    | _ => false)

/-- The next micro-word of a thread lies in a row of its quadrant's microcode store that is under test, where
accesses are held (R469). -/
def microTested (s : State) (i : Nat) : Bool :=
  match testedRegion s (i / 16 / 34), (getThread s i).custom with
  | some (.sram x), some c => decide (x % 2 ^ 32 = c.upc)
  | _, _ => false

/-- A thread can issue its next micro-word: nothing holds it but a unit, which the micro-word will ask
again. -/
def canMicro (s : State) (i : Nat) : Bool :=
  mayRun s i && !microTested s i && (match (getThread s i).hold with
    | .none => true
    | .unit _ => true
    | _ => false)

/-- A thread is ready (R33), latencies apart: it can issue an instruction that has not issued yet, or a
micro-word, and no unit that it needs refuses it. -/
def threadReady (s : State) (i : Nat) : Bool :=
  let t := getThread s i
  (if t.custom.isSome then canMicro s i else canIssue s i && !t.begun) && (match t.hold with
    | .unit n => unitFree s i n
    | _ => true)

/-- Thread i is the first ready one found by searching upward from the issue pointer plus 1 (R32); `busy`
are the threads that latencies make not ready. -/
def inTurn (s : State) (busy : BitVec 16) (i : Nat) : Bool :=
  let ci := i / 16
  let p := threadCount ci
  (((List.range p).map (fun k => ((getCore s ci).last + 1 + k) % p)).takeWhile
    (fun n => decide (n ≠ i % 16))).all
    (fun n => busy.getLsbD n || !threadReady s (16 * ci + n))

/-! ### L1 caches as sets -/

/-- Put a line into an L1 cache of `ways` ways and `sets` sets (R291, R292). -/
def l1Insert (t : Tab L1Line) (ways sets l age : Nat) (pf : Bool) (d : Line) : Tab L1Line :=
  let old := tabDel t l
  let set := old.filter (fun e => decide (e.1 % sets = l % sets))
  match chooseWay (List.range ways) (set.map (fun e => (e.2.way, e.2.age))) with
  | none => t
  | some (w, n) =>
    let aged := old.map (fun e => if e.1 % sets = l % sets
      then (e.1, { e.2 with age := min 3 (e.2.age + n) }) else e)
    let kept := aged.filter (fun e => decide (e.1 % sets ≠ l % sets ∨ e.2.way ≠ w))
    tabPut kept l { data := d, way := w, age := age, pf := pf }

/-! ### Fetch -/

/-- Send a request to its home bank. -/
def sendReq (s : State) (r : Req) : State :=
  let b := lineBank r.line
  setBank s b (arbEnqueue (getBank s b) (reqIndex (b / 32) r.core) r)

/-- A line is missing in the L1 instruction cache: it takes a miss register, attaches to a pending miss, or
waits for a register. -/
def fetchMiss (s : State) (i l : Nat) : State :=
  let ci := i / 16
  let k := getCore s ci
  let wait (s : State) (h : Hold) : State := modThread s i (fun t => { t with hold := h })
  if l ∈ k.imisses ∧ l1Blocks s ci = false then wait s (.ifetch l)
  else if !fetchFits s ci l then wait s (.unit (.l1i l))
  else
    let s := setCore s ci { k with imisses := k.imisses ++ [l] }
    wait (sendReq s { kind := .ifetch, wid := 0, core := ci, thr := i, line := l
                      cls := (threadAgent s i).cls, age := 1, l2age := 1 }) (.ifetch l)

/-- The word at an address has an uncorrectable error in L1 (R305). -/
def meetsAt (ue : Option ReadErr) (va : Word) (n : Nat) : Bool :=
  match ue with
  | some (.word w) => decide (va.toNat ≤ w.toNat ∧ w.toNat < va.toNat + n)
  | _ => false

/-- Drop a line from the L1 caches of a core (R305, R306). -/
def dropLine (s : State) (ci l : Nat) : State :=
  let k := getCore s ci
  setCore s ci { k with l1d := tabDel k.l1d l, l1i := tabDel k.l1i l }

/-- Fetch one word of an instruction: translation, rights, and the L1 instruction cache, which does
not observe stores (R70), or a line that it did not keep (R295). -/
def fetchWord (ue : Option ReadErr) (s : State) (i : Nat) (va : Word) : State × Fetched :=
  let a := threadAgent s i
  match xlat a .fetch s va with
  | (s, .trap c info) => (s, .fault c info)
  | (s, .held _) => (s, .fault 0x02 va)
  | (s, .to pa) =>
    let l := pa / 128
    let fail (s : State) (c : BitVec 8) : State × Fetched :=
      let e := memError s a l va c
      (e.1, .fault e.2.1 e.2.2)
    match tabFind (getThread s i).badGot l with
    | some c => fail s c
    | none =>
      let k := getCore s (i / 16)
      if l1Blocks s (i / 16) && !k.imisses.isEmpty then (fetchMiss s i l, .wait) else
      match tabFind k.l1i l with
      | none => if (tabFind (getThread s i).icode l).isSome then (s, .ok) else (fetchMiss s i l, .wait)
      | some e =>
        if meetsAt ue va 4 then
          let e := l1Error (setCore s (i / 16) { k with l1i := tabDel k.l1i l }) a l va
          (e.1, .fault e.2.1 e.2.2)
        else (setCore s (i / 16) { k with l1i := tabPut k.l1i l { e with age := 0 } }, .ok)

/-- Fetch the words of an instruction in order; the first fault or miss ends it (R64). -/
def fetchWords (ue : Option ReadErr) (i : Nat) : Nat → State → Word → State × Fetched
  | 0, s, _ => (s, .ok)
  | n + 1, s, va =>
    match fetchWord ue s i va with
    | (s, .ok) => fetchWords ue i n s (va + 4)
    | x => x

/-- A core forgets the lines that its L1 instruction cache has asked for: its threads will ask again. -/
def dropFetches (s : State) (ci : Nat) : State :=
  let mine (r : Req) : Bool := decide (r.kind = .ifetch ∧ r.core = ci)
  let k := getCore s ci
  let s := { setCore s ci { k with
               imisses := []
               msgs := k.msgs.filter (fun m => match m with
                 | .ifill _ _ _ => false
                 | .ierror _ _ => false
                 | _ => true) } with
    banks := s.banks.map (fun e => (e.1, arbDrop e.2 mine))
    channels := s.channels.map (fun e => (e.1, arbDrop e.2 mine)) }
  (List.range 16).foldl (fun s n =>
    match (getThread s (16 * ci + n)).hold with
    | .ifetch _ => modThread s (16 * ci + n) (fun t => { t with hold := .none, icode := [] })
    | _ => modThread s (16 * ci + n) (fun t => { t with icode := [] })) s

/-- Number of literal words. -/
def litWords : Lit → Nat
  | .none => 0
  | .one _ => 1
  | .two _ _ => 2
  | .bad => 0

/-- Number of words of an instruction. -/
def issWords (x : Iss) : Nat :=
  match x.long with
  | none => 1
  | some p => 2 + litWords p.lit

/-- Value of a literal (R62). -/
def litValue : Lit → Option Word
  | .one w => some (w.signExtend 64)
  | .two lo hi => some (hi ++ lo)
  | _ => none

/-! ### After an instruction -/

/-- Count an issued instruction and move the issue pointer (R32). -/
def countIssue (s : State) (i : Nat) : State :=
  let k := getCore s (i / 16)
  radd (setCore s (i / 16) { k with last := i % 16 }) (coreReg (i / 16) 0x40) 1

/-- An instruction has completed: the pc moves on, and SINGLE_STEP follows if the thread executed it
at ring 2 or 3 with SS = 1. -/
def retire (s : State) (i : Nat) (ring : BitVec 2) (ss : Bool) (pc : Word) : State :=
  let t := getThread s i
  let s := setThread s i { t.quiet with
    pc := pc, partway := false, tileBusy := none, csDue := none }
  let s := match t.csDue with
    | some info => addDeferred s i 0x21 info
    | none => s
  if ss && decide (2 ≤ ring.toNat) then addDeferred s i 0xC8 0 else s

/-- A parity error of a copy is corrected: the copy is gone, and will be fetched again (R306, R461). WHERE is the
index of its word in the structure (log entry 133). -/
def copyLost (s : State) (i index : Nat) : State :=
  report s 0x0002 (unitOf (i / 16 / 34) (i / 16 % 34)) (wd index) inCore

/-- The copies of a line in the L1 caches of a core are lost, each with its tag (R306). -/
def lineLost (s : State) (i l : Nat) : State :=
  let k := getCore s (i / 16)
  let s := match tabFind k.l1d l with
    | some e => copyLost s i (16 * (l % 128) + e.way)
    | none => s
  let s := match tabFind k.l1i l with
    | some e => copyLost s i (8 * (l % 64) + e.way)
    | none => s
  dropLine s (i / 16) l

/-- The physical line that an instruction's access or fetch at an address names. -/
def lineAt (s : State) (i : Nat) (va : Word) : State × Option Nat :=
  match xlat (threadAgent s i) .load s va with
  | (s, .to pa) => (s, some (pa / 128))
  | (s, _) => match xlat (threadAgent s i) .fetch s va with
    | (s, .to pa) => (s, some (pa / 128))
    | (s, _) => (s, none)

/-- A parity error of a copy that an instruction meets: the tag of an L1 line (R306), a cached translation, a
stream of the stride detectors or a micro-word of the microcode cache (R461). -/
def meetTag (ue : Option ReadErr) (i : Nat) (s : State) : State :=
  match ue with
  | some (.tag va) =>
    match lineAt s i va with
    | (s, some l) => lineLost s i l
    | (s, none) => s
  | some (.xlat va) =>
    let es := getTlb s (i / 16)
    let p := tlbMaps (getThread s i).aspace va
    match es.findIdx? p with
    | some k => copyLost (setTlb s (i / 16) (es.filter (fun e => !p e))) i k
    | none => s
  | some (.stride n) =>
    let t := getThread s i
    if t.streams.length ≤ n.toNat then s
    else copyLost (setThread s i { t with streams := t.streams.eraseIdx n.toNat }) i (4 * (i % 16) + n.toNat)
  | some (.ucode upc) =>
    let k := getCore s (i / 16)
    if upc.toNat ∈ k.ucache then
      copyLost (setCore s (i / 16) { k with ucache := k.ucache.filter (fun x => decide (x ≠ upc.toNat)) }) i upc.toNat
    else s
  | _ => s

/-- The instruction at the pc has issued and waits; `bad` says that an emergency save which a fault of it
causes will meet a fault (R105). -/
def markBegun (bad : Bool) (count : State → State) (s : State) (i : Nat) : State :=
  let t := getThread s i
  if t.mode = .off ∨ t.custom.isSome = true then s
  else modThread (count s) i (fun t => { t with begun := true, saveBad := bad })

/-- Nothing of a unit holds the thread while its instruction is presented. -/
def clearHold (s : State) (i : Nat) : State :=
  if (getThread s i).hold = .none then s else modThread s i (fun t => { t with hold := .none })

/-- Present an instruction of `words` words and apply what its body answers. An instruction that has issued
and waited is not fetched or counted again. -/
def issueWords (x : Iss) (words : Nat) (body : Nat → State → Body) (s : State) : State :=
  let i := thrIx x.thr
  let t := getThread s i
  if canIssue s i = false ∨ (t.begun = false ∧ inTurn s x.busy i = false) then s else
  let s := meetTag x.ue i (clearHold s i)
  let bad := decide (x.ue = some .save)
  let count (s : State) : State := if t.begun then s else countIssue s i
  match (if t.begun then (s, .ok) else fetchWords x.ue i words s t.pc) with
  | (s, .fault c info) => takeFault bad s i c info
  | (s, .wait) => s
  | (s, .ok) =>
    match body i s with
    | .done s => retire (count s) i t.ring t.ss (t.pc + wd (4 * words))
    | .goto s pc => retire (count s) i t.ring t.ss pc
    | .again s => markBegun bad count s i
    | .stall s n => modThread s i (fun t => { t with hold := .unit n })
    | .trap s c info => takeFault bad (count s) i c info

/-- MEM_SRAM at an instruction that consumes bad data, reported to the safety controller (R463). -/
def sramTrap (s : State) (i : Nat) (info : Word) : Body :=
  .trap (ueIn s (unitOf (i / 16 / 34) (i / 16 % 34)) info inCore) 0x41 info

/-- A body whose instruction meets an uncorrectable error of a structure at its first element (log entry
63): another fault at that element comes first where its cause code is lower (R92), and an instruction that
waits has not read yet. -/
def meetError (ue : Option ReadErr) (body : Nat → State → Body) (i : Nat) (s : State) : Body :=
  match ue with
  | some (.index n) =>
    let t := getThread s i
    match body i s with
    | .trap u c w =>
      let v := getThread u i
      if c < 0x41 ∧ v.vstart = t.vstart ∧ v.tstart = t.tstart then .trap u c w else sramTrap s i n
    | .again u => .again u
    | .stall u k => .stall u k
    | _ => sramTrap s i n
  | _ => body i s

/-- ILLEGAL_INSTR at the pc. -/
def illegal (s : State) (i : Nat) : Body := .trap s 0x03 (getThread s i).pc

/-- A word found where the base word is expected spells an instruction of its own, or begins a long form:
the row of this command is not what issues. -/
def spells (x : Iss) (w : BitVec 32) : Bool :=
  (decodeWord x w).isSome || (x.long.isNone && decide (wordBits w 26 6 = 0x3F))

/-- Issue of an instruction. A word that no table defines, or a second prefix, is illegal (R60, R63). -/
def issue (x : Iss) (body : Nat → State → Body) (s : State) : State :=
  match x.code with
  | none => issueWords x (issWords x) (meetError x.ue body) s
  | some w =>
    if spells x w then s
    else issueWords x (if x.long.isSome then 2 else 1) (fun i s => illegal s i) s

/-- An instruction that has no long form and whose reserved fields must be 0 (R60, R63, R550). -/
def shortOnly (x : Iss) (reservedZero : Bool) (body : Nat → State → Body) (i : Nat) (s : State) :
    Body :=
  if x.long.isSome || !reservedZero then illegal s i else body i s

/-- Prefix fields other than the literal are all 0. -/
def plainPfx (p : Pfx) : Bool := decide (p.x1 = 0 ∧ p.x2 = 0 ∧ p.x3 = 0 ∧ p.xf = 0)

/-- The immediate or offset of an instruction whose long form takes literal words and nothing else: the
literal, or the base word's own value `short` where there is none (log entry 117); none where the form
is illegal. -/
def literalOr (x : Iss) (short : Word) : Option Word :=
  match x.long with
  | none => some short
  | some p =>
    if plainPfx p = false then none else
    match p.lit with
    | .none => some short
    | l => litValue l

/-- Write a general register of a thread. -/
def writeG (s : State) (i : Nat) (d : BitVec 5) (w : Word) : State :=
  modThread s i (fun t => setG t d w)

/-- OR flags into FFLAGS of an instruction that stops at a boundary (R122). -/
def orFlags (s : State) (i : Nat) (f : FFlags) : State :=
  modThread s i (fun t => { t with fflags := t.fflags ||| f })

/-- OR flags into FFLAGS of an instruction that completes; flags that STATUS.FTE enables raise FP_TRAP after the instruction
(R121, R122). -/
def raiseFlags (s : State) (i : Nat) (f : FFlags) : State :=
  let t := getThread s i
  let s := setThread s i { t with fflags := t.fflags ||| f }
  if f &&& t.fte = 0 then s else addDeferred s i 0x20 (wd (f &&& t.fte).toNat)

end Sys2Proof.Machine
end

