-- ==== Sys2Proof/Machine/L1.lean ====
section
/-! DEFINITION. What a core's memory instructions share: lines in L1 and in flight, miss registers,
prefetch (R286, R289 to R304), the accesses of one element or row, and its writes. -/

namespace Sys2Proof.Machine

open Sys2Proof

/-! ### Lines -/

/-- A line that a thread can read: the gather at its pc has read it (R175), its L1 holds it, or it was
delivered to the waiting instruction and its L1 does not keep it. A line that an own accumulating write will
still change comes from home (R369). -/
def findLine (s : State) (i l : Nat) : Option Line :=
  let t := getThread s i
  match tabFind t.gathered l with
  | some d => some d
  | none =>
    if ownUpdate s (queueOf i) l then none else
    match tabFind (getCore s (i / 16)).l1d l with
    | some e => some e.data
    | none => tabFind t.got l

/-- A hit makes a line's age 0 and clears its prefetch flag (R291). -/
def touchLine (s : State) (ci l : Nat) : State :=
  let k := getCore s ci
  match tabFind k.l1d l with
  | some e => setCore s ci { k with l1d := tabPut k.l1d l { e with age := 0, pf := false } }
  | none => s

/-- The first demand hit on a prefetched line. -/
def firstHit (s : State) (ci l : Nat) : Bool :=
  match tabFind (getCore s ci).l1d l with
  | some e => e.pf
  | none => false

/-! ### Miss registers (R296 to R301) -/

/-- A miss register is free for a line. -/
def missFits (s : State) (ci l : Nat) : Bool :=
  let m := (getCore s ci).misses
  if l1Blocks s ci then m.isEmpty
  else decide (m.length < 64 ∧ (m.filter (fun x => lineBank x.line = lineBank l)).length < 8)

def isPrefetch (r : Req) : Bool :=
  match r.kind with
  | .prefetch _ => true
  | _ => false

def isAmo (r : Req) : Bool :=
  match r.kind with
  | .amo _ _ _ _ _ _ _ => true
  | _ => false

/-- Take a miss register and send the request. -/
def startMiss (s : State) (r : Req) : State :=
  let k := getCore s r.core
  let m : Miss := { line := r.line, pf := isPrefetch r, amo := isAmo r }
  let s := setCore s r.core { k with misses := k.misses ++ [m] }
  let s := if isPrefetch r then raddSat s (coreReg r.core 0x88) 0 32 1
           else radd s (coreReg r.core 0x78) 1
  sendReq s r

/-- A miss to a line is pending, or waits under R297. -/
def missPending (k : Core) (l : Nat) : Bool :=
  k.misses.any (fun m => decide (m.line = l)) || k.missWait.any (fun r => decide (r.line = l))

/-- The pending or waiting miss will bring the line itself, not the value of an atomic. -/
def lineComing (k : Core) (l : Nat) : Bool :=
  k.misses.any (fun m => decide (m.line = l) && !m.amo) ||
  k.missWait.any (fun r => decide (r.line = l) && !isAmo r)

/-- A demand request: it attaches to a pending miss, takes a register, or waits for one (R296, R297). One
that attaches and needs what the pending miss does not bring, an atomic's value or the line after an
atomic, goes to the home bank without a register of its own (log entry 108). -/
def demand (s : State) (r : Req) : State :=
  let k := getCore s r.core
  if missPending k r.line && !l1Blocks s r.core then
    let s := radd s (coreReg r.core 0x80) 1
    if isAmo r || !lineComing k r.line then sendReq s r else s
  else if missFits s r.core r.line && k.missWait.all (fun x => lineBank x.line ≠ lineBank r.line)
  then startMiss s r
  else setCore s r.core { k with missWait := k.missWait ++ [r] }

/-! ### Lines that arrive (R33, R69, R289, R296) -/

/-- A waiting scalar load completes. -/
def finishLoad (s : State) (i : Nat) (p : PendLoad) (d : Line) : State :=
  let v := lineGet d (p.addr % 128) p.size
  let w := if p.signed then wdInt (sext (8 * p.size) v) else wd v
  let s := noteSeen (writeG s i p.d w) i p.line
  let t := getThread s i
  let s := setThread s i { t with hold := .none, loads := [] }
  retire s i t.ring t.ss (t.pc + wd p.len)

/-- Take a line out of what a waiting instruction needs; a thread with no line left is ready. -/
def lineArrived (h : Hold) (l : Nat) : Hold :=
  match h with
  | .line ls =>
    let rest := ls.filter (fun x => decide (x ≠ l))
    if rest.isEmpty then .none else .line rest
  | h => h

/-- A waiting instruction needs more lines of one L1 set at once than the set has ways. -/
def overflows (h : Hold) (l : Nat) : Bool :=
  match h with
  | .line ls => decide (16 < (ls.filter (fun x => decide (x % 128 = l % 128))).length)
  | _ => false

/-- A line arrives for one thread. It is read from L1 when it is used (R290); the thread holds one that its
L1 does not keep (R295), and one of more lines than its L1 set can hold at once (log entry 134). -/
def fillThread (keep : Bool) (d : Line) (l : Nat) (s : State) (i : Nat) : State :=
  let t := getThread s i
  match t.loads.find? (fun p => decide (p.line = l)) with
  | some p => finishLoad s i p d
  | none =>
    if l ∈ t.asked then
      setThread s i { t with
        asked := t.asked.filter (fun x => decide (x ≠ l))
        got := if keep && !overflows t.hold l then t.got else tabPut t.got l d
        hold := lineArrived t.hold l }
    else s

/-- The threads of a core. -/
def coreThreads (ci : Nat) : List Nat := (List.range 16).map (fun n => 16 * ci + n)

/-- Serve the waiting misses that now fit, in their order of arrival; one whose line has entered L1
meanwhile is served from there. -/
def serveWaiting (ci : Nat) : List Req → State → State
  | [], s => s
  | r :: t, s =>
    let k := getCore s ci
    match (if isAmo r then none else tabFind k.l1d r.line) with
    | some e => serveWaiting ci t ((coreThreads ci).foldl (fillThread true e.data r.line) s)
    | none =>
      if missFits s ci r.line then serveWaiting ci t (startMiss s r)
      else serveWaiting ci t (setCore s ci { k with missWait := k.missWait ++ [r] })

/-- A miss has completed: its register is free, and waiting misses are looked at again. -/
def endMiss (s : State) (ci l : Nat) (amo : Bool) : State :=
  let k := getCore s ci
  let ms := match takeFirst (fun m : Miss => decide (m.line = l ∧ m.amo = amo)) k.misses with
    | some x => x.2
    | none => k.misses
  serveWaiting ci k.missWait (setCore s ci { k with misses := ms, missWait := [] })

/-- Request a line for the instruction at the pc, once. -/
def askLine (i cls age l2age : Nat) (s : State) (l : Nat) : State :=
  let t := getThread s i
  if l ∈ t.asked ∨ (findLine s i l).isSome ∨ (tabFind t.badGot l).isSome then s else
  let s := setThread s i { t with asked := t.asked ++ [l] }
  demand s { kind := .load, wid := 0, core := i / 16, thr := i, line := l, cls := cls, age := age,
             l2age := l2age }

/-! ### Prefetch (R298, R302 to R304) -/

def prefetchLine (i cls age : Nat) (l2only : Bool) (s : State) (l : Nat) : State :=
  let ci := i / 16
  let k := getCore s ci
  if (tabFind k.l1d l).isSome || missPending k l || l1Blocks s ci then s
  else if inMemory s (128 * l) && missFits s ci l &&
      decide ((k.misses.filter (fun m => m.pf)).length < 16) then
    startMiss s { kind := .prefetch l2only, wid := 0, core := ci, thr := i, line := l, cls := cls, age := age,
                  l2age := 2 }
  else raddSat s (coreReg ci 0x88) 32 32 1

/-- Prefetch the lines ahead of x on a confident stream, inside x's 64 KiB region. -/
def prefetchAhead (s : State) (i x : Nat) (st : Stream) : State :=
  if !st.conf then s else
  (List.range (getThread s i).pfctl.toNat).foldl (fun s k =>
    let y : Int := (x : Int) + (k + 1 : Nat) * st.stride
    if y / 512 = (x : Int) / 512 ∧ 0 ≤ y
    then prefetchLine i (coreCls (i / 16) 5) 2 false s y.toNat else s) s

/-- A training access of the stride detector at line x (R302). Streams are kept most recently used
first. -/
def train (i : Nat) (s : State) (x : Nat) : State :=
  let t := getThread s i
  let xi : Int := x
  if t.pfctl = 0 then s else
  let near := takeFirst
    (fun m : Stream => decide ((xi - m.last).natAbs ≤ 32 ∧ m.last ≠ xi)) t.streams
  if t.streams.any (fun m => decide (m.last = xi)) then
    match near with
    | some (m, _) => prefetchAhead s i x m
    | none => s
  else match near with
  | none =>
    setThread s i { t with
      streams := { last := xi, stride := 0, conf := false } :: t.streams.take 3 }
  | some (m, rest) =>
    let d := xi - m.last
    let st : Stream := { last := xi, stride := d, conf := decide (d = m.stride) }
    prefetchAhead (setThread s i { t with streams := st :: rest }) i x st

/-- Insert into a rising list, keeping repeats out. -/
def lineSetOf (xs : List Nat) : List Nat := xs.foldl (fun a l => insertNat l a) []

/-! ### The accesses of one element or row -/

/-- Of two answers for accesses of one element or row, the one that counts: a fault before a held
write, and among faults the lowest cause code (R92). -/
def pickFault (x y : XRes) : XRes :=
  match x, y with
  | .trap c i, .trap d j => if d < c then .trap d j else .trap c i
  | .trap c i, _ => .trap c i
  | _, .trap d j => .trap d j
  | x, _ => x

/-- Translate the accesses of one element or row; an address that is not a multiple of `align` raises
ALIGNMENT. -/
def xlatAll (a : Agent) (k : Acc) (align : Nat) :
    List (Word × Nat) → State → State × (List Nat ⊕ XRes)
  | [], s => (s, .inl [])
  | (va, _) :: t, s =>
    let r := if va.toNat % align ≠ 0 then (s, .trap 0x05 va) else xlat a k s va
    match r.2, xlatAll a k align t r.1 with
    | .to pa, (s, .inl ps) => (s, .inl (pa :: ps))
    | .to _, (s, .inr y) => (s, .inr y)
    | x, (s, .inl _) => (s, .inr x)
    | x, (s, .inr y) => (s, .inr (pickFault x y))

/-- Unreadable lines of accesses, each with its access and cause code: the one that counts is the first
of the lowest code (R92). -/
def worstLine : List (Nat × Word × BitVec 8) → Option (Nat × Word × BitVec 8)
  | [] => none
  | e :: t =>
    match worstLine t with
    | some b => if b.2.2 < e.2.2 then some b else some e
    | none => some e

/-- The unreadable lines among translated accesses: those reported to the waiting thread, and a line of
L1 in which the instruction meets an uncorrectable word. -/
def badAccs (x : Iss) (i : Nat) (s : State) (ps : List (Nat × Word × Nat)) :
    List (Nat × Word × BitVec 8) :=
  let bad := (getThread s i).badGot
  ps.filterMap (fun p =>
    match tabFind bad (p.1 / 128) with
    | some c => some (p.1 / 128, p.2.1, c)
    | none => if meetsAt x.ue p.2.1 p.2.2 then some (p.1 / 128, p.2.1, 0x41) else none)

/-- Drop a line from the L1 data cache of a core (R305). -/
def dropL1 (s : State) (ci l : Nat) : State :=
  let k := getCore s ci
  setCore s ci { k with l1d := tabDel k.l1d l }

/-- Read the accesses of one element or row through L1. Every access lies in one line. -/
def gather (x : Iss) (i : Nat) (a : Agent) (align : Nat) (accs : List (Word × Nat)) (s : State) :
    State × Got :=
  match xlatAll a .load align accs s with
  | (s, .inr (.trap c info)) => (s, .fault c info)
  | (s, .inr _) => (s, .vals [])
  | (s, .inl ps) =>
    let bad := (getThread s i).badGot
    let missing := lineSetOf ((ps.map (· / 128)).filter (fun l =>
      (findLine s i l).isNone && (tabFind bad l).isNone))
    if !missing.isEmpty then (s, .miss missing) else
    match worstLine (badAccs x i s (ps.zip accs)) with
    | some (l, va, c) =>
      let s := dropL1 s (i / 16) l
      let e := if (tabFind bad l).isSome then memError s a l va c else l1Error s a l va
      (e.1, .fault e.2.1 e.2.2)
    | none =>
      let vs := (ps.zip accs).map (fun p =>
        lineGet ((findLine s i (p.1 / 128)).getD 0) (p.1 % 128) p.2.2)
      ((ps.map (· / 128)).foldl (fun s l => noteSeen (touchLine s (i / 16) l) i l) s, .vals vs)

/-- Lines that later elements or rows will need, up to the first that faults. -/
def ahead (i : Nat) (a : Agent) (align : Nat) : List (List (Word × Nat)) → State → State × List Nat
  | [], s => (s, [])
  | accs :: t, s =>
    match xlatAll a .load align accs s with
    | (s, .inl ps) =>
      let r := ahead i a align t s
      (r.1, ps.map (· / 128) ++ r.2)
    | (s, .inr _) => (s, [])

/-- Lines of accesses that train the stride detector: those that miss and have not been requested,
and first hits on prefetched lines. -/
def trainingLines (s : State) (i : Nat) (ls : List Nat) : List Nat :=
  lineSetOf (ls.filter (fun l => firstHit s (i / 16) l ||
    ((findLine s i l).isNone && decide (l ∉ (getThread s i).asked))))

/-- Process elements or rows in ascending order, each with its index and its accesses, until one
misses or faults. -/
def gatherAll (x : Iss) (i : Nat) (a : Agent) (align : Nat) (put : Nat → List Nat → State → State) :
    List (Nat × List (Word × Nat)) → State → State × Option (Nat × Got)
  | [], s => (s, none)
  | (k, accs) :: t, s =>
    match gather x i a align accs s with
    | (s, .vals vs) => gatherAll x i a align put t (put k vs s)
    | (s, g) => (s, some (k, g))

/-! ### The writes of one element or row -/

def Wr.addr : Wr → Word
  | .put va _ _ => va
  | .nib va _ _ => va
  | .acc va _ _ _ => va

/-- What the writes of one element or row put into one line: its number, the virtual address of the
first write to it, the bits written and their values. -/
abbrev LineWr := Nat × Word × Line × Line

/-- Add bits to the writes of a line; a later write to a bit prevails. -/
def addBits (l : Nat) (va : Word) (mask data : Line) : List LineWr → List LineWr
  | [] => [(l, va, mask, data)]
  | e :: t =>
    if e.1 = l then (l, e.2.1, e.2.2.1 ||| mask, lineMask e.2.2.2 mask data) :: t
    else e :: addBits l va mask data t

/-- Add an accumulating element to the line updates of one write: one update for each line, operation
and format (R278). -/
def addUpdate (u : AccUpd) : List AccUpd → List AccUpd
  | [] => [u]
  | e :: t =>
    if e.line = u.line ∧ e.acc = u.acc ∧ e.fmt = u.fmt then accJoin e u :: t else e :: addUpdate u t

/-- The writes of one element or row by line, and its line updates. -/
def planWrites (a : Agent) (ws : List (Nat × Wr)) : List LineWr × List AccUpd :=
  ws.foldl (fun (p : List LineWr × List AccUpd) e =>
    let l := e.1 / 128
    let off := e.1 % 128
    match e.2 with
    | .put va size v => (addBits l va (byteMask off size) (byteData off size v) p.1, p.2)
    | .nib va high v =>
      let pos := 8 * off + (if high then 4 else 0)
      (addBits l va (BitVec.ofNat 1024 (15 <<< pos)) (BitVec.ofNat 1024 ((v % 16) <<< pos)) p.1, p.2)
    | .acc _ op fmt v =>
      (p.1, addUpdate
        { line := l, acc := BitVec.ofNat 3 op, fmt := BitVec.ofNat 4 fmt
          elems := [(off / (fmtWidth fmt / 8), wd (accPartial op fmt v))], agents := [a.who]
          cls := a.cls, age := 0 } p.2)) ([], [])

/-- The first line of a plan that lies in a lost set (R308). -/
def firstRefused (s : State) (p : List LineWr × List AccUpd) : Option Nat :=
  (p.1.map (·.1) ++ p.2.map (·.line)).find? (refused s)

/-- The writes of a plan pass their banks, line by line, and what comes before them on their paths is
performed: own stores, and updates of the lines that are written (R279, R369). -/
def passPlan (a : Agent) (p : List LineWr × List AccUpd) (s : State) : State :=
  p.2.foldl (fun s u => drainFor (passBank s a u.line) a u.line)
    (p.1.foldl (fun s e => passWrite s a e.1 e.2.2.1) s)

/-- Perform the writes of one element or row of a thread, line by line; a line in a lost set faults before
any is written. A partial write of an unreadable line is not performed and is logged (R464). -/
def performAll (a : Agent) (ws : List (Nat × Wr)) (s : State) : State × Put :=
  let p := planWrites a ws
  let s := passPlan a p s
  match firstRefused s p with
  | some l => ((memError s a l 0 0x43).1, .fault 0x43 (wd (128 * l)))
  | none =>
    let s := p.1.foldl (fun s e =>
      match writeLine s a e.1 e.2.2.1 e.2.2.2 with
      | (s, none) => s
      | (s, some _) => ueConsumed s (agentUnit a) (wd (128 * e.1))) s
    (p.2.foldl sendUpdate s, .ok)

/-- Check every write of one element or row, then perform them. -/
def scatter (a : Agent) (align : Nat) (ws : List Wr) (s : State) : State × Put :=
  match xlatAll a .store align (ws.map (fun w => (w.addr, 0))) s with
  | (s, .inr (.trap c info)) => (s, .fault c info)
  | (s, .inr (.held n)) => (s, .held n)
  | (s, .inr _) => (s, .ok)
  | (s, .inl ps) => performAll a (ps.zip ws) s

/-- Write elements or rows in ascending order; `after` follows each that has been written. -/
def scatterAll (a : Agent) (align : Nat) (after : Nat → State → State) :
    List (Nat × List Wr) → State → State × Option (Nat × Put)
  | [], s => (s, none)
  | (k, ws) :: t, s =>
    match scatter a align ws s with
    | (s, .ok) => scatterAll a align after t (after k s)
    | (s, p) => (s, some (k, p))

/-! ### Positions and waiting -/

/-- An access through L1 waits while a blocking L1 has its miss pending (R300). -/
def l1Open (body : Nat → State → Body) (i : Nat) (s : State) : Body :=
  if l1Closed s (i / 16) then .stall s .l1 else body i s

/-- Stop an instruction at a boundary: `pos` records the position, and CAUSE.POS will be 1. -/
def stopAt (s : State) (i : Nat) (pos : Thread → Thread) : State :=
  modThread s i (fun t => { pos t with partway := true })

/-- A write of an instruction that stands at a boundary is held by the context manager (R98, R178,
R197): an interrupt can be taken. -/
def holdAt (s : State) (i : Nat) (need : CtxNeed) : Body := .again (holdWrite s (some i) need)

/-- A write of an instruction that runs to completion is held (R205): nothing is taken before it has
completed. -/
def holdThrough (s : State) (i : Nat) (need : CtxNeed) : Body :=
  .again (modThread (holdWrite s (some i) need) i (fun t => { t with midway := true }))

/-- Wait for lines: the instruction is presented again when they have arrived. -/
def waitLines (s : State) (i : Nat) (cls age l2age : Nat) (lines more : List Nat) : State :=
  let s := (lines ++ more).foldl (askLine i cls age l2age) s
  modThread s i (fun t => { t with hold := .line lines })

end Sys2Proof.Machine
end

