-- ==== Sys2Proof/Machine/Tensor.lean ====
section
/-! DEFINITION. Tensor descriptors (R250 to R266, R271, R272, R553): their fields and checks, the map
from positions to addresses, bounds and padding, and the reads and writes of elements through one.
A descriptor is the list of its eight words. -/

namespace Sys2Proof.Machine

open Sys2Proof

/-! ### Fields (R250) -/

def dWord (ws : List Word) (k : Nat) : Word := (ws.drop k).headD 0
def dNdim (ws : List Word) : Nat := field (dWord ws 0) 56 3
def dPad (ws : List Word) : Bool := bit (dWord ws 0) 55
def dAcc (ws : List Word) : Nat := field (dWord ws 0) 52 3
def dFmt (ws : List Word) : Nat := field (dWord ws 0) 48 4
def dBase (ws : List Word) : Nat := field (dWord ws 0) 0 48
def dFill (ws : List Word) : Nat := field (dWord ws 1) 0 32

/-- Extent, padded extent and stride of a dimension; a dimension at or above NDIM has 1, 1, 0. -/
def dExt (ws : List Word) (d : Nat) : Nat :=
  if d < dNdim ws then field (dWord ws (2 + d)) 36 24 else 1
def dPext (ws : List Word) (d : Nat) : Nat :=
  let p := 2 ^ field (dWord ws (2 + d)) 60 4
  if d < dNdim ws then (dExt ws d + p - 1) / p * p else 1
def dStride (ws : List Word) (d : Nat) : Int :=
  if d < dNdim ws then sext 36 (field (dWord ws (2 + d)) 0 36) else 0

/-- Bytes of an element, 1 for a 4-bit format. -/
def fmtBytes (f : Nat) : Nat := max 1 (fmtWidth f / 8)

def is4 (f : Nat) : Bool := decide (f = 5 ∨ f = 6)

/-- Bits of FILL that must be 0. -/
def fillSpare (ws : List Word) : Nat :=
  let f := dFill ws
  match dFmt ws with
  | 0 | 1 | 7 | 8 | 9 => f / 2 ^ 8
  | 2 | 10 => f / 2 ^ 16
  | 5 => f / 2 ^ 4
  | 6 => f / 2 ^ 4 % 2 ^ 4
  | _ => 0

/-- None of the conditions of R251 on a descriptor's contents holds; `accepts` are the formats the
unit accepts. -/
def descLegal (ws : List Word) (accepts : Nat → Bool) : Bool :=
  let f := dFmt ws
  let n := dNdim ws
  let w1 := dWord ws 1
  let rmask := field w1 49 4
  let bmask := field w1 38 5
  let dims := List.range 6
  decide (field (dWord ws 0) 59 5 = 0 ∧ field w1 53 11 = 0 ∧ fillSpare ws = 0) &&
  decide (1 ≤ n ∧ n ≤ 6) &&
  dims.all (fun d => if d < n then decide (dExt ws d ≠ 0) else decide (dWord ws (2 + d) = 0)) &&
  decide (f < 13) && accepts f &&
  decide (dBase ws % fmtBytes f = 0) &&
  decide (dAcc ws < 4 ∧ (dAcc ws = 0 ∨ f = 12 ∨ f = 11 ∨ f = 10 ∨ f = 4 ∨ f = 3)) &&
  decide ((rmask = 0 ∧ bmask = 0) ∨ dBase ws % 4096 = 0) &&
  decide (rmask = 0 ∨ 8 ≤ field w1 43 6) && decide (bmask = 0 ∨ 12 ≤ field w1 32 6) &&
  (decide (f ≠ 6) ||
    (decide (dStride ws 0 = 1 ∧ dPad ws = false ∧ dAcc ws = 0) &&
     dims.all (fun d => decide (d = 0 ∨ dStride ws d % 32 = 0))))

/-- The code a pad or out-of-bounds element reads as (R250, R258). -/
def fillCode (ws : List Word) : Nat :=
  let f := dFill ws
  match dFmt ws with
  | 3 | 11 => f
  | 4 => intCode 64 (sext 32 f)
  | 12 =>
    match decodeFmt 11 f with
    | .nan _ _ => infCode 12 (decide (2 ^ 31 ≤ f)) + f % 2 ^ 23 * 2 ^ 29
    | x => (ieeeOf 12 0 x).1
  | 2 | 10 => f % 2 ^ 16
  | 5 | 6 => f % 2 ^ 4
  | _ => f % 2 ^ 8

/-! ### Positions (R254, R255) -/

/-- Coordinates of a quotient over dimensions d to 5. -/
def coordsFrom (ws : List Word) : Nat → Nat → Nat → List Nat
  | 0, _, rest => [rest]
  | k + 1, d, rest => rest % dPext ws d :: coordsFrom ws k (d + 1) (rest / dPext ws d)

/-- Coordinates of an element position. -/
def posCoords (ws : List Word) (p : Nat) : List Nat := coordsFrom ws 5 0 (p % 2 ^ 64)

/-- Coordinates of the elements of a row position of length `len`. -/
def rowCoords (ws : List Word) (q len : Nat) : List (List Nat) :=
  let t := coordsFrom ws 4 1 (q % 2 ^ 64)
  (List.range len).map (fun c => c :: t)

/-! ### Addresses and classes (R256, R257, R263, R265, R266) -/

/-- Element offset, in signed 64-bit arithmetic. -/
def elemOffset (ws : List Word) (cs : List Nat) : Int :=
  let e := ((List.range 6).zip cs).foldl (fun a x => a + (x.2 : Int) * dStride ws x.1) 0
  sext 64 (intCode 64 e)

/-- The swizzle. -/
def swizzle (ws : List Word) (a : Word) : Word :=
  let w1 := dWord ws 1
  let b := (a >>> field w1 32 6) &&& wd (field w1 38 5)
  let r := (a >>> field w1 43 6) &&& wd (field w1 49 4)
  a ^^^ (b <<< 7) ^^^ (r <<< 4)

/-- Byte address of an element offset. -/
def elemAddr (ws : List Word) (e : Int) : Word :=
  let bytes := if is4 (dFmt ws) then e / 2 else e * (fmtBytes (dFmt ws) : Nat)
  swizzle ws (wd (dBase ws) + wdInt bytes)

/-- Address of the scale of the block that holds an element offset. -/
def scaleAddr (ws : List Word) (e : Int) : Word :=
  wd (dBase ws) + wdInt (sext 24 (dFill ws / 2 ^ 8) * 4096 + e / 32)

/-- Class of an element: 0 in bounds, 1 pad, 2 out of bounds. A G4 block takes the class of its first
element. -/
def elemClass (ws : List Word) (cs : List Nat) : Nat :=
  let c0 := cs.headD 0
  let cs := (if dFmt ws = 6 then c0 / 32 * 32 else c0) :: cs.drop 1
  let xs := (List.range 6).zip cs
  if xs.all (fun x => decide (x.2 < dExt ws x.1)) then 0
  else if xs.all (fun x => decide (x.2 < dPext ws x.1)) then 1 else 2

/-! ### Reading elements (R258, R266, R553) -/

/-- Indices of a list of elements that start a block of 32. -/
def blockStarts {α : Type} (xs : List α) : List α :=
  (((List.range xs.length).zip xs).filter (fun p => decide (p.1 % 32 = 0))).map Prod.snd

/-- The accesses of elements, and of the scales of their blocks for a G4 tensor. -/
def readAccs (ws : List Word) (css : List (List Nat)) : List (Word × Nat) :=
  let ins (l : List (List Nat)) := l.filter (fun c => decide (elemClass ws c = 0))
  (ins css).map (fun c => (elemAddr ws (elemOffset ws c), fmtBytes (dFmt ws))) ++
  (if dFmt ws = 6 then
    (ins (blockStarts css)).map (fun c => (scaleAddr ws (elemOffset ws c), 1)) else [])

/-- Values of elements, given what their accesses returned in order. -/
def readVals (ws : List Word) : List (List Nat) → List Nat → List Nat
  | [], _ => []
  | c :: t, vs =>
    if elemClass ws c = 0 then
      let v := vs.headD 0
      let x := if is4 (dFmt ws) then
        (if elemOffset ws c % 2 = 0 then v % 16 else v / 16) else v
      x :: readVals ws t (vs.drop 1)
    else fillCode ws :: readVals ws t vs

/-- Scales of blocks, given what their accesses returned in order; 0x7F where the block is not in
bounds. -/
def readScales (ws : List Word) : List (List Nat) → List Nat → List Nat
  | [], _ => []
  | c :: t, vs =>
    if elemClass ws c = 0 then vs.headD 0 :: readScales ws t (vs.drop 1)
    else 0x7F :: readScales ws t vs

/-- Values and scales of a row or list of elements from the values of `readAccs`. -/
def rowVals (ws : List Word) (css : List (List Nat)) (vs : List Nat) : List Nat × List Nat :=
  let n := (css.filter (fun c => decide (elemClass ws c = 0))).length
  (readVals ws css (vs.take n),
   if dFmt ws = 6 then readScales ws (blockStarts css) (vs.drop n) else [])

/-! ### Writing elements (R259, R266, R553) -/

/-- The write of one element, if it makes one. -/
def elemWrite (ws : List Word) (c : List Nat) (code : Nat) : List Wr :=
  let e := elemOffset ws c
  let va := elemAddr ws e
  let plain (v : Nat) : List Wr :=
    if is4 (dFmt ws) then [.nib va (decide (e % 2 ≠ 0)) v] else [.put va (fmtBytes (dFmt ws)) v]
  match elemClass ws c with
  | 0 => if dAcc ws = 0 then plain code else [.acc va (dAcc ws) (dFmt ws) code]
  | 1 => if dPad ws then plain (fillCode ws) else []
  | _ => []

/-- The writes of elements in order, then of the scales of their blocks. -/
def rowWrites (ws : List Word) (css : List (List Nat)) (codes scales : List Nat) : List Wr :=
  (css.zip codes).flatMap (fun p => elemWrite ws p.1 p.2) ++
  (if dFmt ws = 6 then
    ((blockStarts css).zip scales).flatMap (fun p =>
      if elemClass ws p.1 = 0 then [.put (scaleAddr ws (elemOffset ws p.1)) 1 p.2] else [])
   else [])

/-- Elements that a write drops as out of bounds (R260). -/
def dropped (ws : List Word) (css : List (List Nat)) : Nat :=
  (css.filter (fun c => decide (elemClass ws c = 2))).length

/-- Add to a thread's OOB_COUNT. -/
def addOob (s : State) (i n : Nat) : State :=
  modThread s i (fun t => { t with oob := wd (satAdd (2 ^ 64 - 1) t.oob.toNat n) })

/-- Element positions from p on start at a block and cover whole blocks (R553). -/
def blocksWhole (ws : List Word) (p n : Nat) : Bool :=
  (List.range n).all (fun k =>
    decide ((posCoords ws (p + k)).headD 0 % 32 = k % 32)) && decide (n % 32 = 0)

/-! ### Reading a descriptor (R252) -/

/-- Read the descriptor at an address: an address that is not a multiple of 64 raises DESCRIPTOR
before any read. -/
def readDesc (a : Agent) (s : State) (addr : Word) : State × (List Word ⊕ (BitVec 8 × Word)) :=
  if addr.toNat % 64 ≠ 0 then (s, .inr (0x0E, addr)) else readWords a 8 s addr

/-- Read the words of a descriptor for the instruction of thread i, which reads each descriptor once, when
it issues (R252). -/
def readOnce (a : Agent) (i : Nat) (s : State) (addr : Word) :
    State × (List Word ⊕ (BitVec 8 × Word)) :=
  match (getThread s i).descs.lookup addr with
  | some ws => (s, .inl ws)
  | none =>
    match readDesc a s addr with
    | (s, .inl ws) => (modThread s i (fun t => { t with descs := t.descs ++ [(addr, ws)] }), .inl ws)
    | r => r

/-- Read once and check the descriptor of an instruction. -/
def openOnce (a : Agent) (i : Nat) (s : State) (addr : Word) (accepts : Nat → Bool) :
    State × (List Word ⊕ (BitVec 8 × Word)) :=
  match readOnce a i s addr with
  | (s, .inl ws) => if descLegal ws accepts then (s, .inl ws) else (s, .inr (0x0E, addr))
  | r => r

/-- Read and check a descriptor. -/
def openDesc (a : Agent) (s : State) (addr : Word) (accepts : Nat → Bool) :
    State × (List Word ⊕ (BitVec 8 × Word)) :=
  match readDesc a s addr with
  | (s, .inl ws) => if descLegal ws accepts then (s, .inl ws) else (s, .inr (0x0E, addr))
  | r => r

end Sys2Proof.Machine
end

