-- ==== Sys2Proof/Machine/ArrayBase.lean ====
section
/-! DEFINITION. The matrix array's shared operations: ownership, passes that run, stop and restart,
the outputs of rows, and the save areas of tiles and planes (R203, R213 to R247). -/

namespace Sys2Proof.Machine

open Sys2Proof

def getArr (s : State) (ci : Nat) : Arr := (getCore s ci).arr
def setArr (s : State) (ci : Nat) (a : Arr) : State := setCore s ci { getCore s ci with arr := a }

/-- The thread index of thread t of a core. -/
def coreThr (ci t : Nat) : Nat := 16 * ci + t

/-- ARRAY_STATE with a reason (R216, ASTAT.REASON). -/
def arrayState (s : State) (i reason : Nat) : Body :=
  .trap (modThread s i (fun t => { t with astatReason := BitVec.ofNat 8 reason })) 0x0C 0

/-- Reason why a thread may not use the array: 0 none, 1 OWNER, 2 LOST. -/
def notOwner (s : State) (i : Nat) : Nat :=
  let a := getArr s (i / 16)
  if a.owner = some (i % 16) then 0 else if i % 16 ∈ a.lost then 2 else 1

/-- The agent of a pass: class 2, with the ring and translation of its acceptance. -/
def passAgent (ci : Nat) (owner : Nat) (p : Pass) : Agent :=
  let i := coreThr ci owner
  { who := queueOf i, core := some ci, thr := some i, aspace := p.aspace, ring := p.ring.toNat,
    cls := 2, age := 2 }

/-- A thread's accesses of tile and plane data. -/
def tileAgent (s : State) (i : Nat) : Agent :=
  { threadAgent s i with cls := coreCls (i / 16) 1 }

/-! ### The end of a pass (R230, R242, R245, R246) -/

/-- OR a pass's flags into FFLAGS of the owner (R121, R122). -/
def passFlags (s : State) (i : Nat) (p : Pass) : State :=
  modThread s i (fun t => { t with fflags := t.fflags ||| p.flags })

/-- The pass has completed: APOS := 0, and its flags are raised (R121, R123; log entry 26). -/
def completePass (s : State) (ci owner : Nat) (p : Pass) : State :=
  let i := coreThr ci owner
  let s := modThread (raiseFlags s i p.flags) i (fun t => { t with apos := 0, astatStop := 0 })
  setArr s ci { getArr s ci with pass := none }

/-- The pass stops at row k with a fault, which the next reporting instruction raises. -/
def stopPass (s : State) (ci owner : Nat) (p : Pass) (k : Nat) (code : BitVec 8) (info : Word) :
    State :=
  let i := coreThr ci owner
  let s := modThread (passFlags s i p) i (fun t =>
    { t with apos := BitVec.ofNat 32 k, astatStop := code })
  setArr s ci { getArr s ci with pass := some { p with
    state := .stopped, inside := [], buffer := [], due := none, fault := some (code, info),
    enter := k, done := k, refused := false, flags := 0 } }

/-- Formats the stream port accepts: those of the front plane's mode (R210). -/
def sourceFmt (a : Arr) (f : Nat) : Bool :=
  a.front.use && decide (modeOf f < 6 ∧ modeOf f = modeOf a.front.fmt.toNat)

/-- Destination formats of a stream-mode pass (R226). -/
def streamDst (f : Nat) : Bool :=
  decide (f = 11 ∨ f = 3 ∨ f = 10 ∨ f = 8 ∨ f = 9 ∨ f = 2 ∨ f = 0 ∨ f = 1)

/-- Read the descriptors of a restored pass again (R252). A bad format shows as ARRAY_STATE, a fault
of the pass. -/
def rereadDesc (s : State) (ci owner : Nat) (p : Pass) : State × (Pass ⊕ (BitVec 8 × Word)) :=
  let a := passAgent ci owner p
  let src := if p.src then openDesc a s p.srcAddr (fun _ => true) else (s, .inl [])
  match src with
  | (s, .inr e) => (s, .inr e)
  | (s, .inl ws) =>
    let dst := if bit p.dspec 63 then openDesc a s p.daddr (fun _ => true) else (s, .inl [])
    match dst with
    | (s, .inr e) => (s, .inr e)
    | (s, .inl wd) =>
      let fmt := if p.src then BitVec.ofNat 4 (dFmt ws)
        else (getTile (getCore s ci) (p.srcAddr.toNat % 8)).fmt
      if !sourceFmt (getArr s ci) fmt.toNat || (bit p.dspec 63 && !streamDst (dFmt wd))
      then (s, .inr (0x0C, 0))
      else (s, .inl { p with srcDesc := ws, dstDesc := wd, fmt := fmt, reread := false })

/-- Restart a stopped pass at the owner's APOS (R246). -/
def restartPass (s : State) (ci owner : Nat) (p : Pass) : State :=
  let i := coreThr ci owner
  let t := getThread s i
  let k := t.apos.toNat
  if p.count ≤ k then completePass s ci owner p else
  let p := if p.reread then { p with ring := t.ring, aspace := t.aspace } else p
  let r := if p.reread then rereadDesc s ci owner p else (s, .inl p)
  match r with
  | (s, .inr e) => stopPass s ci owner p k e.1 e.2
  | (s, .inl p) =>
    let s := modThread s i (fun t => { t with astatStop := 0 })
    setArr s ci { getArr s ci with pass := some { p with
      state := .running, enter := k, done := k, refused := false, inside := [], buffer := []
      due := none } }

/-- An instruction of thread i that waits for a pass that `names` picks (R229, R245, R246): nothing
stands in its way, or what it answers. -/
def passGate (s : State) (i : Nat) (names : Pass → Bool) : State × Option Body :=
  let ci := i / 16
  let a := getArr s ci
  match a.pass with
  | none => (s, none)
  | some p =>
    if a.owner ≠ some (i % 16) ∨ names p = false then (s, none)
    else if !openTo a.resv i ∨ (a.saving ∧ a.resv.isNone) then (s, some (.stall s .pass))
    else if p.state ≠ .stopped then (s, some (.stall s .pass))
    else
      let raise (s : State) (p : Pass) (e : BitVec 8 × Word) : Body :=
        let s := setArr s ci { getArr s ci with pass := some { p with fault := none } }
        .trap (stopAt s i (fun t => if e.1 = 0x0C then { t with astatReason := 3 } else t)) e.1 e.2
      match p.fault with
      | some e => (s, some (raise s p e))
      | none =>
        let s := restartPass s ci (i % 16) p
        match (getArr s ci).pass with
        | none => (s, none)
        | some p =>
          match p.fault with
          | some e => (s, some (raise s p e))
          | none => (s, some (.stall s .pass))

/-- A pass of the thread is running or paused, or stopped: what a fence or an access to FFLAGS meets
(R230, R245). -/
def anyPass : Pass → Bool := fun _ => true

/-- The pass streams from tile t. -/
def fromTile (t : Nat) (p : Pass) : Bool := !p.src && decide (p.srcAddr.toNat % 8 = t)

/-! ### Outputs of rows (R225, R226, R236, R237, R239, R240) -/

/-- Element c of an accumulator row. -/
def accElem (p : AccPlane) (r c : Nat) : Nat :=
  ((tabGet (fun _ => (0 : AccRow)) p.rows r).toNat >>> (32 * c)) % 2 ^ 32

def setAccElem (p : AccPlane) (r c v : Nat) : AccPlane :=
  let old := tabGet (fun _ => (0 : AccRow)) p.rows r
  let m : AccRow := BitVec.ofNat 8192 ((2 ^ 32 - 1) <<< (32 * c))
  { use := true
    rows := tabSet (fun _ => 0) p.rows r
      ((old &&& ~~~m) ||| BitVec.ofNat 8192 ((v % 2 ^ 32) <<< (32 * c))) }

def getAcc (a : Arr) (n : Nat) : AccPlane := if n = 0 then a.acc0 else a.acc1
def setAcc (a : Arr) (n : Nat) (p : AccPlane) : Arr :=
  if n = 0 then { a with acc0 := p } else { a with acc1 := p }

/-- Convert an FP32 or I32 code to a target format (R240): `rm` for a float or integer target that is not
short, RND for one that is. -/
def convOut (isInt : Bool) (dst rm rnd r c : Nat) : Nat × FFlags :=
  let src := if isInt then 3 else 11
  if src = dst then (c, 0) else convFmt src dst rm rnd r (decodeFmt src c)

/-- Add an upset to one output's row sum, in units of 2^-800 or 1. -/
def upsetOut (float : Bool) (x : Fp) (d : Int) : Fp :=
  if d = 0 then x else
  match x with
  | .fin n m e =>
    let u : Int := if float then -800 else 0
    let lo := min e u
    let v := atExp n m e lo + atExp false d.natAbs u lo * (if d < 0 then -1 else 1)
    .fin (decide (v < 0)) v.natAbs lo
  | y => y

/-- Report a mismatch and give it to the owner (R237). -/
def noteMismatch (s : State) (ci owner : Nat) (p : Pass) (row : Nat) : State :=
  let i := coreThr ci owner
  let s := report s 0x0006 (unitOf (ci / 34) (ci % 34)) (wd row) 0
  let s := raddSat s (coreReg ci 0x70) 0 32 1
  modThread s i (fun t => { t with
    astatCount := BitVec.ofNat 16 (satAdd 65535 t.astatCount.toNat 1)
    csDue := if p.mismatched then t.csDue else some (wd row) })

/-- Apply the outputs of the oldest row inside. `upset` lists errors of the row sums by column. An output
that the context manager holds is refused, and holds the entry of rows (R228). FRM does not affect a pass
(R142; log entry 123). -/
def outputRow (s : State) (ci owner : Nat) (upset : List (BitVec 8 × Int)) : State :=
  let a := getArr s ci
  match a.pass with
  | none => s
  | some p =>
    match p.inside with
    | [] => s
    | row :: rest =>
      let m := modeOf a.front.fmt.toNat
      let float := modeFloat m
      let op := p.op.toNat
      let raw := rowOutputs a.front p.fmt.toNat op p.ax row
      let outs := if op = 0 then ((List.range raw.length).zip raw).map (fun e =>
        upsetOut float e.2 (((upset.filter (fun u => u.1.toNat = e.1)).map Prod.snd).foldl (· + ·) 0))
        else raw
      let bad := op = 0 && mismatch a.front p.fmt.toNat p.ax row outs
      let isInt := outIsInt float op
      let finish (s : State) (fl : FFlags) : State :=
        let s := radd s (coreReg ci 0x60) 1
        let p' : Pass := { p with
          inside := rest, done := row.idx + 1, refused := false, flags := p.flags ||| fl
          mismatched := p.mismatched || bad }
        let s := if bad then noteMismatch s ci owner p row.idx else s
        if row.idx + 1 = p.count then completePass s ci owner p'
        else setArr s ci { getArr s ci with pass := some p' }
      if bit p.dspec 63 then
        let df := dFmt p.dstDesc
        let rs := ((List.range outs.length).zip outs).map (fun e =>
          let v := accumulate float op true 0 e.2
          let r := if p.rnd = 2 then
            srBits (field p.seed 32 32) (field p.seed 0 32) ((row.idx * 256 + e.1) % 2 ^ 32) else 0
          let c := convOut isInt df 0 p.rnd.toNat r v.1
          (c.1, v.2 ||| c.2))
        let css := rowCoords p.dstDesc (p.dpos.toNat + row.idx) outs.length
        match scatter (passAgent ci owner p) 1
            (rowWrites p.dstDesc css (rs.map Prod.fst) []) s with
        | (s, .ok) =>
          finish (addOob s (coreThr ci owner) (dropped p.dstDesc css))
            (rs.foldl (fun f e => f ||| e.2) 0)
        | (s, .fault c info) => stopPass s ci owner p row.idx c info
        | (s, .held need) =>
          listHeld (setArr s ci { getArr s ci with pass := some { p with refused := true } })
            (some (coreThr ci owner)) need
      else
        let plane := field p.dspec 0 1
        let base := 128 * field p.dspec 1 1
        let r := field p.dspec 8 8 + row.idx
        let x := ((List.range outs.length).zip outs).foldl (fun (x : AccPlane × FFlags) e =>
          let v := accumulate float op (bit p.dspec 2) (accElem x.1 r (base + e.1)) e.2
          (setAccElem x.1 r (base + e.1) v.1, x.2 ||| v.2)) (getAcc a plane, 0)
        finish (setArr s ci (setAcc a plane x.1)) x.2

/-- Duty in force on a die (R542). -/
def dieDuty (s : State) (die : Nat) : Nat := min s.power.dp (tabGet (fun _ => 8) s.power.dt die)

/-- The arrays of a quadrant's die are paused in the present window (R243, R542). -/
def dutyPaused (s : State) (q : Nat) : Bool := decide (dieDuty s q ≤ s.power.window)

/-- The power manager pauses the array of a core: its die's window, or a stopped clock (R243, R488). -/
def arrayPaused (s : State) (ci : Nat) : Bool :=
  dutyPaused s (ci / 34) || !islandRuns s (coreIsland s ci)

/-- The array takes and moves rows: it is not paused, and its core is not under test (R243, R476). -/
def arrayRuns (s : State) (ci : Nat) : Bool := !arrayPaused s ci && !(getCore s ci).testing

/-- The outputs of the rows inside are applied, up to one that is refused. -/
def drainInside (ci owner : Nat) : Nat → State → State
  | 0, s => s
  | n + 1, s => drainInside ci owner n (outputRow s ci owner [])

/-- A pass with no row inside stops for a save, or is abandoned: at the row of a fault that is due there,
else at the first row that has not entered (R242, R247). -/
def haltPass (s : State) (ci owner : Nat) (p : Pass) : State :=
  let due := match p.due with
    | some (k, c, info) => if k ≤ p.done then some (k, c, info) else none
    | none => none
  match due with
  | some (k, c, info) => stopPass s ci owner p k c info
  | none =>
    let i := coreThr ci owner
    let s := modThread (passFlags s i p) i (fun t => { t with apos := BitVec.ofNat 32 p.enter })
    setArr s ci { getArr s ci with pass := some { p with
      state := .stopped, buffer := [], due := none, done := p.enter, flags := 0 } }

/-- A running pass takes no new row and stops when the rows inside have completed; false where they cannot
complete yet, in a pause (R247) or because an output is refused. -/
def settlePass (s : State) (ci owner : Nat) : State × Bool :=
  match (getArr s ci).pass with
  | none => (s, true)
  | some p =>
    if p.state = .stopped then (s, true)
    else if p.inside.isEmpty then (haltPass s ci owner p, true)
    else if !arrayRuns s ci then (s, false)
    else
      let s := drainInside ci owner p.inside.length s
      match (getArr s ci).pass with
      | none => (s, true)
      | some p =>
        if p.state = .stopped then (s, true)
        else if p.inside.isEmpty then (haltPass s ci owner p, true) else (s, false)

/-! ### Loading weights (R211, R221) -/

/-- The plane that a tile and a half give. -/
def planeOfTile (t : Tile) (half : Bool) : Plane :=
  let m := modeOf t.fmt.toNat
  let cols := (List.range (modeN m)).foldl (fun (c : Tab TileRow) j =>
    tabSet (fun _ => 0) c j
      (tabGet (fun _ => 0) t.rows (if mode16 m && half then 128 + j else j))) []
  let scales := if t.fmt = 6 then t.scales else []
  checkCells { Plane.zero with fmt := t.fmt, use := true, cols := cols, scales := scales }

/-- An a.ldw in progress completes. -/
def finishLdw (s : State) (ci : Nat) : State :=
  let a := getArr s ci
  match a.ldw with
  | none => s
  | some (t, h) =>
    setArr s ci { a with ldw := none, back := planeOfTile (getTile (getCore s ci) t) h }

/-- Steps 1 and 2 of R214: the pass stops and an a.ldw completes; false where they cannot yet. -/
def settleArray (s : State) (ci owner : Nat) : State × Bool :=
  let r := settlePass s ci owner
  if r.2 then (finishLdw r.1 ci, true) else r

/-! ### Save areas (R203, R204, R219, R220) -/

/-- Perform translated writes; the first that cannot be performed ends it. -/
def performStrict (a : Agent) : List (Nat × Word × Nat × Nat) → State → State × Put
  | [], s => (s, .ok)
  | (pa, va, size, v) :: t, s =>
    match writePa s a pa size v with
    | (s, none) => performStrict a t s
    | (s, some c) =>
      let e := memError s a (pa / 128) va c
      (e.1, .fault e.2.1 e.2.2)

/-- Check every write of a save, then perform them in order. -/
def saveWrites (a : Agent) (ws : List (Word × Nat × Nat)) (s : State) : State × Put :=
  match xlatAll a .store 1 (ws.map (fun w => (w.1, 0))) s with
  | (s, .inr (.trap c info)) => (s, .fault c info)
  | (s, .inr (.held n)) => (s, .held n)
  | (s, .inr _) => (s, .ok)
  | (s, .inl ps) => performStrict a (ps.zip ws) s

/-- Read pieces of memory in order, each in one line. -/
def readPieces (a : Agent) : List (Word × Nat) → State → State × (List Nat ⊕ (BitVec 8 × Word))
  | [], s => (s, .inl [])
  | (va, n) :: t, s =>
    match readVa a s va n with
    | (s, .inr e) => (s, .inr e)
    | (s, .inl v) =>
      match readPieces a t s with
      | (s, .inl vs) => (s, .inl (v :: vs))
      | r => r

/-- The pieces of `n` lines of a number from an address up. -/
def linePieces (va : Word) (n v : Nat) : List (Word × Nat × Nat) :=
  (List.range n).map (fun k => (va + wd (128 * k), 128, (v >>> (1024 * k)) % 2 ^ 1024))

/-- The addresses of `n` lines. -/
def lineAddrs (va : Word) (n : Nat) : List (Word × Nat) :=
  (List.range n).map (fun k => (va + wd (128 * k), 128))

/-- Join lines into a number. -/
def joinLines (vs : List Nat) : Nat := vs.foldr (fun v a => v + 2 ^ 1024 * a) 0

/-- The number of a table of rows of w bits, n rows. -/
def joinRows (w n : Nat) (f : Nat → Nat) : Nat :=
  (List.range n).foldr (fun k a => f k + 2 ^ w * a) 0

/-- A save-area pointer of the task-state block header (offset 0x10 tiles, 0x18 planes): the address;
none where TSB is 0 or the pointer is 0 or not a multiple of 0x1000. -/
def savePointer (s : State) (i off : Nat) : State × (Option Word ⊕ (BitVec 8 × Word)) :=
  let t := getThread s i
  if t.tsb = 0 then (s, .inl none) else
  let a := { tileAgent s i with ring := 0 }
  match readVa a s (t.tsb + wd off) 8 with
  | (s, .inr e) => (s, .inr e)
  | (s, .inl v) => (s, .inl (if v = 0 ∨ v % 0x1000 ≠ 0 then none else some (wd v)))

/-- Save the state of thread i through a pointer on behalf of thread `by_`; a missing save area is reported as STORE_ACCESS at the pointer (log
entry 28). -/
def saveThrough (s : State) (i by_ off : Nat) (parts : Word → List (Word × Nat × Nat)) : State × Put :=
  match savePointer s i off with
  | (s, .inr e) => (s, .fault e.1 e.2)
  | (s, .inl none) => (s, .fault 0x0A ((getThread s i).tsb + wd off))
  | (s, .inl (some base)) => saveWrites { tileAgent s i with ring := 0, thr := some by_ } (parts base) s

end Sys2Proof.Machine
end

