-- ==== Sys2Proof/Machine/Operands.lean ====
section
/-! DEFINITION. Operand forms of the scalar instructions (R59, R62, R66, R67, R71): where operands
come from, at which width, and where the result goes. -/

namespace Sys2Proof.Machine

open Sys2Proof

/-- A result at the selected width: a .i32 result is sign-extended from its low 32 bits (R66). -/
def atWidth (w32 : Bool) (v : Word) : Word := if w32 then (v.truncate 32).signExtend 64 else v

/-- An operand as a signed number of the selected width. -/
def sOpnd (w32 : Bool) (v : Word) : Int := if w32 then (v.truncate 32).toInt else v.toInt

/-- An operand as an unsigned number of the selected width. -/
def uOpnd (w32 : Bool) (v : Word) : Nat := if w32 then v.toNat % 2 ^ 32 else v.toNat

/-- Width in bits. -/
def widthOf (w32 : Bool) : Nat := if w32 then 32 else 64

/-- A two-operand operation: the width bit, a and b. -/
abbrev AluOp := Bool → Word → Word → Word

/-- reg format: d := op(a, b). -/
def regBody (x : Iss) (f : RegForm) (op : AluOp) : Nat → State → Body :=
  shortOnly x (decide (f.rsv = 0)) fun i s =>
    let t := getThread s i
    .done (writeG s i f.d (op f.w32 (getG t f.a) (getG t f.b)))

/-- imm format with an immediate or a literal: d := op(a, immediate). -/
def immBody (x : Iss) (w32 : Bool) (d a : BitVec 5) (imm : BitVec 16) (op : AluOp)
    (i : Nat) (s : State) : Body :=
  match literalOr x (imm.signExtend 64) with
  | none => illegal s i
  | some v => .done (writeG s i d (op w32 (getG (getThread s i) a) v))

/-- Register or .i64 immediate. -/
def logicBody (x : Iss) (f : LogicForm) (op : AluOp) : Nat → State → Body :=
  match f with
  | .reg r => regBody x r op
  | .imm d a imm => immBody x false d a imm op

/-- Shifts and rotates: register or immediate amount (R67, R71). -/
def shiftBody (x : Iss) (f : ShiftForm) (op : AluOp) : Nat → State → Body :=
  match f with
  | .reg r => regBody x r op
  | .imm d a rsv amount => shortOnly x (decide (rsv = 0)) fun i s =>
      .done (writeG s i d (op false (getG (getThread s i) a) (amount.zeroExtend 64)))

/-- Bit instructions of one operand: b and the reserved bits are 0, and so is the reflected bit;
`any` says that every width is defined, else the width code is 0b11 (R71). -/
def bitBody (x : Iss) (f : BitForm) (any : Bool) (op : Nat → Word → Word) : Nat → State → Body :=
  shortOnly x (decide (f.rsv = 0 ∧ f.b = 0 ∧ f.refl = false) && (any || decide (f.n = 3)))
    fun i s => .done (writeG s i f.d (op (8 * 2 ^ f.n.toNat) (getG (getThread s i) f.a)))

end Sys2Proof.Machine
end

