-- ==== Sys2Proof/Machine/Integer.lean ====
section
/-! DEFINITION. Integer, immediate, multiply, divide and bit instructions (R66 to R68, R71, R72,
R74). -/

namespace Sys2Proof.Machine

open Sys2Proof

/-! ### Operations -/

def aluAdd : AluOp := fun w a b => atWidth w (a + b)
def aluSub : AluOp := fun w a b => atWidth w (a - b)
def aluAnd : AluOp := fun w a b => atWidth w (a &&& b)
def aluOr : AluOp := fun w a b => atWidth w (a ||| b)
def aluXor : AluOp := fun w a b => atWidth w (a ^^^ b)

/-- A shift amount, modulo the width (R67). -/
def shiftAmount (w : Bool) (b : Word) : Nat := b.toNat % widthOf w

def aluSll : AluOp := fun w a b => atWidth w (a <<< shiftAmount w b)
def aluSrl : AluOp := fun w a b => atWidth w (wd (uOpnd w a >>> shiftAmount w b))
def aluSra : AluOp := fun w a b => wdInt (sOpnd w a >>> shiftAmount w b)
def aluRotl : AluOp := fun w a b =>
  let n := uOpnd w a
  let k := shiftAmount w b
  atWidth w (wd ((n <<< k) ||| (n >>> (widthOf w - k))))
def aluSlt : AluOp := fun w a b => wd (b2n (decide (sOpnd w a < sOpnd w b)))
def aluSltu : AluOp := fun w a b => wd (b2n (decide (uOpnd w a < uOpnd w b)))
def aluMin : AluOp := fun w a b => if sOpnd w a ≤ sOpnd w b then atWidth w a else atWidth w b
def aluMax : AluOp := fun w a b => if sOpnd w a < sOpnd w b then atWidth w b else atWidth w a
def aluMinu : AluOp := fun w a b => if uOpnd w a ≤ uOpnd w b then atWidth w a else atWidth w b
def aluMaxu : AluOp := fun w a b => if uOpnd w a < uOpnd w b then atWidth w b else atWidth w a
def aluMul : AluOp := fun w a b => atWidth w (a * b)
def aluMulh : AluOp := fun w a b => atWidth w (wdInt ((sOpnd w a * sOpnd w b) >>> widthOf w))
def aluMulhu : AluOp := fun w a b => atWidth w (wd ((uOpnd w a * uOpnd w b) >>> widthOf w))

/-- Division by zero gives all ones; the most negative value by −1 gives itself (R68). -/
def aluDiv : AluOp := fun w a b =>
  if sOpnd w b = 0 then ~~~0 else atWidth w (wdInt ((sOpnd w a).tdiv (sOpnd w b)))
def aluDivu : AluOp := fun w a b =>
  if uOpnd w b = 0 then ~~~0 else atWidth w (wd (uOpnd w a / uOpnd w b))
def aluRem : AluOp := fun w a b =>
  if sOpnd w b = 0 then atWidth w a else atWidth w (wdInt ((sOpnd w a).tmod (sOpnd w b)))
def aluRemu : AluOp := fun w a b =>
  if uOpnd w b = 0 then atWidth w a else atWidth w (wd (uOpnd w a % uOpnd w b))

/-! ### Bits (R72, R74) -/

def clz64 (a : Word) : Word := wd (64 - bitLen a.toNat)

/-- Number of 0 bits below the lowest 1 bit. -/
def ctz64 (a : Word) : Word := wd (((List.range 64).find? (fun k => bit a k)).getD 64)

def popc64 (a : Word) : Word := wd ((List.range 64).countP (fun k => bit a k))

/-- Exclusive-or of the low n bits. -/
def parity (n : Nat) (a : Word) : Word := wd ((List.range n).countP (fun k => bit a k) % 2)

/-- The bits of every aligned n-bit field reversed. -/
def brev (n : Nat) (a : Word) : Word :=
  (List.range 64).foldl (fun r k =>
    if bit a k then r ||| wd (2 ^ (k / n * n + (n - 1 - k % n))) else r) 0

/-- The normal CRC step: `n` input bits, most significant first (R72). -/
def crcNormal (poly b : Word) : Nat → Word → Word
  | 0, crc => crc
  | n + 1, crc =>
    let fb := bit crc 63 != bit b n
    let c := crc <<< 1
    crcNormal poly b n (if fb then c ^^^ poly else c)

/-- The reflected CRC step from input bit i on; p is the reversed polynomial. -/
def crcReflected (p b : Word) : Nat → Nat → Word → Word
  | 0, _, crc => crc
  | n + 1, i, crc =>
    let fb := bit crc 0 != bit b i
    let c := crc >>> 1
    crcReflected p b n (i + 1) (if fb then c ^^^ p else c)

/-- crc.s.n and crc.s.n.r. -/
def crcStep (refl : Bool) (n : Nat) (poly a b : Word) : Word :=
  if refl then crcReflected (brev 64 poly) b n 0 a else crcNormal poly b n a

/-! ### Meanings -/

def execAdd (x : Iss) (f : AddForm) (s : State) : Host.Outcome State Fault Refusal :=
  .next (issue x (match f with
    | .reg r => regBody x r aluAdd
    | .imm w32 d a imm => immBody x w32 d a imm aluAdd) s)
def execSub (x : Iss) (f : RegForm) (s : State) : Host.Outcome State Fault Refusal :=
  .next (issue x (regBody x f aluSub) s)
def execAnd (x : Iss) (f : LogicForm) (s : State) : Host.Outcome State Fault Refusal :=
  .next (issue x (logicBody x f aluAnd) s)
def execOr (x : Iss) (f : LogicForm) (s : State) : Host.Outcome State Fault Refusal :=
  .next (issue x (logicBody x f aluOr) s)
def execXor (x : Iss) (f : LogicForm) (s : State) : Host.Outcome State Fault Refusal :=
  .next (issue x (logicBody x f aluXor) s)
def execSll (x : Iss) (f : ShiftForm) (s : State) : Host.Outcome State Fault Refusal :=
  .next (issue x (shiftBody x f aluSll) s)
def execSrl (x : Iss) (f : ShiftForm) (s : State) : Host.Outcome State Fault Refusal :=
  .next (issue x (shiftBody x f aluSrl) s)
def execSra (x : Iss) (f : ShiftForm) (s : State) : Host.Outcome State Fault Refusal :=
  .next (issue x (shiftBody x f aluSra) s)
def execRotl (x : Iss) (f : ShiftForm) (s : State) : Host.Outcome State Fault Refusal :=
  .next (issue x (shiftBody x f aluRotl) s)
def execSlt (x : Iss) (f : LogicForm) (s : State) : Host.Outcome State Fault Refusal :=
  .next (issue x (logicBody x f aluSlt) s)
def execSltu (x : Iss) (f : RegForm) (s : State) : Host.Outcome State Fault Refusal :=
  .next (issue x (regBody x f aluSltu) s)
def execMin (x : Iss) (f : RegForm) (s : State) : Host.Outcome State Fault Refusal :=
  .next (issue x (regBody x f aluMin) s)
def execMax (x : Iss) (f : RegForm) (s : State) : Host.Outcome State Fault Refusal :=
  .next (issue x (regBody x f aluMax) s)
def execMinu (x : Iss) (f : RegForm) (s : State) : Host.Outcome State Fault Refusal :=
  .next (issue x (regBody x f aluMinu) s)
def execMaxu (x : Iss) (f : RegForm) (s : State) : Host.Outcome State Fault Refusal :=
  .next (issue x (regBody x f aluMaxu) s)

/-- li: d := the immediate or literal; field a is not read. -/
def execLi (x : Iss) (f : ImmForm) (s : State) : Host.Outcome State Fault Refusal :=
  .next (issue x (immBody x false f.d f.a f.imm (fun _ _ v => v)) s)

/-- lui: d := IMM sign-extended, shifted left by 16; no long form. -/
def execLui (x : Iss) (f : ImmForm) (s : State) : Host.Outcome State Fault Refusal :=
  .next (issue x (shortOnly x true fun i s =>
    .done (writeG s i f.d (f.imm.signExtend 64 <<< 16))) s)

def execMul (x : Iss) (f : RegForm) (s : State) : Host.Outcome State Fault Refusal :=
  .next (issue x (regBody x f aluMul) s)
def execMulh (x : Iss) (f : RegForm) (s : State) : Host.Outcome State Fault Refusal :=
  .next (issue x (regBody x f aluMulh) s)
def execMulhu (x : Iss) (f : RegForm) (s : State) : Host.Outcome State Fault Refusal :=
  .next (issue x (regBody x f aluMulhu) s)
def execDiv (x : Iss) (f : RegForm) (s : State) : Host.Outcome State Fault Refusal :=
  .next (issue x (regBody x f aluDiv) s)
def execDivu (x : Iss) (f : RegForm) (s : State) : Host.Outcome State Fault Refusal :=
  .next (issue x (regBody x f aluDivu) s)
def execRem (x : Iss) (f : RegForm) (s : State) : Host.Outcome State Fault Refusal :=
  .next (issue x (regBody x f aluRem) s)
def execRemu (x : Iss) (f : RegForm) (s : State) : Host.Outcome State Fault Refusal :=
  .next (issue x (regBody x f aluRemu) s)
def execClz (x : Iss) (f : BitForm) (s : State) : Host.Outcome State Fault Refusal :=
  .next (issue x (bitBody x f false fun _ => clz64) s)
def execCtz (x : Iss) (f : BitForm) (s : State) : Host.Outcome State Fault Refusal :=
  .next (issue x (bitBody x f false fun _ => ctz64) s)
def execPopc (x : Iss) (f : BitForm) (s : State) : Host.Outcome State Fault Refusal :=
  .next (issue x (bitBody x f false fun _ => popc64) s)
def execPar (x : Iss) (f : BitForm) (s : State) : Host.Outcome State Fault Refusal :=
  .next (issue x (bitBody x f true parity) s)
def execBrev (x : Iss) (f : BitForm) (s : State) : Host.Outcome State Fault Refusal :=
  .next (issue x (bitBody x f true brev) s)

/-- crc.s.n and crc.s.n.r: a CRC step with the thread's CRCPOLY. -/
def execCrcS (x : Iss) (f : BitForm) (s : State) : Host.Outcome State Fault Refusal :=
  .next (issue x (shortOnly x (decide (f.rsv = 0)) fun i s =>
    let t := getThread s i
    .done (writeG s i f.d (crcStep f.refl (8 * 2 ^ f.n.toNat) t.crcpoly (getG t f.a) (getG t f.b)))) s)

end Sys2Proof.Machine
end

