-- ==== Sys2Proof/Machine/VecBase.lean ====
section
/-! DEFINITION. What every vector instruction shares (R146 to R155): elements of register groups, the
element count limit, the configuration check, activity, the long form, and completion. -/

namespace Sys2Proof.Machine

open Sys2Proof

/-! ### Elements (R146, R147) -/

/-- Element i of width w of the operand whose first register is `n`. -/
def vget (t : Thread) (n w i : Nat) : Nat :=
  ((getV t (n + i * w / 4096)).toNat >>> (i * w % 4096)) % 2 ^ w

/-- A register with w bits at a bit position replaced. -/
def vregPut (v : VReg) (pos w x : Nat) : VReg :=
  let m : VReg := BitVec.ofNat 4096 ((2 ^ w - 1) <<< pos)
  (v &&& ~~~m) ||| BitVec.ofNat 4096 ((x % 2 ^ w) <<< pos)

def vput (t : Thread) (n w i x : Nat) : Thread :=
  let r := n + i * w / 4096
  setV t r (vregPut (getV t r) (i * w % 4096) w x)

/-- Write a list of elements by index. -/
def vputAll (t : Thread) (n w : Nat) (xs : List (Nat × Nat)) : Thread :=
  xs.foldl (fun t e => vput t n w e.1 e.2) t

/-- Write bits of a mask register. -/
def maskPutAll (t : Thread) (r : Nat) (xs : List (Nat × Bool)) : Thread :=
  setM t r (xs.foldl (fun m e => vregPut m e.1 1 (b2n e.2)) (getM t r))

/-! ### Configuration (R149, R150) -/

/-- The group G of the primary operand. -/
def vgroup (t : Thread) : Nat := 2 ^ t.vgrp.toNat

def vlmax (t : Thread) (w : Nat) : Nat := min 4096 (vgroup t * 4096 / w)

/-- Registers that an operand of width w occupies. -/
def vregs (vm w : Nat) : Nat := max 1 ((vm * w + 4095) / 4096)

/-- An operand: first register, width, registers occupied; `wp` is the primary width. An operand of the
primary format has G registers, even where a 4-bit format leaves some of them out of reach. -/
def vopnd (t : Thread) (wp : Nat) (r : BitVec 5) (w : Nat) : Nat × Nat × Nat :=
  (r.toNat, w, if w = wp then vgroup t else vregs (vlmax t wp) w)

/-- The destination of a conversion, which the instruction's format field does not name. -/
def vopndTo (t : Thread) (wp : Nat) (r : BitVec 5) (w : Nat) : Nat × Nat × Nat :=
  (r.toNat, w, vregs (vlmax t wp) w)

/-- Block scales in register x1 prevail over elements that the same instruction writes: x1 is none of
the destination's registers, or the open choice says so (log entry 118). -/
def scaleWins (dst : Nat × Nat × Nat) (x1 : Nat) : Bool :=
  !decide (dst.1 ≤ x1 ∧ x1 < dst.1 + dst.2.2) || Config.scalePrevails dst.1 x1

/-- Two operands share a register. -/
def vshare (a b : Nat × Nat × Nat) : Bool := decide (a.1 < b.1 + b.2.2 ∧ b.1 < a.1 + a.2.2)

/-- None of the conditions of R150 holds. `apart` says that a destination may overlap no source. -/
def vconfig (t : Thread) (wp : Nat) (srcs dsts : List (Nat × Nat × Nat))
    (elementwise apart : Bool) : Bool :=
  decide (t.vl.toNat ≤ vlmax t wp) &&
  (srcs ++ dsts).all (fun o => decide (o.2.2 ≤ 8 ∧ o.1 % o.2.2 = 0)) &&
  dsts.all (fun d => srcs.all (fun s =>
    !vshare d s || (!apart && decide (d.2.1 = s.2.1 ∧ d.2.2 = s.2.2)))) &&
  (elementwise || decide (t.vstart = 0))

/-! ### Activity (R151) -/

def vactive (t : Thread) (mk : Bool) (mreg : BitVec 3) (i : Nat) : Bool :=
  decide (t.vstart.toNat ≤ i ∧ i < t.vl.toNat) && (!mk || (getM t mreg.toNat).getLsbD i)

/-- The active elements in ascending order. -/
def vactives (t : Thread) (mk : Bool) (mreg : BitVec 3) : List Nat :=
  (List.range t.vl.toNat).filter (vactive t mk mreg)

/-! ### SEED -/

def seedKey (t : Thread) : Nat := field t.seed 32 32
def seedCtr (t : Thread) : Nat := field t.seed 0 32

/-- Add to SEED.CTR modulo 2^32. -/
def seedAdd (t : Thread) (n : Nat) : Thread :=
  { t with seed := setField t.seed 0 32 (seedCtr t + n) }

/-! ### Form (R154, R550) -/

/-- RND of the long form, 0 in the base form. -/
def vrnd (x : Iss) : Nat :=
  match x.long with
  | some p => p.xf.toNat % 4
  | none => 0

/-- Whether bit k of XF is set; no bit is in the base form. -/
def vxf (x : Iss) (k : Nat) : Bool :=
  match x.long with
  | some p => p.xf.getLsbD k
  | none => false

/-- The form of a vector instruction is legal: XF has only bits of `xf`, X1 is used only where
`x1` says so, a literal only where `lit` says so, RND is not 0b11, and MREG is 0 when MK is 0. -/
def vform (x : Iss) (mk : Bool) (mreg : BitVec 3) (xf : Nat) (x1 lit : Bool) : Bool :=
  (mk || decide (mreg = 0)) &&
  match x.long with
  | none => true
  | some p =>
    decide (p.x2 = 0 ∧ p.x3 = 0 ∧ p.xf.toNat &&& xf = p.xf.toNat) && (x1 || decide (p.x1 = 0)) &&
    (decide (xf % 4 ≠ 3) || decide (p.xf.toNat % 4 ≠ 3)) &&
    (match p.lit with
     | .none => true
     | .bad => false
     | _ => lit)

/-- X1 of the long form. -/
def vx1 (x : Iss) : BitVec 5 :=
  match x.long with
  | some p => p.x1
  | none => 0

/-- A vector instruction that does not access memory: illegal forms raise ILLEGAL_INSTR, a `none`
of the operation raises VECTOR_CONFIG with FAULTINFO = VL and changes nothing, and completion sets
VSTART to 0 and raises the flags (R150, R153). -/
def vecBody (legal : Bool) (op : Thread → Option (Thread × FFlags)) (i : Nat) (s : State) : Body :=
  if !legal then illegal s i else
  let t := getThread s i
  match op t with
  | none => .trap s 0x0D (wd t.vl.toNat)
  | some (t', fl) => .done (raiseFlags (setThread s i { t' with vstart := 0 }) i fl)

/-- OR of the flags of a list of results. -/
def orAll (xs : List (Nat × Nat × FFlags)) : FFlags := xs.foldl (fun a e => a ||| e.2.2) 0

/-- Write results by index and OR their flags. -/
def vresults (t : Thread) (n w : Nat) (xs : List (Nat × Nat × FFlags)) : Thread × FFlags :=
  (vputAll t n w (xs.map (fun e => (e.1, e.2.1))), orAll xs)

end Sys2Proof.Machine
end

