-- ==== Sys2Proof/Machine/VecInt.lean ====
section
/-! DEFINITION. Vector integer and logic instructions, the vector bit instructions and the mask
instructions (majors 0x20 and 0x21; R75, R160, R172). -/

namespace Sys2Proof.Machine

open Sys2Proof

/-- Width of class cls of major 0x20. -/
def vintWidth (cls : BitVec 3) : Nat := 8 * 2 ^ cls.toNat

/-- Operation k of major 0x20 on elements of width w. -/
def vintOp (k w a b : Nat) : Nat :=
  let n := b % w
  let le := decide (sext w a ≤ sext w b)
  match k with
  | 0x0 => (a + b) % 2 ^ w
  | 0x1 => (a + 2 ^ w - b) % 2 ^ w
  | 0x2 => a &&& b
  | 0x3 => a ||| b
  | 0x4 => a ^^^ b
  | 0x5 => (a <<< n) % 2 ^ w
  | 0x6 => a >>> n
  | 0x7 => intCode w (sext w a >>> n)
  | 0x8 => if le then a else b
  | 0x9 => if le then b else a
  | 0xA => Nat.min a b
  | 0xB => Nat.max a b
  | 0xC => b2n (decide (a = b))
  | 0xD => b2n (decide (a ≠ b))
  | 0xE => b2n (decide (sext w a < sext w b))
  | _ => b2n (decide (a < b))

/-- The second source of element i: a vector element, or the low w bits of a general register. -/
def vsecond (t : Thread) (scal : Bool) (vb : BitVec 5) (w i : Nat) : Nat :=
  if scal then (getG t vb).toNat % 2 ^ w else vget t vb.toNat w i

/-- An instruction of major 0x20: k is its function code, and k ≥ 0xC writes a mask register. -/
def vintApply (k w : Nat) (scal : Bool) (vd va vb : BitVec 5) (mk : Bool) (mreg : BitVec 3)
    (t : Thread) : Option (Thread × FFlags) :=
  let srcs := vopnd t w va w :: (if scal then [] else [vopnd t w vb w])
  let dsts := if 0xC ≤ k then [] else [vopnd t w vd w]
  if !vconfig t w srcs dsts true false then none else
  let rs := (vactives t mk mreg).map (fun i =>
    (i, vintOp k w (vget t va.toNat w i) (vsecond t scal vb w i)))
  if 0xC ≤ k then some (maskPutAll t vd.toNat (rs.map (fun e => (e.1, decide (e.2 = 1)))), 0)
  else some (vputAll t vd.toNat w rs, 0)

def vintBody (x : Iss) (f : VClassForm) (k : Nat) : Nat → State → Body :=
  vecBody (vform x f.msk f.mreg 4 false false && decide (f.cls.toNat < 4) &&
      (decide (k < 0xC) || decide (f.vd.toNat < 8)))
    (vintApply k (vintWidth f.cls) (vxf x 2) f.vd f.va f.vb f.msk f.mreg)

def execVAdd (x : Iss) (f : VClassForm) (s : State) : Host.Outcome State Fault Refusal :=
  .next (issue x (vintBody x f 0x0) s)
def execVSub (x : Iss) (f : VClassForm) (s : State) : Host.Outcome State Fault Refusal :=
  .next (issue x (vintBody x f 0x1) s)
def execVAnd (x : Iss) (f : VClassForm) (s : State) : Host.Outcome State Fault Refusal :=
  .next (issue x (vintBody x f 0x2) s)
def execVOr (x : Iss) (f : VClassForm) (s : State) : Host.Outcome State Fault Refusal :=
  .next (issue x (vintBody x f 0x3) s)
def execVXor (x : Iss) (f : VClassForm) (s : State) : Host.Outcome State Fault Refusal :=
  .next (issue x (vintBody x f 0x4) s)
def execVSll (x : Iss) (f : VClassForm) (s : State) : Host.Outcome State Fault Refusal :=
  .next (issue x (vintBody x f 0x5) s)
def execVSrl (x : Iss) (f : VClassForm) (s : State) : Host.Outcome State Fault Refusal :=
  .next (issue x (vintBody x f 0x6) s)
def execVSra (x : Iss) (f : VClassForm) (s : State) : Host.Outcome State Fault Refusal :=
  .next (issue x (vintBody x f 0x7) s)
def execVMin (x : Iss) (f : VClassForm) (s : State) : Host.Outcome State Fault Refusal :=
  .next (issue x (vintBody x f 0x8) s)
def execVMax (x : Iss) (f : VClassForm) (s : State) : Host.Outcome State Fault Refusal :=
  .next (issue x (vintBody x f 0x9) s)
def execVMinu (x : Iss) (f : VClassForm) (s : State) : Host.Outcome State Fault Refusal :=
  .next (issue x (vintBody x f 0xA) s)
def execVMaxu (x : Iss) (f : VClassForm) (s : State) : Host.Outcome State Fault Refusal :=
  .next (issue x (vintBody x f 0xB) s)
def execVCmpEq (x : Iss) (f : VClassForm) (s : State) : Host.Outcome State Fault Refusal :=
  .next (issue x (vintBody x f 0xC) s)
def execVCmpNe (x : Iss) (f : VClassForm) (s : State) : Host.Outcome State Fault Refusal :=
  .next (issue x (vintBody x f 0xD) s)
def execVCmpLt (x : Iss) (f : VClassForm) (s : State) : Host.Outcome State Fault Refusal :=
  .next (issue x (vintBody x f 0xE) s)
def execVCmpLtu (x : Iss) (f : VClassForm) (s : State) : Host.Outcome State Fault Refusal :=
  .next (issue x (vintBody x f 0xF) s)

/-! ### Bit instructions (R75) -/

/-- A bit instruction on elements of width w; `two` says that it reads vb, which v.par and v.brev ignore
(DEDUCED, log entry 107). -/
def vbitApply (w : Nat) (two : Bool) (f : VBitForm) (op : Thread → Nat → Nat → Nat) (t : Thread) :
    Option (Thread × FFlags) :=
  let srcs := vopnd t w f.va w :: (if two then [vopnd t w f.vb w] else [])
  if !vconfig t w srcs [vopnd t w f.vd w] true false then none else
  some (vputAll t f.vd.toNat w ((vactives t f.msk f.mreg).map (fun i =>
    (i, op t (vget t f.va.toNat w i) (vget t f.vb.toNat w i)))), 0)

def execVCrcS (x : Iss) (f : VBitForm) (s : State) : Host.Outcome State Fault Refusal :=
  .next (issue x (vecBody (vform x f.msk f.mreg 0 false false)
    (vbitApply 64 true f fun t a b =>
      (crcStep f.refl (8 * 2 ^ f.n.toNat) t.crcpoly (wd a) (wd b)).toNat)) s)
def execVPar (x : Iss) (f : VBitForm) (s : State) : Host.Outcome State Fault Refusal :=
  .next (issue x (vecBody (vform x f.msk f.mreg 0 false false)
    (vbitApply (8 * 2 ^ f.n.toNat) false f fun _ a _ =>
      (parity (8 * 2 ^ f.n.toNat) (wd a)).toNat)) s)
def execVBrev (x : Iss) (f : VBitForm) (s : State) : Host.Outcome State Fault Refusal :=
  .next (issue x (vecBody (vform x f.msk f.mreg 0 false false)
    (vbitApply (8 * 2 ^ f.n.toNat) false f fun _ a _ =>
      (brev (8 * 2 ^ f.n.toNat) (wd a)).toNat)) s)

/-! ### Mask instructions (R172): bits 0 to VL − 1, whatever VSTART holds (log entry 21) -/

/-- The low VL bits of a mask register. -/
def maskLow (t : Thread) (r : BitVec 5) : Nat := (getM t r.toNat).toNat % 2 ^ t.vl.toNat

/-- A mask instruction on an element count within VLMAX = 4,096 (R149, R150). -/
def maskSized (op : Thread → Option (Thread × FFlags)) (t : Thread) : Option (Thread × FFlags) :=
  if 4096 < t.vl.toNat then none else op t

/-- m.and, m.or, m.not: the low VL bits are replaced. -/
def maskLogic (f : VMaskForm) (op : Nat → Nat → Nat) : Thread → Option (Thread × FFlags) := maskSized fun t =>
  let r := op (maskLow t f.va) (maskLow t f.vb) % 2 ^ t.vl.toNat
  some (setM t f.vd.toNat (vregPut (getM t f.vd.toNat) 0 t.vl.toNat r), 0)

/-- Mask instructions take MK = 0; the fields that name mask registers hold at most 7. -/
def maskForm (x : Iss) (f : VMaskForm) (fields : List (BitVec 5)) : Bool :=
  vform x f.msk f.mreg 0 false false && !f.msk && fields.all (fun r => decide (r.toNat < 8))

def execMAnd (x : Iss) (f : VMaskForm) (s : State) : Host.Outcome State Fault Refusal :=
  .next (issue x (vecBody (maskForm x f [f.vd, f.va, f.vb]) (maskLogic f fun a b => a &&& b)) s)
def execMOr (x : Iss) (f : VMaskForm) (s : State) : Host.Outcome State Fault Refusal :=
  .next (issue x (vecBody (maskForm x f [f.vd, f.va, f.vb]) (maskLogic f fun a b => a ||| b)) s)
def execMNot (x : Iss) (f : VMaskForm) (s : State) : Host.Outcome State Fault Refusal :=
  .next (issue x (vecBody (maskForm x f [f.vd, f.va]) (fun t =>
    maskLogic f (fun a _ => 2 ^ t.vl.toNat - 1 - a) t)) s)
def execMPop (x : Iss) (f : VMaskForm) (s : State) : Host.Outcome State Fault Refusal :=
  .next (issue x (vecBody (maskForm x f [f.va]) (maskSized fun t =>
    some (setG t f.vd (wd ((List.range t.vl.toNat).countP fun i =>
      (getM t f.va.toNat).getLsbD i)), 0))) s)
/-- m.first: −1 where no bit is set. -/
def execMFirst (x : Iss) (f : VMaskForm) (s : State) : Host.Outcome State Fault Refusal :=
  .next (issue x (vecBody (maskForm x f [f.va]) (maskSized fun t =>
    some (setG t f.vd (match (List.range t.vl.toNat).find?
        (fun i => (getM t f.va.toNat).getLsbD i) with
      | some i => wd i
      | none => ~~~0), 0))) s)

end Sys2Proof.Machine
end

