-- ==== Sys2Proof/Machine/VecFloat.lean ====
section
/-! DEFINITION. Vector floating point, conversion, widening and dot products, random numbers and the
approximation steps (majors 0x22 and 0x23; R133, R138, R139, R144, R161 to R167). -/

namespace Sys2Proof.Machine

open Sys2Proof

/-- Format code of class cls of major 0x22. -/
def vfloatFmt (cls : BitVec 3) : Nat := 10 + cls.toNat

/-- An operation of a short format on operands none of which is a NaN. -/
def shortArith (f rnd r : Nat) (ops : List Fp) (v : Option Fp) : Nat × FFlags :=
  if ops.any Fp.isNan then (defaultNan f, 0) else shortResult f rnd r v

/-- ±(a × b) ± c of a short format, exact before the conversion. -/
def shortFma (rnd r : Nat) (negProd negAdd : Bool) (a b c : Nat) : Nat × FFlags :=
  let x := decodeFmt 10 a
  let y := decodeFmt 10 b
  let z := decodeFmt 10 c
  let p := fpMulExact x y
  shortArith 10 rnd r [x, y, z] (p.bind fun p =>
    fpAddExact 0 (if negProd then fpNeg p else p) (if negAdd then fpNeg z else z))

/-- Operation k of major 0x22 on codes a, b and the old destination d. -/
def vfloatOp (k fmt rm rnd r : Nat) (a b d : Nat) : Nat × FFlags :=
  if fmt = 10 then
    let x := decodeFmt 10 a
    let y := decodeFmt 10 b
    match k with
    | 0x0 => shortFma rnd r false false a b d
    | 0x1 => shortFma rnd r false true a b d
    | 0x2 => shortFma rnd r true false a b d
    | 0x3 => shortFma rnd r true true a b d
    | 0x4 => shortArith 10 rnd r [x, y] (fpMulExact x y)
    | 0x5 => shortArith 10 rnd r [x, y] (fpAddExact 0 x y)
    | 0x6 => shortArith 10 rnd r [x, y] (fpAddExact 0 x (fpNeg y))
    | 0x7 => (shortMinMax 10 true a b, 0)
    | 0x8 => (shortMinMax 10 false a b, 0)
    | _ => (b2n (shortCompare 10 (k - 9) a b), 0)
  else
    match k with
    | 0x0 => fpFma fmt rm false false a b d
    | 0x1 => fpFma fmt rm false true a b d
    | 0x2 => fpFma fmt rm true false a b d
    | 0x3 => fpFma fmt rm true true a b d
    | 0x4 => fpMul fmt rm a b
    | 0x5 => fpAdd fmt rm a b
    | 0x6 => fpSub fmt rm a b
    | 0x7 => fpMinMax fmt true a b
    | 0x8 => fpMinMax fmt false a b
    | _ =>
      let c := fpCompare fmt (k - 9) a b
      (b2n c.1, c.2)

/-- Bits drawn for element i: those of R132 where RND is stochastic. -/
def drawBits (t : Thread) (rnd i : Nat) : Nat :=
  if rnd = 2 then srBits (seedKey t) (seedCtr t) i else 0

/-- SEED.CTR after an instruction of VL elements whose result format is `dst` (R133). -/
def seedAfter (t : Thread) (rnd dst : Nat) (t' : Thread) : Thread :=
  if rnd = 2 ∧ isShort dst = true then seedAdd t' t.vl.toNat else t'

/-- An instruction of major 0x22; k ≥ 9 writes a mask register. -/
def vfloatApply (k fmt rnd : Nat) (scal : Bool) (vd va vb : BitVec 5) (mk : Bool) (mreg : BitVec 3)
    (t : Thread) : Option (Thread × FFlags) :=
  let w := fmtWidth fmt
  let srcs := vopnd t w va w :: ((if scal then [] else [vopnd t w vb w]) ++
    (if k < 4 then [vopnd t w vd w] else []))
  let dsts := if 9 ≤ k then [] else [vopnd t w vd w]
  if !vconfig t w srcs dsts true false then none else
  let rs := (vactives t mk mreg).map (fun i =>
    (i, vfloatOp k fmt t.frm.toNat rnd (drawBits t rnd i) (vget t va.toNat w i)
      (vsecond t scal vb w i) (vget t vd.toNat w i)))
  if 9 ≤ k then
    some (maskPutAll t vd.toNat (rs.map (fun e => (e.1, decide (e.2.1 = 1)))), orAll rs)
  else
    let r := vresults t vd.toNat w rs
    some (seedAfter t rnd fmt r.1, r.2)

def vfloatBody (x : Iss) (f : VClassForm) (k : Nat) : Nat → State → Body :=
  vecBody (vform x f.msk f.mreg 7 false false && decide (f.cls.toNat < 3) &&
      (decide (k < 9) || decide (f.vd.toNat < 8)))
    (vfloatApply k (vfloatFmt f.cls) (vrnd x) (vxf x 2) f.vd f.va f.vb f.msk f.mreg)

def execVFma (x : Iss) (f : VClassForm) (s : State) : Host.Outcome State Fault Refusal :=
  .next (issue x (vfloatBody x f 0x0) s)
def execVFms (x : Iss) (f : VClassForm) (s : State) : Host.Outcome State Fault Refusal :=
  .next (issue x (vfloatBody x f 0x1) s)
def execVFnma (x : Iss) (f : VClassForm) (s : State) : Host.Outcome State Fault Refusal :=
  .next (issue x (vfloatBody x f 0x2) s)
def execVFnms (x : Iss) (f : VClassForm) (s : State) : Host.Outcome State Fault Refusal :=
  .next (issue x (vfloatBody x f 0x3) s)
def execVMul (x : Iss) (f : VClassForm) (s : State) : Host.Outcome State Fault Refusal :=
  .next (issue x (vfloatBody x f 0x4) s)
def execVAddF (x : Iss) (f : VClassForm) (s : State) : Host.Outcome State Fault Refusal :=
  .next (issue x (vfloatBody x f 0x5) s)
def execVSubF (x : Iss) (f : VClassForm) (s : State) : Host.Outcome State Fault Refusal :=
  .next (issue x (vfloatBody x f 0x6) s)
def execVMaxF (x : Iss) (f : VClassForm) (s : State) : Host.Outcome State Fault Refusal :=
  .next (issue x (vfloatBody x f 0x7) s)
def execVMinF (x : Iss) (f : VClassForm) (s : State) : Host.Outcome State Fault Refusal :=
  .next (issue x (vfloatBody x f 0x8) s)
def execVCmpEqF (x : Iss) (f : VClassForm) (s : State) : Host.Outcome State Fault Refusal :=
  .next (issue x (vfloatBody x f 0x9) s)
def execVCmpLtF (x : Iss) (f : VClassForm) (s : State) : Host.Outcome State Fault Refusal :=
  .next (issue x (vfloatBody x f 0xA) s)
def execVCmpLeF (x : Iss) (f : VClassForm) (s : State) : Host.Outcome State Fault Refusal :=
  .next (issue x (vfloatBody x f 0xB) s)

/-! ### Conversion (R164) -/

/-- A format v.cvt accepts: not B8 and not reserved. -/
def cvtFmt (f : Nat) : Bool := decide (f < 13 ∧ f ≠ 7)

/-- The value of element i of a v.cvt source; a G4 element has its block's scale in register x1. -/
def cvtElem (t : Thread) (src : Nat) (va x1 : BitVec 5) (i : Nat) : Fp :=
  let c := vget t va.toNat (fmtWidth src) i
  if src = 6 then g4Value c (vget t x1.toNat 8 (i / 32)) else decodeFmt src c

/-- One block of a conversion to G4: the scale code and the element results (R134). -/
def g4Block (rnd : Nat) (xs : List (Nat × Nat × Fp)) : Nat × List (Nat × Nat × FFlags) :=
  let k := blockScale (xs.map (fun e => e.2.2))
  ((127 + k).toNat, xs.map (fun e => (e.1, shortOf 6 rnd e.2.1 (fpScale (-k) e.2.2))))

def vcvtApply (src dst rnd : Nat) (vd va x1 : BitVec 5) (mk : Bool) (mreg : BitVec 3)
    (t : Thread) : Option (Thread × FFlags) :=
  let ws := fmtWidth src
  let wd := fmtWidth dst
  let g4 := decide (src = 6 ∨ dst = 6)
  let sc := (x1.toNat, 8, 1)
  let srcs := vopnd t ws va ws :: (if src = 6 then [sc] else [])
  let dsts := vopndTo t ws vd wd :: (if dst = 6 then [sc] else [])
  if !vconfig t ws srcs dsts (!g4) false then none else
  if dst = 6 then
    let vl := t.vl.toNat
    let blocks := (List.range ((vl + 31) / 32)).map (fun j =>
      (j, g4Block rnd (((List.range 32).map (fun e => 32 * j + e)).filter (fun i => decide (i < vl))
        |>.map (fun i => (i, drawBits t rnd i, cvtElem t src va x1 i)))))
    let rs := blocks.flatMap (fun b => b.2.2)
    let put (t : Thread) : Thread := vputAll t x1.toNat 8 (blocks.map (fun b => (b.1, b.2.1)))
    if scaleWins (vopndTo t ws vd wd) x1.toNat then
      let r := vresults t vd.toNat 4 rs
      some (seedAfter t rnd dst (put r.1), r.2)
    else
      let r := vresults (put t) vd.toNat 4 rs
      some (seedAfter t rnd dst r.1, r.2)
  else
    let rs := (vactives t mk mreg).map (fun i =>
      (i, convFmt src dst t.frm.toNat rnd (drawBits t rnd i) (cvtElem t src va x1 i)))
    let r := vresults t vd.toNat wd rs
    some (seedAfter t rnd dst r.1, r.2)

/-- v.cvt: vb[3:0] is the destination format; G4 needs the long form and MK = 0. -/
def execVCvt (x : Iss) (f : VFmtForm) (s : State) : Host.Outcome State Fault Refusal :=
  let src := f.fmt.toNat
  let dst := f.vb.toNat % 16
  let g4 := decide (src = 6 ∨ dst = 6)
  .next (issue x (vecBody (vform x f.msk f.mreg 3 g4 false && cvtFmt src && cvtFmt dst &&
      decide (f.vb.toNat < 16) && (!g4 || (x.long.isSome && !f.msk)))
    (vcvtApply src dst (vrnd x) f.vd f.va (vx1 x) f.msk f.mreg)) s)

/-! ### Widening multiply and dot products (R144, R162, R163) -/

/-- Destination format of v.wmul; 16 where the source format is not accepted. -/
def wideFmt (f : Nat) : Nat :=
  match f with
  | 0 => 2
  | 2 => 3
  | 3 => 4
  | 8 | 9 => 10
  | 10 => 11
  | 11 => 12
  | _ => 16

/-- The product of two codes in the wider format (R144). A product that is too small or too fine for it rounds
as any other (DEDUCED, log entry 126). -/
def wmulOp (f rm rnd r a b : Nat) : Nat × FFlags :=
  let dst := wideFmt f
  if isIntFmt f then (intCode (fmtWidth dst) (sext (fmtWidth f) a * sext (fmtWidth f) b), 0)
  else
    let x := decodeFmt f a
    let y := decodeFmt f b
    if x.isNan || y.isNan then
      if f = 11 then
        let n := nanResult 11 [x, y]
        (nanMove 11 12 n.1, n.2)
      else (defaultNan dst, 0)
    else match fpMulExact x y with
      | none => (defaultNan dst, fINV)
      | some p => if dst = 10 then shortOf 10 rnd r p else ieeeOf dst rm p

def vwmulApply (fmt rnd : Nat) (f : VFmtForm) (t : Thread) : Option (Thread × FFlags) :=
  let w := fmtWidth fmt
  let wd := 2 * w
  if !vconfig t w [vopnd t w f.va w, vopnd t w f.vb w] [vopnd t w f.vd wd] true false then none else
  let rs := (vactives t f.msk f.mreg).map (fun i =>
    (i, wmulOp fmt t.frm.toNat rnd (drawBits t rnd i) (vget t f.va.toNat w i)
      (vget t f.vb.toNat w i)))
  let r := vresults t f.vd.toNat wd rs
  some (seedAfter t rnd (wideFmt fmt) r.1, r.2)

def execVWmul (x : Iss) (f : VFmtForm) (s : State) : Host.Outcome State Fault Refusal :=
  .next (issue x (vecBody (vform x f.msk f.mreg 3 false false && decide (wideFmt f.fmt.toNat < 16))
    (vwmulApply f.fmt.toNat (vrnd x) f)) s)

/-- One lane of a dot product: the accumulator code and the pairs of codes. An exact sum of zero takes the sign
that the two-operand rule gives term by term (log entry 141). -/
def dotLane (fa fb rm : Nat) (acc : Nat) (ps : List (Nat × Nat)) : Nat × FFlags :=
  if isIntFmt fa then
    let v (f c : Nat) : Int := if f = 1 then (c : Int) else sext (fmtWidth f) c
    (intCode 32 (ps.foldl (fun a p => a + v fa p.1 * v fb p.2) (acc : Int)), 0)
  else
    let c := decodeFmt 11 acc
    if c.isNan then nanResult 11 [c]
    else if ps.any (fun p => (decodeFmt fa p.1).isNan || (decodeFmt fb p.2).isNan) then
      (defaultNan 11, 0)
    else
      match ps.foldl (fun a p => a.bind fun a =>
          (fpMulExact (decodeFmt fa p.1) (decodeFmt fb p.2)).bind (fpAddExact rm a)) (some c) with
      | some v => ieeeOf 11 rm v
      | none => (defaultNan 11, fINV)

/-- v.dot4 and v.dot2 with n products in a lane. VL counts 32-bit elements, so VLMAX is that of a
32-bit operand and each source occupies as many registers as the destination (DEDUCED from R149
and R163, log entry 22). -/
def vdotApply (n fa fb : Nat) (f : VFmtForm) (t : Thread) : Option (Thread × FFlags) :=
  let w := 32 / n
  let g := vregs (vlmax t 32) 32
  let acc := vopnd t 32 f.vd 32
  if !vconfig t 32 [(f.va.toNat, w, g), (f.vb.toNat, w, g), acc] [acc] true false then none else
  let rs := (vactives t f.msk f.mreg).map (fun j =>
    (j, dotLane fa fb t.frm.toNat (vget t f.vd.toNat 32 j) ((List.range n).map (fun k =>
      (vget t f.va.toNat w (n * j + k), vget t f.vb.toNat w (n * j + k))))))
  some (vresults t f.vd.toNat 32 rs)

/-- v.dot4: XF[7:4] of the long form is the format of vb. -/
def execVDot4 (x : Iss) (f : VFmtForm) (s : State) : Host.Outcome State Fault Refusal :=
  let fa := f.fmt.toNat
  let fb := match x.long with
    | some p => p.xf.toNat / 16 % 16
    | none => fa
  let ok := decide ((fa < 2 ∧ fb < 2) ∨ ((fa = 8 ∨ fa = 9) ∧ (fb = 8 ∨ fb = 9)))
  .next (issue x (vecBody (vform x f.msk f.mreg 0xF3 false false && ok) (vdotApply 4 fa fb f)) s)

def execVDot2 (x : Iss) (f : VFmtForm) (s : State) : Host.Outcome State Fault Refusal :=
  let fa := f.fmt.toNat
  .next (issue x (vecBody (vform x f.msk f.mreg 3 false false && decide (fa = 2 ∨ fa = 10))
    (vdotApply 2 fa fa f)) s)

/-! ### Random numbers (R165) -/

/-- Draws of one element; 0 where the format is not accepted. -/
def rngDraws (f : Nat) : Nat :=
  match f with
  | 0 | 2 => 1
  | 3 | 11 => 2
  | 4 => 4
  | _ => 0

/-- The draws from `first` on, the first most significant. -/
def rngWord (t : Thread) (first : Nat) : Nat → Nat
  | 0 => 0
  | n + 1 => rngWord t first n * 2 ^ 16 + srBits (seedKey t) (seedCtr t) (first + n)

def rngElem (t : Thread) (fmt i : Nat) : Nat :=
  let u := rngWord t (rngDraws fmt * i) (rngDraws fmt)
  if fmt = 11 then (ieeeRound 11 0 false (u >>> 8) (-24)).1 else u % 2 ^ fmtWidth fmt

/-- v.rng (R165). va and vb are not used and may hold any value (log entry 107). -/
def execVRng (x : Iss) (f : VFmtForm) (s : State) : Host.Outcome State Fault Refusal :=
  let fmt := f.fmt.toNat
  let w := fmtWidth fmt
  .next (issue x (vecBody (vform x f.msk f.mreg 3 false false && decide (0 < rngDraws fmt))
    (fun t =>
      if !vconfig t w [] [vopnd t w f.vd w] true false then none else
      some (seedAdd (vputAll t f.vd.toNat w ((vactives t f.msk f.mreg).map (fun i =>
        (i, rngElem t fmt i)))) (t.vl.toNat * rngDraws fmt), 0))) s)

/-! ### Approximation steps (R166, R167): the device's own value within the stated bound -/

/-- The first of two values that a test accepts, else the second. -/
def boundedPick (ok : Nat → Bool) (c base : Nat) : Nat := if ok c then c else base

/-- The code moved by an offset. -/
def moveCode (base : Nat) (off : Int) : Nat := ((base : Int) + off).toNat

/-- Whether |r × x − 1| ≤ 2^-14 for codes of FP32 or FP64 with the sign of x, r normal. -/
def rcpWithin (f x r : Nat) : Bool :=
  match decodeFmt f x, decodeFmt f r with
  | .fin a m e, .fin b n g =>
    let p := floatParams f
    let d : Int := ((m * n : Nat) : Int)
    let k := e + g
    decide (a = b ∧ 2 ^ p.2.1 ≤ n) &&
    (if 0 ≤ k then decide (m * n * 2 ^ k.toNat = 1)
     else decide ((d - 2 ^ (-k).toNat).natAbs * 2 ^ 14 ≤ 2 ^ (-k).toNat))
  | _, _ => false

/-- v.rcp.step of FP32 or FP64. A reciprocal beyond the range is an infinity whatever FRM says. One that
is subnormal and inexact keeps UF, though FRM may round it up to a normal number. -/
def rcpOp (f rm : Nat) (x : Nat) : Nat × FFlags :=
  let one := signCode f false ((floatParams f).2.2 * 2 ^ (floatParams f).2.1)
  let q := fpDiv f rm one x
  if q.2 &&& fOF ≠ 0 then
    (infCode f (match decodeFmt f x with
      | .fin a _ _ => a
      | _ => false), fOF ||| fNX) else
  match decodeFmt f x, decodeFmt f q.1 with
  | .fin _ m _, .fin _ n _ =>
    if m = 0 ∨ n < 2 ^ (floatParams f).2.1 ∨ q.2 &&& fUF ≠ 0 then q
    else
      let r := boundedPick (rcpWithin f x)
        (moveCode q.1 (Config.rcpOffset (decide (f = 12)) (BitVec.ofNat 64 x))) q.1
      let exact := match decodeFmt f x, decodeFmt f r with
        | .fin a m e, .fin b n g =>
          decide (fpCmp (.fin (a != b) (m * n) (e + g)) (.fin false 1 0) = 0)
        | _, _ => false
      (r, if exact then 0 else fNX)
  | _, _ => q

/-- The exact value of 2^n. -/
def pow2 (n : Int) : Fp := .fin false 1 n

/-- 2^(2^-k) in units of 2^-128, by repeated square roots. -/
def rootTwo : Nat → Nat
  | 0 => 2 ^ 129
  | k + 1 => isqrt (rootTwo k * 2 ^ 128)

/-- 2^(frac / 2^64) in units of 2^-128, for frac < 2^64. -/
def exp2Frac (frac : Nat) : Nat :=
  (List.range 64).foldl (fun acc k =>
    if frac.testBit (63 - k) then acc * rootTwo (k + 1) / 2 ^ 128 else acc) (2 ^ 128)

/-- 2^x for a finite x that is not an integer: a value close to it, far within 2^-60. -/
def exp2Near (neg : Bool) (m : Nat) (e : Int) : Fp :=
  let fixed : Int := if 0 ≤ e + 64 then (m : Int) * 2 ^ (e + 64).toNat
    else ((m >>> (-(e + 64)).toNat : Nat) : Int)
  let v := if neg then -fixed else fixed
  .fin false (exp2Frac (v % 2 ^ 64).toNat) (v / 2 ^ 64 - 128)

/-- Whether |r − y| ≤ 2^-22 × y for a normal code r of FP32 or FP64. -/
def expWithin (f : Nat) (y : Fp) (r : Nat) : Bool :=
  match y, decodeFmt f r with
  | .fin _ m e, .fin b n g =>
    let base := min e g
    let d := atExp false n g base - atExp false m e base
    !b && decide (2 ^ (floatParams f).2.1 ≤ n) &&
    decide (d.natAbs * 2 ^ 22 ≤ (atExp false m e base).natAbs)
  | _, _ => false

/-- 2^x for a finite x, cut where x is above or below a limit: a value close to it, and whether it is
exact. -/
def exp2Of (lim : Nat) (n : Bool) (m : Nat) (e : Int) : Fp × Bool :=
  let huge := decide (0 < m ∧ 0 < e + bitLen m ∧ (lim : Int) < 2 ^ (e + bitLen m - 1).toNat)
  if huge then (pow2 (if n then -(lim : Int) else lim), false)
  else if m = 0 then (pow2 0, true)
  else
    let whole := decide (0 ≤ e) || decide (m % 2 ^ (-e).toNat = 0)
    if whole then
      let k : Int := if 0 ≤ e then (m : Int) * 2 ^ e.toNat else ((m >>> (-e).toNat : Nat) : Int)
      (pow2 (if n then -k else k), true)
    else (exp2Near n m e, false)

/-- v.exp.step of FP32 or FP64. An x that is far above or below the range is cut before 2^x is
formed. An integer x whose 2^x is subnormal gives 2^x exactly and no flag (log entry 140). -/
def expOp (f rm : Nat) (x : Nat) : Nat × FFlags :=
  match decodeFmt f x with
  | .nan g c => nanResult f [.nan g c]
  | .inf n => if n then (0, 0) else (infCode f false, 0)
  | .fin n m e =>
    let p := floatParams f
    let near := exp2Of (2 * p.2.2 + 200) n m e
    let q := ieeeOf f rm near.1
    match decodeFmt f q.1 with
    | .fin _ c _ =>
      if q.2 &&& fOF ≠ 0 then (infCode f false, fOF ||| fNX)
      else if c < 2 ^ p.2.1 then (q.1, if near.2 then q.2 else fUF ||| fNX)
      else if near.2 then q
      else (boundedPick (expWithin f near.1)
        (moveCode q.1 (Config.expOffset (decide (f = 12)) (BitVec.ofNat 64 x))) q.1, fNX)
    | _ => (infCode f false, fOF ||| fNX)

/-- The value of v.exp.step of G16 before its conversion: within the bound of R167 where 2^x is a normal
FP64 number, 2^x itself where it is not. -/
def expG16 (a : Nat) : Fp × FFlags :=
  match decodeFmt 10 a with
  | .fin n m e =>
    let near := (exp2Of 4096 n m e).1
    let v := expOp 12 0 (ieeeOf 12 0 (.fin n m e)).1
    match decodeFmt 12 v.1 with
    | .fin s c k => if 2 ^ 52 ≤ c then (.fin s c k, 0) else (near, 0)
    | _ => (near, 0)
  | x => (x, 0)

/-- The value of v.rcp.step of G16 before its conversion. -/
def rcpG16 (a : Nat) : Fp × FFlags :=
  let v := rcpOp 12 0 (ieeeOf 12 0 (decodeFmt 10 a)).1
  (decodeFmt 12 v.1, v.2 &&& fDZ)

/-- A step of G16: the bound holds before the conversion to G16 (R138, R166). -/
def stepG16 (op : Nat → Fp × FFlags) (rnd r : Nat) (a : Nat) : Nat × FFlags :=
  if (decodeFmt 10 a).isNan then (defaultNan 10, 0) else
  let v := op a
  let y := shortOf 10 rnd r v.1
  (y.1, y.2 ||| v.2)

def vstepApply (fmt rnd : Nat) (f : VFmtForm) (op : Nat → Nat → Nat → Nat × FFlags)
    (short : Nat → Fp × FFlags) (t : Thread) : Option (Thread × FFlags) :=
  let w := fmtWidth fmt
  if !vconfig t w [vopnd t w f.va w] [vopnd t w f.vd w] true false then none else
  let rs := (vactives t f.msk f.mreg).map (fun i =>
    let a := vget t f.va.toNat w i
    (i, if fmt = 10 then stepG16 short rnd (drawBits t rnd i) a else op fmt t.frm.toNat a))
  let r := vresults t f.vd.toNat w rs
  some (seedAfter t rnd fmt r.1, r.2)

def execVExpStep (x : Iss) (f : VFmtForm) (s : State) : Host.Outcome State Fault Refusal :=
  let fmt := f.fmt.toNat
  .next (issue x (vecBody (vform x f.msk f.mreg 3 false false && decide (10 ≤ fmt ∧ fmt ≤ 12))
    (vstepApply fmt (vrnd x) f expOp expG16)) s)

def execVRcpStep (x : Iss) (f : VFmtForm) (s : State) : Host.Outcome State Fault Refusal :=
  let fmt := f.fmt.toNat
  .next (issue x (vecBody (vform x f.msk f.mreg 3 false false && decide (10 ≤ fmt ∧ fmt ≤ 12))
    (vstepApply fmt (vrnd x) f rcpOp rcpG16)) s)

end Sys2Proof.Machine
end

