-- ==== Sys2Proof/Machine/VecPerm.lean ====
section
/-! DEFINITION. Permute, reduce and set instructions (majors 0x24 and 0x25; R168 to R171). None of
them is element-wise, and a destination overlaps no source (R150). -/

namespace Sys2Proof.Machine

open Sys2Proof

/-- A format that R113 does not reserve. -/
def anyFmt (f : Nat) : Bool := decide (f < 13)

/-- A permute of one source and perhaps an index source: `op` gives the new value of element i, none
where the element keeps its value. -/
def vpermApply (fmt : Nat) (srcs : Thread → List (Nat × Nat × Nat)) (f : VFmtForm)
    (op : Thread → Nat → Option Nat) (t : Thread) : Option (Thread × FFlags) :=
  let w := fmtWidth fmt
  if !vconfig t w (srcs t) [vopnd t w f.vd w] false true then none else
  some (vputAll t f.vd.toNat w ((vactives t f.msk f.mreg).filterMap (fun i =>
    (op t i).map (fun v => (i, v)))), 0)

def vpermForm (x : Iss) (f : VFmtForm) : Bool :=
  vform x f.msk f.mreg 0 false false && anyFmt f.fmt.toNat

/-- v.perm: an index that is negative or at least VL gives 0. -/
def vpermOp (f : VFmtForm) : Thread → Option (Thread × FFlags) :=
  let w := fmtWidth f.fmt.toNat
  vpermApply f.fmt.toNat (fun t => [vopnd t w f.va w, vopnd t w f.vb 16]) f fun t i =>
    let k := sext 16 (vget t f.vb.toNat 16 i)
    some (if 0 ≤ k ∧ k < t.vl.toNat then vget t f.va.toNat w k.toNat else 0)

def vslideUpOp (f : VFmtForm) : Thread → Option (Thread × FFlags) :=
  let w := fmtWidth f.fmt.toNat
  vpermApply f.fmt.toNat (fun t => [vopnd t w f.va w]) f fun t i =>
    let n := (getG t f.vb).toNat
    if n ≤ i then some (vget t f.va.toNat w (i - n)) else none

def vslideDnOp (f : VFmtForm) : Thread → Option (Thread × FFlags) :=
  let w := fmtWidth f.fmt.toNat
  vpermApply f.fmt.toNat (fun t => [vopnd t w f.va w]) f fun t i =>
    let n := (getG t f.vb).toNat
    some (if i + n < t.vl.toNat then vget t f.va.toNat w (i + n) else 0)

def vbcastOp (f : VFmtForm) : Thread → Option (Thread × FFlags) :=
  let w := fmtWidth f.fmt.toNat
  vpermApply f.fmt.toNat (fun _ => []) f fun t _ => some ((getG t f.vb).toNat % 2 ^ w)

def execVPerm (x : Iss) (f : VFmtForm) (s : State) : Host.Outcome State Fault Refusal :=
  .next (issue x (vecBody (vpermForm x f) (vpermOp f)) s)
def execVSlideUp (x : Iss) (f : VFmtForm) (s : State) : Host.Outcome State Fault Refusal :=
  .next (issue x (vecBody (vpermForm x f) (vslideUpOp f)) s)
def execVSlideDn (x : Iss) (f : VFmtForm) (s : State) : Host.Outcome State Fault Refusal :=
  .next (issue x (vecBody (vpermForm x f) (vslideDnOp f)) s)
def execVBcast (x : Iss) (f : VFmtForm) (s : State) : Host.Outcome State Fault Refusal :=
  .next (issue x (vecBody (vpermForm x f) (vbcastOp f)) s)

/-! ### v.red (R169) -/

/-- Formats v.red accepts. -/
def redFmt (f : Nat) : Bool := decide (f < 5 ∨ (8 ≤ f ∧ f ≤ 12))

/-- The format in which values are combined and the result is written. -/
def redResult (fmt op : Nat) : Nat :=
  if isIntFmt fmt then 4 else if op = 0 ∧ isShort fmt = true then 11 else fmt

/-- An element widened for an operation. -/
def redWiden (fmt op rm c : Nat) : Nat × FFlags :=
  if fmt = 1 then (c, 0)
  else if isIntFmt fmt then (intCode 64 (sext (fmtWidth fmt) c), 0)
  else if op = 0 ∧ isShort fmt = true then convFmt fmt 11 rm 0 0 (decodeFmt fmt c)
  else (c, 0)

/-- Two widened values combined. -/
def redCombine (fmt op rm a b : Nat) : Nat × FFlags :=
  match op with
  | 0 => if isIntFmt fmt then ((a + b) % 2 ^ 64, 0) else fpAdd (redResult fmt 0) rm a b
  | 1 => if isIntFmt fmt then (if sext 64 a < sext 64 b then b else a, 0)
         else if isShort fmt then (shortMinMax fmt true a b, 0) else fpMinMax fmt true a b
  | 2 => if isIntFmt fmt then (if sext 64 b < sext 64 a then b else a, 0)
         else if isShort fmt then (shortMinMax fmt false a b, 0) else fpMinMax fmt false a b
  | 3 => (a &&& b, 0)
  | 4 => (a ||| b, 0)
  | _ => (a ^^^ b, 0)

/-- Combine neighbours of a list in pairs; the flags of every combination are collected. -/
def redPairs (op : Nat → Nat → Nat × FFlags) :
    List (Option (Nat × FFlags)) → List (Option (Nat × FFlags))
  | a :: b :: t =>
    (match a, b with
     | some x, some y => let r := op x.1 y.1; some (r.1, r.2 ||| x.2 ||| y.2)
     | none, y => y
     | x, none => x) :: redPairs op t
  | [a] => [a]
  | [] => []

/-- The reduction tree over 2^n places. -/
def redTree (op : Nat → Nat → Nat × FFlags) :
    Nat → List (Option (Nat × FFlags)) → Option (Nat × FFlags)
  | 0, xs => xs.headD none
  | n + 1, xs => redTree op n (redPairs op xs)

def vredApply (fmt op : Nat) (f : VFmtForm) (t : Thread) : Option (Thread × FFlags) :=
  let w := fmtWidth fmt
  let rm := t.frm.toNat
  if !vconfig t w [vopnd t w f.va w] [] false true then none else
  let vals := (List.range (vlmax t w)).map (fun i =>
    if vactive t f.msk f.mreg i then some (redWiden fmt op rm (vget t f.va.toNat w i)) else none)
  match redTree (redCombine fmt op rm) 12 vals with
  | none => some (t, 0)
  | some r => some (vput t f.vd.toNat (fmtWidth (redResult fmt op)) 0 r.1, r.2)

def execVRed (x : Iss) (f : VFmtForm) (s : State) : Host.Outcome State Fault Refusal :=
  let op := f.vb.toNat % 8
  .next (issue x (vecBody (vform x f.msk f.mreg 0 false false && redFmt f.fmt.toNat &&
    decide (op < 6)) (vredApply f.fmt.toNat op f)) s)

/-! ### Set instructions (R170, R171) -/

/-- Key formats. -/
def keyFmt (f : Nat) : Bool := decide (f < 5 ∨ f = 10 ∨ f = 11 ∨ f = 12)

/-- Key a ranks before key b: by value, −0 before +0, every NaN after every number. -/
def keyBefore (fmt a b : Nat) : Bool :=
  let x := decodeFmt fmt a
  let y := decodeFmt fmt b
  if x.isNan then false else if y.isNan then true else fpBelow x y

/-- Equality by the format's comparison. -/
def keyEqual (fmt a b : Nat) : Bool :=
  let x := decodeFmt fmt a
  let y := decodeFmt fmt b
  !x.isNan && !y.isNan && decide (fpCmp x y = 0)

/-- Insert after every entry that does not rank after it. -/
def rankInsert (before : Nat → Nat → Bool) (x : Nat × Nat) : List (Nat × Nat) → List (Nat × Nat)
  | [] => [x]
  | y :: t => if before x.1 y.1 then x :: y :: t else y :: rankInsert before x t

/-- Stable sort of pairs of key and index. -/
def rankSort (before : Nat → Nat → Bool) (xs : List (Nat × Nat)) : List (Nat × Nat) :=
  xs.foldl (fun acc x => rankInsert before x acc) []

/-- The order of an instruction: reversed where XF[3] is 1. -/
def keyOrder (fmt : Nat) (desc : Bool) (a b : Nat) : Bool :=
  if desc then keyBefore fmt b a else keyBefore fmt a b

/-- Keys 0 to VL − 1 with their indices. -/
def keysOf (t : Thread) (r : BitVec 5) (w : Nat) : List (Nat × Nat) :=
  (List.range t.vl.toNat).map (fun i => (vget t r.toNat w i, i))

/-- Number a list from 0. -/
def indexed (xs : List Nat) : List (Nat × Nat) := (List.range xs.length).zip xs

/-- Merge by taking the first list's next element while it does not rank after the second's. -/
def rankMerge (before : Nat → Nat → Bool) : Nat → List Nat → List Nat → List Nat
  | 0, _, _ => []
  | n + 1, a :: s, b :: t =>
    if before b a then b :: rankMerge before n (a :: s) t else a :: rankMerge before n s (b :: t)
  | _, [], t => t
  | _, s, [] => s

/-- The first of each run of equal neighbours. -/
def runHeads (fmt : Nat) : Option Nat → List Nat → List Nat
  | _, [] => []
  | p, x :: t =>
    match p with
    | some y => if keyEqual fmt y x then runHeads fmt (some x) t else x :: runHeads fmt (some x) t
    | none => x :: runHeads fmt (some x) t

def setForm (x : Iss) (f : VFmtForm) : Bool :=
  vform x f.msk f.mreg 8 false false && !f.msk && keyFmt f.fmt.toNat

/-- A set instruction with va as source and results of width wr in vd. -/
def vsetApply (fmt wr : Nat) (two : Bool) (f : VFmtForm) (op : Thread → List Nat) (t : Thread) :
    Option (Thread × FFlags) :=
  let w := fmtWidth fmt
  let srcs := vopnd t w f.va w :: (if two then [vopnd t w f.vb w] else [])
  if !vconfig t w srcs [vopnd t w f.vd wr] false true then none else
  some (vputAll t f.vd.toNat wr (indexed (op t)), 0)

def execVSortKey (x : Iss) (f : VFmtForm) (s : State) : Host.Outcome State Fault Refusal :=
  let fmt := f.fmt.toNat
  let w := fmtWidth fmt
  .next (issue x (vecBody (setForm x f) (vsetApply fmt w false f fun t =>
    (rankSort (keyOrder fmt (vxf x 3)) (keysOf t f.va w)).map Prod.fst)) s)

def execVSortIdx (x : Iss) (f : VFmtForm) (s : State) : Host.Outcome State Fault Refusal :=
  let fmt := f.fmt.toNat
  .next (issue x (vecBody (setForm x f) (vsetApply fmt 16 false f fun t =>
    (rankSort (keyOrder fmt (vxf x 3)) (keysOf t f.va (fmtWidth fmt))).map Prod.snd)) s)

/-- v.merge. Its destination counts as one operand of twice the group, so G = 8 raises VECTOR_CONFIG (log
entry 142). -/
def vmergeApply (fmt : Nat) (desc : Bool) (f : VFmtForm) (t : Thread) : Option (Thread × FFlags) :=
  let w := fmtWidth fmt
  let n := vregs (vlmax t w) w
  if !vconfig t w [vopnd t w f.va w, vopnd t w f.vb w] [(f.vd.toNat, w, 2 * n)] false true then none
  else
    let vl := t.vl.toNat
    let out := rankMerge (keyOrder fmt desc) (2 * vl) ((keysOf t f.va w).map Prod.fst)
      ((keysOf t f.vb w).map Prod.fst)
    some (vputAll (vputAll t f.vd.toNat w (indexed (out.take vl))) (f.vd.toNat + n) w
      (indexed (out.drop vl)), 0)

def execVMerge (x : Iss) (f : VFmtForm) (s : State) : Host.Outcome State Fault Refusal :=
  .next (issue x (vecBody (setForm x f) (vmergeApply f.fmt.toNat (vxf x 3) f)) s)

/-- v.isect: counts of matches, in I16 (log entry 143). -/
def execVIsect (x : Iss) (f : VFmtForm) (s : State) : Host.Outcome State Fault Refusal :=
  let fmt := f.fmt.toNat
  let w := fmtWidth fmt
  .next (issue x (vecBody (setForm x f) (vsetApply fmt 16 true f fun t =>
    (keysOf t f.va w).map (fun a => (keysOf t f.vb w).countP (fun b => keyEqual fmt a.1 b.1)))) s)

/-- v.uniq: the heads of runs to vd, their number to the general register that vb names. -/
def execVUniq (x : Iss) (f : VFmtForm) (s : State) : Host.Outcome State Fault Refusal :=
  let fmt := f.fmt.toNat
  let w := fmtWidth fmt
  let heads (t : Thread) := runHeads fmt none ((keysOf t f.va w).map Prod.fst)
  .next (issue x (vecBody (setForm x f) (fun t =>
    (vsetApply fmt w false f heads t).map (fun r =>
      (setG r.1 f.vb (wd (heads t).length), r.2)))) s)

/-- v.topk: k > VL raises VECTOR_CONFIG. -/
def execVTopk (x : Iss) (f : VFmtForm) (s : State) : Host.Outcome State Fault Refusal :=
  let fmt := f.fmt.toNat
  .next (issue x (vecBody (setForm x f) (fun t =>
    let k := (getG t f.vb).toNat
    if t.vl.toNat < k then none else
    vsetApply fmt 16 false f (fun t =>
      ((rankSort (keyOrder fmt true) (keysOf t f.va (fmtWidth fmt))).map Prod.snd).take k) t)) s)

end Sys2Proof.Machine
end

