-- ==== Sys2Proof/Machine/VecMem.lean ====
section
/-! DEFINITION. Vector loads and stores (major 0x26; R173 to R178, R553). Elements are taken in
ascending order; an element whose line has not arrived stops the instruction at that element, and
the instruction is presented again when the lines it waits for have come. -/

namespace Sys2Proof.Machine

open Sys2Proof

/-- L1 and L2 insertion ages of a demand load, by the streaming hint (R291); blocking mode ignores
the hint (R300). -/
def hintAges (s : State) (i : Nat) (x : Iss) : Nat × Nat :=
  if vxf x 3 && !l1Blocks s (i / 16) then (3, 2) else (1, 1)

/-- The form of a memory instruction: XF has only the streaming hint. -/
def vmemForm (x : Iss) (f : VFmtForm) (x1 lit : Bool) : Bool :=
  vform x f.msk f.mreg 8 x1 lit && anyFmt f.fmt.toNat

/-- The literal, a signed byte offset. -/
def vlit (x : Iss) : Word :=
  match x.long with
  | some p => (litValue p.lit).getD 0
  | none => 0

/-- Half of its byte that a 4-bit element takes. -/
def nibOf (high : Bool) (v : Nat) : Nat := if high then v / 16 else v % 16

/-- Where element k lies: its byte address and, for 4-bit elements, the half of the byte. -/
abbrev ElemAt := Thread → Nat → Word × Bool

/-- v.ld and v.st. -/
def unitAt (x : Iss) (f : VFmtForm) : ElemAt := fun t k =>
  (getG t f.va + vlit x + wd (k * fmtWidth f.fmt.toNat / 8), decide (k % 2 = 1))

/-- v.lds and v.sts. -/
def strideAt (x : Iss) (f : VFmtForm) : ElemAt := fun t k =>
  (getG t f.va + vlit x + wd k * getG t f.vb, Config.nibbleHigh k)

/-- v.ldx and v.stx. -/
def indexAt (f : VFmtForm) : ElemAt := fun t k =>
  (getG t f.va + wd (vget t f.vb.toNat 64 k), Config.nibbleHigh k)

/-- The configuration of a memory instruction is legal. A 4-bit store is not element-wise (R150); one that
has issued and was held goes on at its VSTART (R178, log entry 122). -/
def vmemConfig (t : Thread) (f : VFmtForm) (store : Bool) (srcs dsts : List (Nat × Nat × Nat)) : Bool :=
  let w := fmtWidth f.fmt.toNat
  let nib := store && decide (w = 4)
  vconfig t w srcs dsts (!nib || t.begun) false && (!nib || (!f.msk && decide (t.vl.toNat % 2 = 0)))

/-- Keep the lines that a gather has read, so that every element of one address gets one value (R175). -/
def keepLines (i : Nat) (a : Agent) (align : Nat) (done : List (List (Word × Nat))) (s : State) : State :=
  let r := ahead i a align done s
  let keep (g : Tab Line) (l : Nat) : Tab Line :=
    match findLine r.1 i l with
    | some d => tabPut g l d
    | none => g
  modThread r.1 i (fun t => { t with gathered := r.2.foldl keep t.gathered })

/-- Process the elements of a load, given by index and accesses. -/
def vloadRun (x : Iss) (align : Nat) (indexed trains : Bool) (put : Nat → List Nat → Thread → Thread)
    (units : List (Nat × List (Word × Nat))) (i : Nat) (s : State) : Body :=
  let a := threadAgent s i
  let al := ahead i a align (units.map Prod.snd) s
  let tr := if trains then trainingLines al.1 i al.2 else []
  match gatherAll x i a align (fun k vs s => modThread s i (put k vs)) units al.1 with
  | (s, none) => .done (modThread (tr.foldl (train i) s) i (fun t => { t with vstart := 0 }))
  | (s, some (k, .miss ls)) =>
    let ages := hintAges s i x
    let s := if indexed
      then keepLines i a align ((units.filter (fun u => decide (u.1 < k))).map Prod.snd) s else s
    let rest := ahead i a align ((units.filter (fun u => decide (k < u.1))).map Prod.snd) s
    let s := stopAt rest.1 i (fun t => { t with vstart := BitVec.ofNat 13 k })
    .again (tr.foldl (train i)
      (waitLines s i a.cls ages.1 ages.2 ls (lineSetOf rest.2)))
  | (s, some (k, .fault c info)) =>
    .trap (stopAt (tr.foldl (train i) s) i (fun t => { t with vstart := BitVec.ofNat 13 k })) c info
  | (s, some (_, .vals _)) => .again s

/-- Process the elements or blocks of a store; `whole` says that the store is not element-wise, so that one
held after its first element runs to completion (R150, R178). -/
def vstoreRun (align : Nat) (whole : Bool) (after : Nat → State → State) (units : List (Nat × List Wr))
    (i : Nat) (s : State) : Body :=
  match scatterAll (threadAgent s i) align after units s with
  | (s, none) => .done (modThread s i (fun t => { t with vstart := 0 }))
  | (s, some (k, p)) =>
    let s := stopAt s i (fun t => { t with vstart := BitVec.ofNat 13 k })
    match p with
    | .fault c info => .trap s c info
    | .held need => if whole && decide (0 < k) then holdThrough s i need else holdAt s i need
    | .ok => .again s

/-- v.ld, v.lds, v.ldx. -/
def vloadBody (x : Iss) (f : VFmtForm) (lit indexed trains : Bool) (addr : ElemAt)
    (i : Nat) (s : State) : Body :=
  let t := getThread s i
  let w := fmtWidth f.fmt.toNat
  if !vmemForm x f false lit then illegal s i else
  if !vmemConfig t f false (if indexed then [vopnd t w f.vb 64] else []) [vopnd t w f.vd w]
  then .trap s 0x0D (wd t.vl.toNat) else
  let n := fmtBytes f.fmt.toNat
  let put (k : Nat) (vs : List Nat) (u : Thread) : Thread :=
    let v := vs.headD 0
    vput u f.vd.toNat w k (if w = 4 then nibOf (addr t k).2 v else v)
  vloadRun x n indexed trains put ((vactives t f.msk f.mreg).map (fun k => (k, [((addr t k).1, n)]))) i s

/-- The writes of element k of v.st, v.sts and v.stx; `pairs` says that 4-bit elements lie two per
byte. -/
def vstoreElem (t : Thread) (f : VFmtForm) (pairs : Bool) (addr : ElemAt) (k : Nat) : List Wr :=
  let w := fmtWidth f.fmt.toNat
  let v := vget t f.vd.toNat w k
  let p := addr t k
  if w ≠ 4 then [.put p.1 (w / 8) v]
  else if !pairs then [.nib p.1 p.2 v]
  else if k % 2 = 0 then [.put p.1 1 (v + 16 * vget t f.vd.toNat w (k + 1))] else []

/-- v.st, v.sts, v.stx. -/
def vstoreBody (x : Iss) (f : VFmtForm) (lit indexed pairs : Bool) (addr : ElemAt)
    (i : Nat) (s : State) : Body :=
  let t := getThread s i
  let w := fmtWidth f.fmt.toNat
  if !vmemForm x f false lit then illegal s i else
  if !vmemConfig t f true
      (vopnd t w f.vd w :: (if indexed then [vopnd t w f.vb 64] else [])) []
  then .trap s 0x0D (wd t.vl.toNat) else
  vstoreRun (fmtBytes f.fmt.toNat) (decide (w = 4)) (fun _ s => s)
    ((vactives t f.msk f.mreg).map (fun k => (k, vstoreElem t f pairs addr k))) i s

/-! ### Descriptor forms (R173, R252, R553) -/

/-- Read and check the descriptor of v.ldd or v.std; `cfg` says that the configuration is legal.
Among several faults the lowest cause code is reported (R92). -/
def vdesc (x : Iss) (f : VFmtForm) (cfg : Bool) (i : Nat) (s : State) :
    State × (List Word ⊕ (BitVec 8 × Word)) :=
  let t := getThread s i
  let addr := getG t f.va
  let bad := (0x0D, wd t.vl.toNat)
  if addr.toNat % 64 ≠ 0 then (s, .inr (if cfg then (0x0E, addr) else bad)) else
  match readOnce (threadAgent s i) i s addr with
  | (s, .inr e) => (s, .inr (if !cfg && decide ((0x0D : BitVec 8) < e.1) then bad else e))
  | (s, .inl ws) =>
    let g4 := decide (f.fmt = 6)
    let p := (getG t f.vb).toNat
    if !cfg then (s, .inr bad)
    else if descLegal ws (fun k => decide (k = f.fmt.toNat)) &&
      (!g4 || (x.long.isSome && !f.msk && decide (p % 32 = 0) && blocksWhole ws p t.vl.toNat))
    then (s, .inl ws) else (s, .inr (0x0E, addr))

/-- Byte b of register x1 holds none of the first `n` elements of 4 bits of the group that begins at register d. -/
def scaleApart (d x1 b n : Nat) : Bool := decide (x1 < d ∨ n ≤ 2 * (512 * (x1 - d) + b))

/-- The scale register of a G4 access, as an operand. -/
def scaleOpnd (x : Iss) (f : VFmtForm) : List (Nat × Nat × Nat) :=
  if f.fmt = 6 ∧ x.long.isSome = true then [((vx1 x).toNat, 8, 1)] else []

def vlddBody (x : Iss) (f : VFmtForm) (i : Nat) (s : State) : Body :=
  let t := getThread s i
  let w := fmtWidth f.fmt.toNat
  if !vmemForm x f (decide (f.fmt = 6)) false then illegal s i else
  match vdesc x f (vmemConfig t f false [] (vopnd t w f.vd w :: scaleOpnd x f)) i s with
  | (s, .inr e) => .trap s e.1 e.2
  | (s, .inl ws) =>
    let cs (k : Nat) : List (List Nat) := [posCoords ws ((getG t f.vb).toNat + k)]
    let put (k : Nat) (vs : List Nat) (u : Thread) : Thread :=
      let r := rowVals ws (cs k) vs
      let u := vput u f.vd.toNat w k (r.1.headD 0)
      if f.fmt = 6 ∧ (scaleWins (vopnd t w f.vd w) (vx1 x).toNat ||
          scaleApart f.vd.toNat (vx1 x).toNat (k / 32) t.vl.toNat) then
        vput u (vx1 x).toNat 8 (k / 32) (r.2.headD 0) else u
    vloadRun x 1 false false put ((vactives t f.msk f.mreg).map (fun k => (k, readAccs ws (cs k)))) i s

def vstdBody (x : Iss) (f : VFmtForm) (i : Nat) (s : State) : Body :=
  let t := getThread s i
  let w := fmtWidth f.fmt.toNat
  if !vmemForm x f (decide (f.fmt = 6)) false then illegal s i else
  match vdesc x f (vmemConfig t f true (vopnd t w f.vd w :: scaleOpnd x f) []) i s with
  | (s, .inr e) => .trap s e.1 e.2
  | (s, .inl ws) =>
    let n := if f.fmt = 6 then 32 else 1
    let cs (k : Nat) : List (List Nat) :=
      (List.range n).map (fun j => posCoords ws ((getG t f.vb).toNat + k + j))
    let codes (k : Nat) : List Nat := (List.range n).map (fun j => vget t f.vd.toNat w (k + j))
    let ks := (vactives t f.msk f.mreg).filter (fun k => decide (k % n = 0))
    vstoreRun 1 (decide (w = 4)) (fun k s => addOob s i (dropped ws (cs k)))
      (ks.map (fun k => (k, rowWrites ws (cs k) (codes k) [vget t (vx1 x).toNat 8 (k / 32)]))) i s

/-! ### The instructions -/

def execVLd (x : Iss) (f : VFmtForm) (s : State) : Host.Outcome State Fault Refusal :=
  .next (issue x (l1Open (vloadBody x f true false true (unitAt x f))) s)
def execVSt (x : Iss) (f : VFmtForm) (s : State) : Host.Outcome State Fault Refusal :=
  .next (issue x (l1Open (vstoreBody x f true false true (unitAt x f))) s)
def execVLds (x : Iss) (f : VFmtForm) (s : State) : Host.Outcome State Fault Refusal :=
  .next (issue x (l1Open (vloadBody x f true false true (strideAt x f))) s)
def execVSts (x : Iss) (f : VFmtForm) (s : State) : Host.Outcome State Fault Refusal :=
  .next (issue x (l1Open (vstoreBody x f true false false (strideAt x f))) s)
def execVLdx (x : Iss) (f : VFmtForm) (s : State) : Host.Outcome State Fault Refusal :=
  .next (issue x (l1Open (vloadBody x f false true false (indexAt f))) s)
def execVStx (x : Iss) (f : VFmtForm) (s : State) : Host.Outcome State Fault Refusal :=
  .next (issue x (l1Open (vstoreBody x f false true false (indexAt f))) s)
def execVLdd (x : Iss) (f : VFmtForm) (s : State) : Host.Outcome State Fault Refusal :=
  .next (issue x (l1Open (vlddBody x f)) s)
def execVStd (x : Iss) (f : VFmtForm) (s : State) : Host.Outcome State Fault Refusal :=
  .next (issue x (l1Open (vstdBody x f)) s)

end Sys2Proof.Machine
end

