-- ==== Sys2Proof/Machine/Tile.lean ====
section
/-! DEFINITION. Tile instructions (majors 0x28 and 0x29; R180 to R208) and the end of zeroing. -/

namespace Sys2Proof.Machine

open Sys2Proof

/-- Formats of a tile (R181). -/
def tileFmt (f : Nat) : Bool :=
  decide (f = 0 ∨ f = 1 ∨ f = 2 ∨ f = 3 ∨ f = 5 ∨ f = 6 ∨ f = 8 ∨ f = 9 ∨ f = 10 ∨ f = 11)

/-- Elements of a row of a tile of a format. -/
def tileCols (f : Nat) : Nat := 2048 / fmtWidth f

/-- A control core has no tiles and no array (R31). -/
def computeOnly (legal : Bool) (body : Nat → State → Body) (i : Nat) (s : State) : Body :=
  if isControl (i / 16) || !legal then illegal s i else body i s

def tileOf (s : State) (i : Nat) (t : Nat) : Tile := getTile (getCore s (i / 16)) t

def putTile (s : State) (i : Nat) (t : Nat) (v : Tile) : State :=
  setCore s (i / 16) (setTile (getCore s (i / 16)) t v)

/-- TILE_STATE (R183). -/
def tileState (s : State) (t : Nat) : Body := .trap s 0x0B (wd t)

/-- An a.ldw in progress names the tile. -/
def ldwNames (s : State) (i t : Nat) : Bool :=
  match (getArr s (i / 16)).ldw with
  | some (k, _) => decide (k = t)
  | none => false

/-- An instruction of the owner that names a tile: it owns it (R183), the tile is not being zeroed
(R187), no a.ldw or pass of its own has it (R33, R229, R245), and no pre-emption is saving it (R185). -/
def withTile (t : Nat) (body : Nat → State → Body) (i : Nat) (s : State) : Body :=
  let x := tileOf s i t
  if x.owner ≠ some (i % 16) then tileState s t
  else if x.zeroing || ldwNames s i t || !openTo x.resv i then .stall s (.tile t)
  else match passGate s i (fromTile t) with
    | (_, some b) => b
    | (s, none) => body i s

/-! ### Save and restore (R203, R204) -/

def tileSlot (base : Word) (t : Nat) : Word := base + wd (0x11000 * t)
def tileHeader (base : Word) (t : Nat) : Word := base + wd (0x88000 + 8 * t)

/-- Rows of a tile as one number, and its scale area. -/
def tileBits (x : Tile) : Nat := joinRows 2048 256 (fun r => (tabGet (fun _ => (0 : TileRow)) x.rows r).toNat)
def scaleBits (x : Tile) : Nat :=
  joinRows 128 256 (fun r => (tabGet (fun _ => (0 : BitVec 128)) x.scales r).toNat)

/-- The writes of a save, the header last. -/
def tileParts (x : Tile) (t : Nat) (base : Word) : List (Word × Nat × Nat) :=
  (if x.use then linePieces (tileSlot base t) 512 (tileBits x) ++
    (if x.fmt = 6 then linePieces (tileSlot base t + 0x10000) 32 (scaleBits x) else []) else []) ++
  [(tileHeader base t, 8, 2 ^ 63 + b2n x.use * 2 ^ 62 + x.fmt.toNat)]

/-- Save tile t of thread o into its slot, on behalf of a thread (R203). -/
def saveTile (s : State) (o by_ t : Nat) : State × Put :=
  saveThrough s o by_ 0x10 (tileParts (tileOf s o t) t)

/-- A table of rows of w bits from a number. -/
def splitRows {w : Nat} (n v : Nat) : Tab (BitVec w) :=
  (List.range n).foldl (fun t k => tabSet (fun _ => 0) t k (BitVec.ofNat w (v >>> (w * k)))) []

/-- Restore tile t from the claimant's slot (R204): none where the slot is not valid. -/
def restoreTile (s : State) (i t : Nat) : State × (Option Tile ⊕ Put) :=
  let a := { tileAgent s i with ring := 0 }
  match savePointer s i 0x10 with
  | (s, .inr e) => (s, .inr (.fault e.1 e.2))
  | (s, .inl none) => (s, .inl none)
  | (s, .inl (some base)) =>
    let hva := tileHeader base t
    match readVa a s hva 8 with
    | (s, .inr e) => (s, .inr (.fault e.1 e.2))
    | (s, .inl h) =>
      if !bit (wd h) 63 then (s, .inl none) else
      let fmt := h % 16
      if !tileFmt fmt then (s, .inr (.fault 0x0B (wd t))) else
      let use := bit (wd h) 62
      let rows := if use then lineAddrs (tileSlot base t) 512 else []
      let scales := if use && decide (fmt = 6) then lineAddrs (tileSlot base t + 0x10000) 32 else []
      match readPieces a (rows ++ scales) s with
      | (s, .inr e) => (s, .inr (.fault e.1 e.2))
      | (s, .inl vs) =>
        match saveWrites a [(hva, 8, h % 2 ^ 63)] s with
        | (s, .ok) =>
          let x : Tile := { Tile.free with
            owner := some (i % 16), fmt := BitVec.ofNat 4 fmt, use := use
            rows := splitRows 256 (joinLines (vs.take 512))
            scales := splitRows 256 (joinLines (vs.drop 512)) }
          (s, .inl (some x))
        | (s, q) => (s, .inr q)

/-! ### t.claim (R184 to R186, R204) -/

/-- A claim or free of tile t, which runs to completion once it has issued: while a write of it is held,
the tile is its own, and claims and instructions of other threads that name the tile wait (R184, R205; log entry
139). -/
def reserving (t : Nat) (body : Nat → State → Body) (i : Nat) (s : State) : Body :=
  let put (v : Option Nat) (s : State) : State :=
    if (tileOf s i t).resv = v then s else putTile s i t { tileOf s i t with resv := v }
  if !openTo (tileOf s i t).resv i then .stall s (.tile t) else
  match body i s with
  | .done s => .done (put none s)
  | .goto s pc => .goto (put none s) pc
  | .again s => .again (put (some (i % 16)) s)
  | .stall s n => .stall s n
  | .trap s c info => .trap (put none s) c info

/-- Claim a free tile: the state, and the status or a fault. -/
def claimFree (s : State) (i : Nat) (f : TileOwnForm) : Body :=
  let t := f.tile.toNat
  let fresh (s : State) : Body :=
    if !tileFmt f.fmt.toNat then tileState s t else
    .done (writeG (putTile s i t { Tile.free with owner := some (i % 16), fmt := f.fmt }) i f.d 0)
  if !f.flag then fresh s else
  match restoreTile s i t with
  | (s, .inr (.fault c info)) => .trap s c info
  | (s, .inr (.held need)) => holdThrough s i need
  | (s, .inr .ok) => fresh s
  | (s, .inl none) => fresh s
  | (s, .inl (some x)) => .done (writeG (putTile s i t x) i f.d 1)

/-- Release the owner's paused instruction, which raises TILE_STATE when it is presented again
(R186). -/
def dropPaused (s : State) (o t : Nat) : State :=
  let th := getThread s o
  if th.tileBusy = some t then
    setThread s o { th.quiet with tileBusy := none }
  else s

/-- A running or paused pass of the owner streams from the tile. -/
def passHas (s : State) (ci t : Nat) : Bool :=
  match (getArr s ci).pass with
  | some p => fromTile t p && decide (p.state ≠ .stopped)
  | none => false

def claimBody (f : TileOwnForm) (i : Nat) (s : State) : Body :=
  let t := f.tile.toNat
  let x := tileOf s i t
  if x.zeroing then .stall s (.tile t) else
  match x.owner with
  | none => claimFree s i f
  | some o =>
    if o = i % 16 then
      if f.fmt = x.fmt then .done (writeG s i f.d 0)
      else if !tileFmt f.fmt.toNat then tileState s t
      else withTile t (fun i s =>
        .done (writeG (putTile s i t { tileOf s i t with fmt := f.fmt }) i f.d 0)) i s
    else
      let oi := coreThr (i / 16) o
      if (getThread s i).prio ≤ (getThread s oi).prio then .done (writeG s i f.d 2)
      else if !f.flag && !tileFmt f.fmt.toNat then tileState s t
      else if ldwNames s i t || passHas s (i / 16) t then .stall s (.tile t)
      else
        match saveTile s oi i t with
        | (s, .fault _ _) => .done (writeG s i f.d 2)
        | (s, .held need) => holdThrough s i need
        | (s, .ok) => claimFree (putTile (dropPaused s oi t) i t Tile.free) i f

/-- t.claim. A reserved format code of R113 is illegal (R207). -/
def execTClaim (x : Iss) (f : TileOwnForm) (s : State) : Host.Outcome State Fault Refusal :=
  .next (issue x (shortOnly x (decide (f.a = 0 ∧ f.b = 0 ∧ f.fmt.toNat < 13))
    (computeOnly true (reserving f.tile.toNat (claimBody f)))) s)

/-! ### t.free, t.zero (R187) -/

def execTFree (x : Iss) (f : TileOwnForm) (s : State) : Host.Outcome State Fault Refusal :=
  let t := f.tile.toNat
  let release (i : Nat) (s : State) : Body := .done (putTile s i t { Tile.free with zeroing := true })
  .next (issue x (shortOnly x (decide (f.d = 0 ∧ f.a = 0 ∧ f.b = 0 ∧ f.fmt = 0))
    (computeOnly true (withTile t (reserving t fun i s =>
      if !f.flag then release i s else
      match saveTile s i i t with
      | (s, .ok) => release i s
      | (s, .fault c info) => .trap s c info
      | (s, .held need) => holdThrough s i need)))) s)

def execTZero (x : Iss) (f : TileOwnForm) (s : State) : Host.Outcome State Fault Refusal :=
  let t := f.tile.toNat
  .next (issue x (shortOnly x (decide (f.d = 0 ∧ f.a = 0 ∧ f.b = 0 ∧ f.flag = false ∧ f.fmt = 0))
    (computeOnly true (withTile t fun i s =>
      let y := tileOf s i t
      .done (putTile s i t
        { y with use := false, rows := [], scales := [], zeroing := true })))) s)

/-- TILE_ZERO_DONE: zeroing ends 64 array cycles after it began. -/
def execTileZeroDone (c : CoreRef) (tile : BitVec 3) (s : State) : Host.Outcome State Fault Refusal :=
  let k := getCore s (cix c)
  .next (setCore s (cix c) (setTile k tile.toNat { getTile k tile.toNat with zeroing := false }))

/-! ### Loads and stores (R192 to R202, R206, R268) -/

/-- Form of major 0x29: no literal, X1 for the scales of G4, XF[3] the streaming hint, d at most 7
(R207, R550). Where no G4 scales are addressed by it, X1 is unused and may hold any value (log entry 107). -/
def tileForm (x : Iss) (f : TileMemForm) : Bool :=
  decide (f.d.toNat < 8) &&
  (match x.long with
   | none => true
   | some p => decide (p.lit = .none ∧ p.x2 = 0 ∧ p.x3 = 0 ∧ p.xf.toNat &&& 8 = p.xf.toNat))

/-- Row r of a tile, with its scale row. -/
def tileRow (x : Tile) (r : Nat) : Nat := (tabGet (fun _ => (0 : TileRow)) x.rows r).toNat
def tileScale (x : Tile) (r : Nat) : Nat := (tabGet (fun _ => (0 : BitVec 128)) x.scales r).toNat

/-- Write a row of a tile, which becomes in use (R188). -/
def putRow (s : State) (i t r bits : Nat) (scales : Option Nat) : State :=
  let x := tileOf s i t
  putTile s i t { x with
    use := true
    rows := tabSet (fun _ => 0) x.rows r (BitVec.ofNat 2048 bits)
    scales := match scales with
      | some v => tabSet (fun _ => 0) x.scales r (BitVec.ofNat 128 v)
      | none => x.scales }

/-- Pack codes of w bits. -/
def packCodes (w : Nat) (xs : List Nat) : Nat := xs.foldr (fun v a => v + 2 ^ w * a) 0

/-- Unpack n codes of w bits. -/
def unpackCodes (w n v : Nat) : List Nat := (List.range n).map (fun k => (v >>> (w * k)) % 2 ^ w)

/-- Write source row k of a transposed load into tile column k (R201). -/
def putColumn (s : State) (i t w k : Nat) (xs : List Nat) : State :=
  let x := tileOf s i t
  let m : TileRow := BitVec.ofNat 2048 ((2 ^ w - 1) <<< (w * k))
  let rows := ((List.range 256).zip xs).foldl (fun (rs : Tab TileRow) e =>
    let old := tabGet (fun _ => (0 : TileRow)) rs e.1
    tabSet (fun _ => 0) rs e.1
      ((old &&& ~~~m) ||| BitVec.ofNat 2048 ((e.2 % 2 ^ w) <<< (w * k)))) x.rows
  putTile s i t { x with use := true, rows := rows }

/-- The lines of `n` bytes from an address. -/
def memLines (va : Word) (n : Nat) : List (Word × Nat) := lineAddrs va (n / 128)

/-- FAULTINFO of a row: the line of an element access, the scale address itself (R196). -/
def rowInfo (scales : List Word) (info : Word) : Word :=
  if info ∈ scales then info else info &&& ~~~(127 : Word)

/-- What a t.ld, t.st or t.ldt needs besides its rows: checks of the count, format and form. -/
def tileMem (x : Iss) (f : TileMemForm) (ldt : Bool) (body : Nat → Nat → Nat → State → Body) :
    Nat → State → Body :=
  fun i s =>
  if x.long.isSome && !tileForm x f then illegal s i else
  computeOnly (tileForm x f) (withTile f.d.toNat fun i s =>
    let t := f.d.toNat
    let th := getThread s i
    let fmt := (tileOf s i t).fmt.toNat
    let n := (getG th f.c).toNat
    if n = 0 ∨ (if ldt then tileCols fmt else 256) < n then tileState s t
    else if ldt && is4 fmt then tileState s t
    else if decide (fmt = 6) && x.long.isNone then tileState s t
    else
      let start := if ldt then th.tstart.toNat / 8 * 8 else th.tstart.toNat
      if n ≤ start then .done (modThread s i (fun t => { t with tstart := 0 }))
      else body start n i s) i s

/-- Read the source rows of one unit in order; the first that misses or faults ends it (R92). -/
def gatherRows (x : Iss) (i : Nat) (a : Agent) (align : Nat) :
    List (List (Word × Nat)) → State → State × Got
  | [], s => (s, .vals [])
  | r :: t, s =>
    match gather x i a align r s with
    | (s, .vals v) =>
      match gatherRows x i a align t s with
      | (s, .vals w) => (s, .vals (v ++ w))
      | z => z
    | z => z

/-- Process units in ascending order, each with its position and its source rows. -/
def gatherUnits (x : Iss) (i : Nat) (a : Agent) (align : Nat) (put : Nat → List Nat → State → State) :
    List (Nat × List (List (Word × Nat))) → State → State × Option (Nat × Got)
  | [], s => (s, none)
  | (k, rows) :: t, s =>
    match gatherRows x i a align rows s with
    | (s, .vals vs) => gatherUnits x i a align put t (put k vs s)
    | (s, g) => (s, some (k, g))

/-- Run the rows or groups of rows of a load, given by position and source rows. -/
def tileLoadRun (x : Iss) (t align : Nat) (scales : Nat → List Word)
    (put : Nat → List Nat → State → State) (units : List (Nat × List (List (Word × Nat))))
    (i : Nat) (s : State) : Body :=
  let a := tileAgent s i
  match gatherUnits x i a align put units s with
  | (s, none) => .done (modThread s i (fun t => { t with tstart := 0 }))
  | (s, some (k, .miss ls)) =>
    let ages := hintAges s i x
    let rest := ahead i a align ((units.filter (fun u => decide (k ≤ u.1))).flatMap Prod.snd) s
    let s := stopAt rest.1 i (fun h => { h with tstart := BitVec.ofNat 8 k, tileBusy := some t })
    .again (waitLines s i a.cls ages.1 ages.2 ls (lineSetOf rest.2))
  | (s, some (k, .fault c info)) =>
    .trap (stopAt s i (fun h => { h with tstart := BitVec.ofNat 8 k })) c
      (if c = 0x05 ∨ c = 0x43 then info else rowInfo (scales k) info)
  | (s, some (_, .vals _)) => .again s

/-- Allocate a line that t.st has written whole in L1, if L2 holds it and L1 does not (R200, R285, R291,
R295). -/
def allocL1 (i age : Nat) (s : State) (l : Nat) : State :=
  let c := i / 16
  let k := getCore s c
  match tabFind s.l2 l, tabFind k.l1d l with
  | some ln, none =>
    let s := { s with l2 := tabPut s.l2 l { ln with sharers := insertNat c ln.sharers } }
    setCore s c { k with l1d := l1Insert k.l1d 16 128 l age false ln.data }
  | _, _ => s

/-- Check the writes of one row, perform them, and allocate the lines that they cover whole. -/
def storeRow (i age : Nat) (a : Agent) (align : Nat) (ws : List Wr) (s : State) : State × Put :=
  match xlatAll a .store align (ws.map (fun w => (w.addr, 0))) s with
  | (s, .inr (.trap c info)) => (s, .fault c info)
  | (s, .inr (.held n)) => (s, .held n)
  | (s, .inr _) => (s, .ok)
  | (s, .inl ps) =>
    match performAll a (ps.zip ws) s with
    | (s, .ok) =>
      let whole := (planWrites a (ps.zip ws)).1.filter (fun e => e.2.2.1 = BitVec.allOnes 1024)
      ((whole.map (·.1)).foldl (allocL1 i age) s, .ok)
    | r => r

/-- Store rows in ascending order; `after` follows each that has been written. -/
def storeRows (i age : Nat) (a : Agent) (align : Nat) (after : Nat → State → State) :
    List (Nat × List Wr) → State → State × Option (Nat × Put)
  | [], s => (s, none)
  | (k, ws) :: t, s =>
    match storeRow i age a align ws s with
    | (s, .ok) => storeRows i age a align after t (after k s)
    | (s, p) => (s, some (k, p))

/-- Run the rows of a store. -/
def tileStoreRun (x : Iss) (scales : Nat → List Word) (after : Nat → State → State)
    (units : List (Nat × List Wr)) (i : Nat) (s : State) : Body :=
  let ages := hintAges s i x
  match storeRows i ages.1 { tileAgent s i with age := ages.2 } 1 after units s with
  | (s, none) => .done (modThread s i (fun t => { t with tstart := 0 }))
  | (s, some (k, p)) =>
    let s := stopAt s i (fun h => { h with tstart := BitVec.ofNat 8 k })
    match p with
    | .fault c info =>
      .trap s c (if c = 0x05 ∨ c = 0x43 then info else rowInfo (scales k) info)
    | .held need => holdAt s i need
    | .ok => .again s

/-- Address of memory row r. -/
def rowAddr (th : Thread) (f : TileMemForm) (r : Nat) : Word := getG th f.a + wd r * getG th f.b

/-- Address of scale row r, if the tile is G4. -/
def rowScale (x : Iss) (th : Thread) (fmt r : Nat) : List Word :=
  if fmt = 6 then [getG th (vx1 x) + wd (16 * r)] else []

/-- The row and scale addresses of a base-form access are aligned to 128 and 16 (R193, R199). -/
def rowAligned (row : Word) (scales : List Word) : Option Word :=
  if row.toNat % 128 ≠ 0 then some row
  else scales.find? (fun w => decide (w.toNat % 16 ≠ 0))

/-- The rows before the first misaligned one, and that one's position and address. -/
def alignedRows (x : Iss) (f : TileMemForm) (th : Thread) (fmt start n : Nat) :
    List Nat × Option (Nat × Word) :=
  let rows := (List.range (n - start)).map (fun k => start + k)
  let bad (r : Nat) : Option Word := rowAligned (rowAddr th f r) (rowScale x th fmt r)
  (rows.takeWhile (fun r => (bad r).isNone),
   rows.findSome? (fun r => (bad r).map (fun w => (r, w))))

/-- Follow the aligned rows with the ALIGNMENT fault of the first misaligned one. -/
def thenMisaligned (bad : Option (Nat × Word)) (i : Nat) : Body → Body
  | .done s =>
    match bad with
    | some (r, w) => .trap (stopAt s i (fun h => { h with tstart := BitVec.ofNat 8 r })) 0x05 w
    | none => .done s
  | b => b

def tldBody (x : Iss) (f : TileMemForm) : Nat → State → Body :=
  tileMem x f false fun start n i s =>
    let t := f.d.toNat
    let th := getThread s i
    let fmt := (tileOf s i t).fmt.toNat
    let rows := alignedRows x f th fmt start n
    let accs (r : Nat) : List (Word × Nat) :=
      memLines (rowAddr th f r) 256 ++ (rowScale x th fmt r).map (fun w => (w, 16))
    let put (r : Nat) (vs : List Nat) (s : State) : State :=
      putRow s i t r (joinLines (vs.take 2)) (if fmt = 6 then some ((vs.drop 2).headD 0) else none)
    thenMisaligned rows.2 i
      (tileLoadRun x t 1 (rowScale x th fmt) put (rows.1.map (fun r => (r, [accs r]))) i s)

/-- The row whose tile words hold an uncorrectable error, among the rows that a store passes. -/
def badRow (ue : Option ReadErr) (rows : List Nat) : Option Nat :=
  match ue with
  | some (.row k) => if k.toNat ∈ rows then some k.toNat else none
  | _ => none

/-- A store of tile t whose row `bad` holds an uncorrectable error: the rows below it are stored, and
MEM_SRAM follows with the tile and row, unless that row's accesses fault first (R92, R196). -/
def storeToError (bad : Option Nat) (t i : Nat) (run : (Nat → Bool) → Body) : Body :=
  match bad with
  | none => run (fun _ => true)
  | some k =>
    match run (fun r => decide (r ≤ k)) with
    | .done _ =>
      match run (fun r => decide (r < k)) with
      | .done s => sramTrap (stopAt s i (fun h => { h with tstart := BitVec.ofNat 8 k })) i
          (wd (256 * t + k))
      | b => b
    | b => b

def tstBody (x : Iss) (f : TileMemForm) : Nat → State → Body :=
  tileMem x f false fun start n i s =>
    let t := f.d.toNat
    let th := getThread s i
    let tl := tileOf s i t
    let fmt := tl.fmt.toNat
    let rows := alignedRows x f th fmt start n
    let writes (r : Nat) : List Wr :=
      (linePieces (rowAddr th f r) 2 (tileRow tl r)).map (fun w => .put w.1 w.2.1 w.2.2) ++
      (rowScale x th fmt r).map (fun w => .put w 16 (tileScale tl r))
    thenMisaligned rows.2 i (storeToError (badRow x.ue rows.1) t i fun upto =>
      tileStoreRun x (rowScale x th fmt) (fun _ s => s)
        ((rows.1.filter upto).map (fun r => (r, writes r))) i s)

/-- Source rows of the group of 8 that begins at k (R202). -/
def groupRows (n k : Nat) : List Nat :=
  ((List.range 8).map (fun j => k + j)).filter (fun r => decide (r < n))

/-- Positions of the groups from `start` on. -/
def groupStarts (start n : Nat) : List Nat :=
  ((List.range ((n - start + 7) / 8)).map (fun g => start + 8 * g))

def tldtBody (x : Iss) (f : TileMemForm) : Nat → State → Body :=
  tileMem x f true fun start n i s =>
    let t := f.d.toNat
    let th := getThread s i
    let w := fmtWidth (tileOf s i t).fmt.toNat
    let bytes := 32 * w
    let accs (k : Nat) : List (List (Word × Nat)) :=
      (groupRows n k).map (fun r => memLines (rowAddr th f r) bytes)
    let put (k : Nat) (vs : List Nat) (s : State) : State :=
      ((List.range 8).zip (groupRows n k)).foldl (fun s e =>
        putColumn s i t w e.2
          (unpackCodes w 256 (joinLines ((vs.drop (e.1 * (bytes / 128))).take (bytes / 128))))) s
    tileLoadRun x t 128 (fun _ => []) put ((groupStarts start n).map (fun k => (k, accs k))) i s

/-! ### Descriptor forms -/

/-- Open the descriptor of a tile instruction: the tile's format only (R267). -/
def tileDesc (f : TileMemForm) (i : Nat) (s : State) : State × (List Word ⊕ (BitVec 8 × Word)) :=
  openOnce (tileAgent s i) i s (getG (getThread s i) f.a)
    (fun k => decide (k = (tileOf s i f.d.toNat).fmt.toNat))

/-- Scale addresses of a descriptor row. -/
def descScales (ws : List Word) (css : List (List Nat)) : List Word :=
  if dFmt ws = 6 then (blockStarts css).map (fun c => scaleAddr ws (elemOffset ws c)) else []

def tldDescBody (x : Iss) (f : TileMemForm) : Nat → State → Body :=
  tileMem x f false fun start n i s =>
    let t := f.d.toNat
    let th := getThread s i
    match tileDesc f i s with
    | (s, .inr e) => .trap s e.1 e.2
    | (s, .inl ws) =>
      let w := fmtWidth (dFmt ws)
      let css (r : Nat) := rowCoords ws ((getG th f.b).toNat + r) (tileCols (dFmt ws))
      let put (r : Nat) (vs : List Nat) (s : State) : State :=
        let v := rowVals ws (css r) vs
        putRow s i t r (packCodes w v.1) (if dFmt ws = 6 then some (packCodes 8 v.2) else none)
      tileLoadRun x t 1 (fun r => descScales ws (css r)) put
        ((List.range (n - start)).map (fun k => (start + k, [readAccs ws (css (start + k))]))) i s

def tstDescBody (x : Iss) (f : TileMemForm) : Nat → State → Body :=
  tileMem x f false fun start n i s =>
    let t := f.d.toNat
    let th := getThread s i
    match tileDesc f i s with
    | (s, .inr e) => .trap s e.1 e.2
    | (s, .inl ws) =>
      let tl := tileOf s i t
      let w := fmtWidth (dFmt ws)
      let c := tileCols (dFmt ws)
      let css (r : Nat) := rowCoords ws ((getG th f.b).toNat + r) c
      let writes (r : Nat) : List Wr :=
        rowWrites ws (css r) (unpackCodes w c (tileRow tl r)) (unpackCodes 8 16 (tileScale tl r))
      let rows := (List.range (n - start)).map (fun k => start + k)
      storeToError (badRow x.ue rows) t i fun upto =>
        tileStoreRun x (fun r => descScales ws (css r)) (fun r s => addOob s i (dropped ws (css r)))
          ((rows.filter upto).map (fun r => (r, writes r))) i s

def tldtDescBody (x : Iss) (f : TileMemForm) : Nat → State → Body :=
  tileMem x f true fun start n i s =>
    let t := f.d.toNat
    let th := getThread s i
    match tileDesc f i s with
    | (s, .inr e) => .trap s e.1 e.2
    | (s, .inl ws) =>
      let w := fmtWidth (dFmt ws)
      let css (r : Nat) := rowCoords ws ((getG th f.b).toNat + r) 256
      let put (k : Nat) (vs : List Nat) (s : State) : State :=
        ((groupRows n k).foldl (fun (x : State × List Nat) r =>
          let m := (readAccs ws (css r)).length
          (putColumn x.1 i t w r (rowVals ws (css r) (x.2.take m)).1, x.2.drop m)) (s, vs)).1
      tileLoadRun x t 1 (fun _ => []) put
        ((groupStarts start n).map (fun k =>
          (k, (groupRows n k).map (fun r => readAccs ws (css r))))) i s

def execTLd (x : Iss) (f : TileMemForm) (s : State) : Host.Outcome State Fault Refusal :=
  .next (issue x (l1Open (tldBody x f)) s)
def execTSt (x : Iss) (f : TileMemForm) (s : State) : Host.Outcome State Fault Refusal :=
  .next (issue x (l1Open (tstBody x f)) s)
def execTLdt (x : Iss) (f : TileMemForm) (s : State) : Host.Outcome State Fault Refusal :=
  .next (issue x (l1Open (tldtBody x f)) s)
def execTLdDesc (x : Iss) (f : TileMemForm) (s : State) : Host.Outcome State Fault Refusal :=
  .next (issue x (l1Open (tldDescBody x f)) s)
def execTStDesc (x : Iss) (f : TileMemForm) (s : State) : Host.Outcome State Fault Refusal :=
  .next (issue x (l1Open (tstDescBody x f)) s)
def execTLdtDesc (x : Iss) (f : TileMemForm) (s : State) : Host.Outcome State Fault Refusal :=
  .next (issue x (l1Open (tldtDescBody x f)) s)

end Sys2Proof.Machine
end

