-- ==== Sys2Proof/Machine/Array.lean ====
section
/-! DEFINITION. Array instructions and the events of a pass (majors 0x2C to 0x2E; R209 to R248,
R552). -/

namespace Sys2Proof.Machine

open Sys2Proof

/-! ### Saving and restoring the planes (R219, R220) -/

/-- The writes of a weight plane at an address. -/
def planeParts (p : Plane) (va : Word) : List (Word × Nat × Nat) :=
  if !p.use then [] else
  linePieces va 512 (joinRows 2048 256 (fun j => (tabGet (fun _ => (0 : TileRow)) p.cols j).toNat)) ++
  linePieces (va + 0x10000) 32
    (joinRows 128 256 (fun j => (tabGet (fun _ => (0 : BitVec 128)) p.scales j).toNat))

def accParts (p : AccPlane) (va : Word) : List (Word × Nat × Nat) :=
  if !p.use then [] else
  linePieces va 2048 (joinRows 8192 256 (fun r => (tabGet (fun _ => (0 : AccRow)) p.rows r).toNat))

/-- FN[5:0] of a pass. -/
def passFn (p : Pass) : Nat := b2n p.src * 32 + b2n p.ax * 16 + p.op.toNat * 2 + b2n p.sw

/-- The words of the pass record. -/
def passRecord (p : Pass) (stop : Nat) : List Word :=
  [p.srcAddr, p.spos, wd p.count, p.dspec, p.daddr, p.dpos,
   wd (stop * 2 ^ 32 + passFn p * 2 ^ 8 + p.rnd.toNat)]

def arrParts (a : Arr) (stop : Nat) (base : Word) : List (Word × Nat × Nat) :=
  let rec_ := match a.pass with
    | some p => ((List.range 7).zip (passRecord p stop)).map (fun e =>
        (base + 0xA2008 + wd (8 * e.1), 8, e.2.toNat))
    | none => []
  let hdr := 2 ^ 63 + b2n a.front.use * 2 ^ 62 + b2n a.back.use * 2 ^ 61 + b2n a.acc0.use * 2 ^ 60 +
    b2n a.acc1.use * 2 ^ 59 + b2n a.pass.isSome * 2 ^ 58 + a.back.fmt.toNat * 16 + a.front.fmt.toNat
  planeParts a.front base ++ planeParts a.back (base + 0x11000) ++
  accParts a.acc0 (base + 0x22000) ++ accParts a.acc1 (base + 0x62000) ++ rec_ ++
  [(base + 0xA2000, 8, hdr)]

/-- The physical address of the header of a save area. -/
def headerPa (s : State) (a : Agent) (base : Word) : Option Nat :=
  match (xlat a .load s (base + 0xA2000)).2 with
  | .to pa => some pa
  | _ => none

/-- The device remembers the SEED of a pass that it has saved, with the record (R133; log entry 27). -/
def keepSeed (s : State) (i : Nat) (p : Pass) : State :=
  match savePointer s i 0x18 with
  | (s, .inl (some base)) =>
    match headerPa s { tileAgent s i with ring := 0 } base with
    | some pa =>
      { s with passSeeds := tabPut s.passSeeds pa (passRecord p (getThread s i).apos.toNat, p.seed) }
    | none => s
  | (s, _) => s

/-- Save an array for its owner, thread i, on behalf of a thread. -/
def saveArray (s : State) (i by_ : Nat) (a : Arr) : State × Put :=
  match saveThrough s i by_ 0x18 (arrParts a (getThread s i).apos.toNat), a.pass with
  | (s, .ok), some p => (keepSeed s i p, .ok)
  | r, _ => r

/-- The SEED of the pass in a record at a physical address: the one it was saved with, or a free value where
the record is not one that the device has written there (log entry 27). -/
def seedOf (s : State) (pa : Option Nat) (ws : List Nat) : Word × State :=
  match pa.bind (tabFind s.passSeeds) with
  | some (r, seed) => if r = ws.map wd then (seed, s) else drawFree s
  | none => drawFree s

/-- A weight plane from the 544 lines of its part of the save area. -/
def planeFrom (use : Bool) (fmt : Nat) (vs : List Nat) : Plane :=
  let p : Plane := { Plane.zero with fmt := BitVec.ofNat 4 fmt, use := use }
  if !use then p else checkCells { p with
    cols := splitRows 256 (joinLines (vs.take 512))
    scales := if fmt = 6 then splitRows 256 (joinLines ((vs.drop 512).take 32)) else [] }

def accFrom (use : Bool) (vs : List Nat) : AccPlane :=
  { use := use, rows := if use then splitRows 256 (joinLines vs) else [] }

/-- A stopped pass from its record. -/
def passFrom (ws : List Nat) (seed : Word) : Pass :=
  let w (k : Nat) : Word := wd ((ws.drop k).headD 0)
  let ctl := w 6
  { state := .stopped, src := bit ctl 13, ax := bit ctl 12, op := BitVec.ofNat 3 (field ctl 9 3),
    sw := bit ctl 8, rnd := BitVec.ofNat 2 (field ctl 0 2), srcAddr := w 0, spos := w 1,
    count := (w 2).toNat, dspec := w 3, daddr := w 4, dpos := w 5, srcDesc := [], dstDesc := [],
    reread := true, seed := seed, ring := 0, aspace := 0, fmt := 0, enter := field ctl 32 32,
    done := field ctl 32 32, inside := [], buffer := [], flags := 0, due := none, fault := none,
    refused := false, mismatched := false }

/-- Restore the array from the claimant's save area: none where it is not valid. -/
def restoreArray (s : State) (i : Nat) : State × (Option Arr ⊕ Put) :=
  let a := { tileAgent s i with ring := 0 }
  match savePointer s i 0x18 with
  | (s, .inr e) => (s, .inr (.fault e.1 e.2))
  | (s, .inl none) => (s, .inl none)
  | (s, .inl (some base)) =>
    match readVa a s (base + 0xA2000) 8 with
    | (s, .inr e) => (s, .inr (.fault e.1 e.2))
    | (s, .inl h) =>
      let b (k : Nat) : Bool := bit (wd h) k
      if !b 63 then (s, .inl none) else
      let part (use : Bool) (off : Word) (n : Nat) := if use then lineAddrs (base + off) n else []
      let pieces := part (b 62) 0 544 ++ part (b 61) 0x11000 544 ++ part (b 60) 0x22000 2048 ++
        part (b 59) 0x62000 2048 ++
        (if b 58 then (List.range 7).map (fun k => (base + 0xA2008 + wd (8 * k), 8)) else [])
      match readPieces a pieces s with
      | (s, .inr e) => (s, .inr (.fault e.1 e.2))
      | (s, .inl vs) =>
        match saveWrites a [(base + 0xA2000, 8, h % 2 ^ 63)] s with
        | (s, .fault c info) => (s, .inr (.fault c info))
        | (s, .held need) => (s, .inr (.held need))
        | (s, .ok) =>
          let n (use : Bool) (k : Nat) : Nat := if use then k else 0
          let v1 := vs.drop (n (b 62) 544)
          let v2 := v1.drop (n (b 61) 544)
          let v3 := v2.drop (n (b 60) 2048)
          let v4 := v3.drop (n (b 59) 2048)
          let d := seedOf s (headerPa s a base) v4
          let x : Arr := { Arr.free with
            front := planeFrom (b 62) (h % 16) vs
            back := planeFrom (b 61) (h / 16 % 16) v1
            acc0 := accFrom (b 60) (v2.take 2048)
            acc1 := accFrom (b 59) (v3.take 2048)
            pass := if b 58 then some (passFrom v4 d.1) else none }
          (if b 58 then d.2 else s, .inl (some x))

/-! ### a.claim (R213, R214) -/

/-- Give a free array to thread i. -/
def takeArray (s : State) (i : Nat) (x : Arr) : State :=
  let lost := (getArr s (i / 16)).lost.filter (fun t => decide (t ≠ i % 16))
  let s := setArr s (i / 16) { x with owner := some (i % 16), lost := lost }
  modThread s i (fun t => { t with astatReason := 0, astatStop := 0 })

/-- A claim or free of the array, which runs to completion once it has issued: while it waits for the rows
inside or for a held write, the array is its own (R205, R213; log entry 139). -/
def reservingArr (body : Nat → State → Body) (i : Nat) (s : State) : Body :=
  let put (v : Option Nat) (s : State) : State := setArr s (i / 16) { getArr s (i / 16) with resv := v }
  if !openTo (getArr s (i / 16)).resv i then .stall s .zeroing else
  match body i s with
  | .done s => .done (put none s)
  | .goto s pc => .goto (put none s) pc
  | .again s => .again (put (some (i % 16)) (modThread s i (fun t => { t with midway := true })))
  | .stall s n => .stall s n
  | .trap s c info => .trap (put none s) c info

def claimArray (s : State) (i : Nat) (f : ArrOwnForm) : Body :=
  let fresh (s : State) : Body := .done (writeG (takeArray s i Arr.free) i f.d 0)
  if !f.flag then fresh s else
  match restoreArray s i with
  | (s, .inr (.fault c info)) => .trap s c info
  | (s, .inr (.held need)) => holdThrough s i need
  | (s, .inr .ok) => fresh s
  | (s, .inl none) => fresh s
  | (s, .inl (some x)) =>
    let s := takeArray s i x
    let s := match x.pass with
      | some p => modThread s i (fun t => { t with apos := BitVec.ofNat 32 p.done })
      | none => s
    .done (writeG s i f.d 1)

/-- The owner's array is taken without a new owner: it is zero, and the owner has lost it. -/
def loseArray (s : State) (ci o : Nat) : State :=
  setArr s ci { Arr.free with lost := insertNat o (getArr s ci).lost, resv := (getArr s ci).resv }

def aClaimBody (f : ArrOwnForm) (i : Nat) (s : State) : Body :=
  let ci := i / 16
  let a := getArr s ci
  if a.zeroing || (a.saving && a.resv.isNone) then .stall s .zeroing else
  match a.owner with
  | none => claimArray s i f
  | some o =>
    if o = i % 16 then .done (writeG s i f.d 0)
    else if (getThread s i).prio ≤ (getThread s (coreThr ci o)).prio then .done (writeG s i f.d 2)
    else
      let r := settleArray s ci o
      if !r.2 then .again r.1 else
      match saveArray r.1 (coreThr ci o) i (getArr r.1 ci) with
      | (s, .fault _ _) => .done (writeG s i f.d 2)
      | (s, .held need) => holdThrough s i need
      | (s, .ok) => claimArray (loseArray s ci o) i f

def execAClaim (x : Iss) (f : ArrOwnForm) (s : State) : Host.Outcome State Fault Refusal :=
  .next (issue x (shortOnly x (decide (f.a = 0 ∧ f.b = 0 ∧ f.tile = 0 ∧ f.dbit = false ∧ f.rsv = 0))
    (computeOnly true (reservingArr (aClaimBody f)))) s)

/-- A write of 1 to a thread's bit of CORE_ARRAY_CTL.SAVE (R215): while rows inside cannot complete, or the
context manager holds a write, or a claim or free that has issued goes on, the save is in progress. -/
def forceSave (s : State) (ci o : Nat) : State :=
  if (getArr s ci).owner ≠ some o then s else
  let saving (b : Bool) (s : State) : State := setArr s ci { getArr s ci with saving := b }
  if (getArr s ci).resv.isSome then saving true s else
  let r := settleArray s ci o
  if !r.2 then saving true r.1 else
  match saveArray r.1 (coreThr ci o) (coreThr ci o) (getArr r.1 ci) with
  | (s, .ok) => loseArray s ci o
  | (s, .fault _ _) => rsetField (saving false s) (coreReg ci 0x58) 32 1 1
  | (s, .held need) => listHeld (saving true s) (some (coreThr ci o)) need

/-- Forced saves in progress go on. -/
def retrySaves (s : State) : State :=
  s.cores.foldl (fun s e =>
    match e.2.arr.saving, e.2.arr.owner with
    | true, some o => forceSave s e.1 o
    | _, _ => s) s

/-- ARRAY_FORCED_SAVE (R215). -/
def execArrayForcedSave (src : Sender) (t : Thr) (s : State) : Host.Outcome State Fault Refusal :=
  .next (if mayWrite s src 1 then forceSave s (thrCore t) t.thr.toNat else s)

/-! ### a.free, a.swap, a.ldw (R217, R221 to R223) -/

/-- An instruction that needs the array: its owner, with no a.ldw in progress, and no pass that
`names` picks in its way. -/
def withArray (ldw : Bool) (names : Pass → Bool) (body : Nat → State → Body) (i : Nat) (s : State) :
    Body :=
  let r := notOwner s i
  if r ≠ 0 then arrayState s i r
  else if !openTo (getArr s (i / 16)).resv i ∨ ((getArr s (i / 16)).saving ∧ (getArr s (i / 16)).resv.isNone) then
    .stall s .pass
  else if ldw && (getArr s (i / 16)).ldw.isSome then .stall s .ldw
  else match passGate s i names with
    | (_, some b) => b
    | (s, none) => body i s

/-- The error of an a.ldw is raised by the next instruction that needs the back plane (R222). -/
def backPlane (body : Nat → State → Body) (i : Nat) (s : State) : Body :=
  let a := getArr s (i / 16)
  match a.ldwErr with
  | some info => .trap (setArr s (i / 16) { a with ldwErr := none }) 0x41 info
  | none => body i s

/-- An array as a.free saves it: with D = 1 its stopped pass is discarded. -/
def discardStopped (d : Bool) (a : Arr) : Arr :=
  match a.pass with
  | some p => if d && decide (p.state = .stopped) then { a with pass := none } else a
  | none => a

def execAFree (x : Iss) (f : ArrOwnForm) (s : State) : Host.Outcome State Fault Refusal :=
  let release (i : Nat) (s : State) : Body :=
    let s := modThread s i (fun t => { t with astatStop := 0 })
    .done (setArr s (i / 16) { Arr.free with zeroing := true, lost := (getArr s (i / 16)).lost })
  .next (issue x (shortOnly x (decide (f.d = 0 ∧ f.a = 0 ∧ f.b = 0 ∧ f.tile = 0 ∧ f.rsv = 0))
    (computeOnly true (withArray true (fun p => !f.dbit || decide (p.state = .running)) (reservingArr fun i s =>
      if !f.flag then release i s else
      match saveArray s i i (discardStopped f.dbit (getArr s (i / 16))) with
      | (s, .ok) => release i s
      | (s, .fault c info) => .trap s c info
      | (s, .held need) => holdThrough s i need)))) s)

/-- ARRAY_ZERO_DONE. -/
def execArrayZeroDone (c : CoreRef) (s : State) : Host.Outcome State Fault Refusal :=
  .next (setArr s (cix c) { getArr s (cix c) with zeroing := false })

def execASwap (x : Iss) (f : ArrOwnForm) (s : State) : Host.Outcome State Fault Refusal :=
  .next (issue x (shortOnly x (decide (f.d = 0 ∧ f.a = 0 ∧ f.b = 0 ∧ f.tile = 0 ∧ f.flag = false ∧
      f.dbit = false ∧ f.rsv = 0))
    (computeOnly true (withArray true anyPass (backPlane fun i s =>
      let a := getArr s (i / 16)
      .done (setArr s (i / 16) { a with front := a.back, back := a.front }))))) s)

def execALdw (x : Iss) (f : ArrOwnForm) (s : State) : Host.Outcome State Fault Refusal :=
  let t := f.tile.toNat
  .next (issue x (shortOnly x (decide (f.d = 0 ∧ f.a = 0 ∧ f.b = 0 ∧ f.dbit = false ∧ f.rsv = 0))
    (computeOnly true (withTile t (withArray true (fun _ => false) (backPlane fun i s =>
      if modeOf (tileOf s i t).fmt.toNat = 6 then arrayState s i 3
      else
        let a := getArr s (i / 16)
        .done (setArr s (i / 16) { a with ldw := some (t, f.flag) })))))) s)

/-- A_LDW_DONE: the load completes, or an uncorrectable error of a tile row ends it (R222). -/
def execALdwDone (c : CoreRef) (ue : Option (BitVec 8)) (s : State) : Host.Outcome State Fault Refusal :=
  let ci := cix c
  let a := getArr s ci
  .next (
    match a.ldw, ue with
    | some (t, _), some row =>
      let info := wd (t * 256 + row.toNat)
      let s := setArr s ci { a with
        ldw := none, ldwErr := some info, back := { a.back with use := false } }
      ueIn s (unitOf (ci / 34) (ci % 34)) info inCore
    | _, _ => finishLdw s ci)

/-! ### a.pass (R224 to R227) -/

/-- Form of a.pass: X1, X2 and RND of the long form. -/
def passForm (x : Iss) (f : PassForm) : Bool :=
  decide (f.op ≠ 7) && (f.src || decide (f.a.toNat < 8)) &&
  (match x.long with
   | none => true
   | some p => decide (p.lit = .none ∧ p.x3 = 0 ∧ p.xf.toNat < 3))

/-- Read the descriptor that the pass names, if it names one. -/
def passDesc (s : State) (i : Nat) (use : Bool) (addr : Word) :
    State × (List Word ⊕ (BitVec 8 × Word)) :=
  if use then openOnce { threadAgent s i with cls := 2, age := 2 } i s addr (fun _ => true) else (s, .inl [])

/-- Reasons of ARRAY_STATE that hold, lowest first (log entry 30). -/
def passReasons (a : Arr) (f : PassForm) (fmt : Nat) (th : Thread) (front : Plane)
    (dst : List Word) : List Nat :=
  let v := getG th f.d
  let n := (getG th f.c).toNat
  let m := modeOf front.fmt.toNat
  let stream := bit v 63
  let r (b : Bool) (k : Nat) : List Nat := if b then [k] else []
  r (!sourceFmt { a with front := front } fmt || (stream && !dst.isEmpty && !streamDst (dFmt dst))) 3 ++
  r (decide (n = 0 ∨ 2 ^ 32 < n) ||
     (!f.src && decide (256 < (getG th f.b).toNat + n)) ||
     (if stream then decide (field v 0 63 ≠ 0)
      else decide (256 < field v 8 8 + n ∨ field v 16 47 ≠ 0 ∨ field v 3 5 ≠ 0) ||
        (bit v 1 && !mode16 m))) 4 ++
  r ((f.ax && mode4 m) || (decide (f.op ≠ 0) && mode4 m)) 5

/-- The fault with the lower cause code. -/
def lowerFault (x y : Option (BitVec 8 × Word)) : Option (BitVec 8 × Word) :=
  match x, y with
  | some a, some b => if b.1 < a.1 then some b else some a
  | some a, none => some a
  | none, y => y

def faultOf {α : Type} : α ⊕ (BitVec 8 × Word) → Option (BitVec 8 × Word)
  | .inr e => some e
  | .inl _ => none

def wordsOf : List Word ⊕ (BitVec 8 × Word) → List Word
  | .inl ws => ws
  | .inr _ => []

/-- The address of a descriptor that the instruction names is not a multiple of 64 (R252). -/
def misDesc (use : Bool) (addr : Word) : Option (BitVec 8 × Word) :=
  if use && decide (addr.toNat % 64 ≠ 0) then some (0x0E, addr) else none

def aPassBody (x : Iss) (f : PassForm) (i : Nat) (s : State) : Body :=
  let ci := i / 16
  let th := getThread s i
  let v := getG th f.d
  let stream := bit v 63
  let a := getArr s ci
  let front := if f.sw then a.back else a.front
  let daddr := match x.long with
    | some p => getG th p.x1
    | none => 0
  let dpos := match x.long with
    | some p => getG th p.x2
    | none => 0
  let mis := match misDesc f.src (getG th f.a) with
    | some e => some e
    | none => misDesc stream daddr
  let rs := passDesc s i (f.src && mis.isNone) (getG th f.a)
  let rd := passDesc rs.1 i (stream && mis.isNone) daddr
  let s := rd.1
  let src := wordsOf rs.2
  let dst := wordsOf rd.2
  let fmt := if f.src then (if src.isEmpty then front.fmt.toNat else dFmt src)
    else (tileOf s i f.a.toNat).fmt.toNat
  let n := (getG th f.c).toNat
  let reasons := passReasons a f fmt th front dst
  let bad := lowerFault mis (lowerFault (faultOf rs.2) (faultOf rd.2))
  match reasons, bad with
  | r :: _, none => arrayState s i r
  | r :: _, some e => if e.1 < 0x0C then .trap s e.1 e.2 else arrayState s i r
  | [], some e => .trap s e.1 e.2
  | [], none =>
    let rnd := vrnd x
    let p : Pass :=
      { state := .running, src := f.src, ax := f.ax, op := f.op, sw := f.sw
        rnd := BitVec.ofNat 2 rnd, srcAddr := if f.src then getG th f.a else wd f.a.toNat
        spos := getG th f.b, count := n, dspec := v, daddr := daddr, dpos := dpos, srcDesc := src
        dstDesc := dst, reread := false, seed := th.seed, ring := th.ring, aspace := th.aspace
        fmt := BitVec.ofNat 4 fmt, enter := 0, done := 0, inside := [], buffer := [], flags := 0
        due := none, fault := none, refused := false, mismatched := false }
    let a := getArr s ci
    let a := if f.sw then { a with front := a.back, back := a.front } else a
    let s := setArr s ci { a with pass := some p }
    .done (modThread s i (fun t =>
      let t := { t with astatCount := 0, astatStop := 0 }
      if stream && decide (rnd = 2) && isShort (dFmt dst) then seedAdd t (n * 256) else t))

def execAPass (x : Iss) (f : PassForm) (s : State) : Host.Outcome State Fault Refusal :=
  .next (issue x (computeOnly (passForm x f) fun i s =>
    let go := withArray f.sw anyPass
      (if f.sw then backPlane (aPassBody x f) else aPassBody x f)
    if bit (getG (getThread s i) f.d) 63 && x.long.isNone then illegal s i
    else if f.src then go i s else withTile f.a.toNat go i s) s)

/-! ### The events of a pass (R228, R242, R269) -/

/-- The row length of a pass. -/
def passLen (a : Arr) (p : Pass) : Nat := axisLen (modeOf a.front.fmt.toNat) p.ax

/-- Coordinates of the elements of streamed row k. -/
def passRow (a : Arr) (p : Pass) (k : Nat) : List (List Nat) :=
  rowCoords p.srcDesc (p.spos.toNat + k) (passLen a p)

/-- PASS_ROW_ENTER: the next row enters, if it is available from its source, no output is refused and no
stop is under way (R228, R242). -/
def execPassRowEnter (c : CoreRef) (s : State) : Host.Outcome State Fault Refusal :=
  let ci := cix c
  let a := getArr s ci
  .next (
    match a.pass, a.owner with
    | some p, some o =>
      let k := p.enter
      let stop := match p.due with
        | some d => decide (d.1 ≤ k)
        | none => false
      if p.state ≠ .running ∨ p.count ≤ k ∨ stop = true ∨ p.refused = true ∨ a.saving = true ∨
          arrayRuns s ci = false then s else
      let enterRow (s : State) (bits scales : Nat) : State :=
        let r : PassRow :=
          { idx := k, bits := BitVec.ofNat 8192 bits, scales := BitVec.ofNat 256 scales }
        setArr s ci { a with pass := some { p with enter := k + 1, inside := p.inside ++ [r] } }
      if !p.src then
        let t := getTile (getCore s ci) (p.srcAddr.toNat % 8)
        let r := p.spos.toNat + k
        enterRow s (tileRow t r) (if p.fmt = 6 then tileScale t r else 0)
      else
        let css := passRow a p k
        let accs := readAccs p.srcDesc css
        match xlatAll (passAgent ci o p) .load 1 accs s with
        | (s, .inr _) => s
        | (s, .inl ps) =>
          let line (pa : Nat) : Option Line := p.buffer.lookup (pa / 128)
          if ps.all (fun pa => (line pa).isSome) then
            let vs := (ps.zip accs).map (fun e => lineGet ((line e.1).getD 0) (e.1 % 128) e.2.2)
            let v := rowVals p.srcDesc css vs
            enterRow s (packCodes (fmtWidth p.fmt.toNat) v.1) (packCodes 8 v.2)
          else s
    | _, _ => s)

/-- PASS_ROW_OUTPUT: the output of the oldest row inside leaves. -/
def execPassRowOutput (c : CoreRef) (upset : List (BitVec 8 × Int)) (s : State) :
    Host.Outcome State Fault Refusal :=
  let ci := cix c
  let a := getArr s ci
  .next (
    match a.pass, a.owner with
    | some p, some o =>
      if p.state = .running ∧ arrayRuns s ci = true then outputRow s ci o upset else s
    | _, _ => s)

/-- PASS_STOP: a source fault takes effect when the rows below it have completed, or an
uncorrectable error of a plane stops the pass at the row being applied (R242, R247). -/
def execPassStop (c : CoreRef) (ue : Option PlaneErr) (s : State) : Host.Outcome State Fault Refusal :=
  let ci := cix c
  let a := getArr s ci
  .next (
    match a.pass, a.owner with
    | some p, some o =>
      if p.state ≠ .running then s else
      match ue, p.due with
      | some e, _ =>
        let info := wd (e.plane.toNat * 65536 + e.row.toNat * 256 + e.col.toNat)
        ueIn (stopPass s ci o p p.done 0x41 info) (unitOf (ci / 34) (ci % 34)) info inCore
      | none, some (k, code, info) => if k ≤ p.done then stopPass s ci o p k code info else s
      | none, none => s
    | _, _ => s)

/-- The first row from `k` on that has a line outside the buffer: its index, and the
physical address of the line, or the fault it meets. -/
def wantedLine (ci o : Nat) (a : Arr) (p : Pass) : Nat → Nat → State →
    State × Option (Nat × (Nat ⊕ (BitVec 8 × Word)))
  | 0, _, s => (s, none)
  | n + 1, k, s =>
    if p.count ≤ k then (s, none) else
    match xlatAll (passAgent ci o p) .load 1 (readAccs p.srcDesc (passRow a p k)) s with
    | (s, .inr (.trap c info)) => (s, some (k, .inr (c, info)))
    | (s, .inr _) => (s, none)
    | (s, .inl ps) =>
      match ps.find? (fun pa => (p.buffer.lookup (pa / 128)).isNone) with
      | some pa => (s, some (k, .inl pa))
      | none => wantedLine ci o a p n (k + 1) s

/-- STREAM_PORT_FETCH: the port captures the next line in row order (R269); a full
buffer gives up its oldest line. -/
def execStreamPortFetch (c : CoreRef) (s : State) : Host.Outcome State Fault Refusal :=
  let ci := cix c
  let a := getArr s ci
  .next (
    match a.pass, a.owner with
    | some p, some o =>
      if p.state ≠ .running ∨ p.src = false ∨ p.due.isSome = true ∨ arrayRuns s ci = false then s else
      let put (s : State) (p : Pass) : State := setArr s ci { getArr s ci with pass := some p }
      match wantedLine ci o a p (p.count - p.enter) p.enter s with
      | (s, none) => s
      | (s, some (k, .inr (code, info))) => put s { p with due := some (k, code, info) }
      | (s, some (k, .inl pa)) =>
        let ag := passAgent ci o p
        let r := homeRead s ag (pa / 128)
        let s := noteSeen r.1 (coreThr ci o) (pa / 128)
        match r.2.2 with
        | some code =>
          let e := memError s ag (pa / 128) (wd (pa / 128 * 128)) code
          put e.1 { p with due := some (k, e.2.1, e.2.2) }
        | none =>
          let keep := if 256 ≤ p.buffer.length then p.buffer.drop 1 else p.buffer
          put s { p with buffer := keep ++ [(pa / 128, r.2.1)] }
    | _, _ => s)

/-! ### a.drain (R239 to R241) -/

/-- Form of a.drain: RND in the long form. -/
def drainForm (x : Iss) (f : DrainForm) : Bool :=
  decide (f.rsv = 0) && (f.dst || decide (f.d.toNat < 8 ∧ f.b = 0)) &&
  (match x.long with
   | none => true
   | some p => decide (p.lit = .none ∧ p.x1 = 0 ∧ p.x2 = 0 ∧ p.x3 = 0 ∧ p.xf.toNat < 3))

/-- Passes that a drain waits for (R229). -/
def drainWaits (dst : Bool) (plane : Nat) (p : Pass) : Bool :=
  if bit p.dspec 63 then dst else decide (field p.dspec 0 1 = plane)

/-- Row r of a plane, converted: codes and flags (R136, R137, R240). -/
def drainRow (s : State) (i : Nat) (v : Word) (dst rnd len r : Nat) : List (Nat × FFlags) :=
  let acc := getAcc (getArr s (i / 16)) (field v 0 1)
  let t := getThread s i
  (List.range len).map (fun j =>
    let c := field v 8 8 + j
    let bits := if rnd = 2 then srBits (seedKey t) (seedCtr t) (r * 256 + c) else 0
    convOut (bit v 1) dst t.frm.toNat rnd bits (accElem acc r c))

/-- Clear the drained elements of a row. -/
def clearRow (s : State) (i : Nat) (v : Word) (len r : Nat) : State :=
  let a := getArr s (i / 16)
  let n := field v 0 1
  let acc := (List.range len).foldl (fun p j => setAccElem p r (field v 8 8 + j) 0) (getAcc a n)
  setArr s (i / 16) (setAcc a n { acc with use := (getAcc a n).use })

/-- A drain has completed: TSTART := 0, SEED moves on where it rounded stochastically, and its flags
are raised, with those of the rows it drained before a held write (R123, R133, R241). -/
def drainDone (s : State) (i rnd dst : Nat) (fl : FFlags) : Body :=
  let s := modThread s i (fun t =>
    let t := { t with tstart := 0 }
    if rnd = 2 ∧ isShort dst = true then seedAdd t 65536 else t)
  .done (raiseFlags s i (fl ||| (getThread s i).raised))

def flagsOf (rs : List (Nat × FFlags)) : FFlags := rs.foldl (fun a e => a ||| e.2) 0

/-- The row of the drained plane that holds an uncorrectable error, with its FAULTINFO (R242), among the
rows that the drain passes. -/
def drainBad (ue : Option ReadErr) (v : Word) (start n : Nat) : Option (Nat × Word) :=
  match ue with
  | some (.index w) =>
    let r := field w 8 8
    if w.toNat / 65536 = 2 + field v 0 1 ∧ start ≤ r ∧ r < n then some (r, w) else none
  | _ => none

/-- A drain that meets an uncorrectable error at a row: the rows below it are complete, TSTART names it, and
MEM_SRAM follows (R241). -/
def drainStop (bad : Option (Nat × Word)) (i : Nat) (s : State) (done : Body) : Body :=
  match bad with
  | none => done
  | some (k, w) => sramTrap (stopAt s i (fun h => { h with tstart := BitVec.ofNat 8 k })) i w

/-- An instruction that says itself which of its rows an uncorrectable error of a structure lies in. -/
def ownIndex (x : Iss) : Iss :=
  match x.ue with
  | some (.index _) => { x with ue := none }
  | _ => x

def drainTile (x : Iss) (f : DrainForm) (v : Word) (n : Nat) (i : Nat) (s : State) : Body :=
  let t := f.d.toNat
  let fmt := (tileOf s i t).fmt.toNat
  let len := tileCols fmt
  let start := (getThread s i).tstart.toNat
  let rnd := vrnd x
  let bad := drainBad x.ue v start n
  let last := match bad with
    | some (k, _) => k
    | none => n
  let r := (List.range (last - start)).foldl (fun (a : State × FFlags) k =>
    let row := drainRow a.1 i v fmt rnd len (start + k)
    let s := putRow a.1 i t (start + k) (packCodes (fmtWidth fmt) (row.map Prod.fst)) none
    (if f.clr then clearRow s i v len (start + k) else s, a.2 ||| flagsOf row)) (s, 0)
  drainStop bad i (if bad.isSome then orFlags r.1 i r.2 else r.1) (drainDone r.1 i rnd fmt r.2)

def drainDesc (x : Iss) (f : DrainForm) (v : Word) (n : Nat) (ws : List Word) (i : Nat) (s : State) :
    Body :=
  let len := dExt ws 0
  let fmt := dFmt ws
  let start := (getThread s i).tstart.toNat
  let rnd := vrnd x
  let p := (getG (getThread s i) f.b).toNat
  let bad := drainBad x.ue v start n
  let last := match bad with
    | some (k, _) => k
    | none => n
  let rows := (List.range (last - start)).map (fun k => start + k)
  let codes (r : Nat) := drainRow s i v fmt rnd len r
  let css (r : Nat) := rowCoords ws (p + r) len
  let after (r : Nat) (s : State) : State :=
    let s := addOob s i (dropped ws (css r))
    let s := orFlags s i (flagsOf (codes r))
    if f.clr then clearRow s i v len r else s
  match scatterAll { threadAgent s i with cls := 2, age := 2 } 1 after
      (rows.map (fun r => (r, rowWrites ws (css r) ((codes r).map Prod.fst) []))) s with
  | (s, none) =>
    drainStop bad i s (drainDone s i rnd fmt (rows.foldl (fun a r => a ||| flagsOf (codes r)) 0))
  | (s, some (k, q)) =>
    let done := (rows.filter (fun r => decide (r < k))).foldl (fun a r => a ||| flagsOf (codes r)) 0
    let s := stopAt s i (fun h => { h with tstart := BitVec.ofNat 8 k, raised := h.raised ||| done })
    match q with
    | .fault c info => .trap s c info
    | .held need => holdAt s i need
    | .ok => .again s

/-- The checks of the source value and the count: RANGE (R239, log entry 29). -/
def drainRange (v : Word) (n len : Nat) : Bool :=
  decide (1 ≤ n ∧ n ≤ 256 ∧ field v 8 8 + len ≤ 256 ∧ field v 16 48 = 0 ∧ field v 2 6 = 0)

def aDrainBody (x : Iss) (f : DrainForm) (i : Nat) (s : State) : Body :=
  let th := getThread s i
  let v := getG th f.a
  let n := (getG th f.c).toNat
  if f.dst then
    match passDesc s i true (getG th f.d) with
    | (s, .inr e) =>
      if e.1 < 0x0C ∨ drainRange v n 1 = true then .trap s e.1 e.2 else arrayState s i 4
    | (s, .inl ws) =>
      if is4 (dFmt ws) ∨ dFmt ws = 7 then arrayState s i 3
      else if !drainRange v n (dExt ws 0) then arrayState s i 4
      else drainDesc x f v n ws i s
  else
    let fmt := (tileOf s i f.d.toNat).fmt.toNat
    if is4 fmt then arrayState s i 3
    else if !drainRange v n (tileCols fmt) then arrayState s i 4
    else drainTile x f v n i s

def execADrain (x : Iss) (f : DrainForm) (s : State) : Host.Outcome State Fault Refusal :=
  .next (issue (ownIndex x) (computeOnly (drainForm x f) fun i s =>
    let plane := field (getG (getThread s i) f.a) 0 1
    let go := withArray false (drainWaits f.dst plane) (aDrainBody x f)
    if f.dst then go i s else withTile f.d.toNat go i s) s)

end Sys2Proof.Machine
end

