-- ==== Sys2Proof/Machine/Crypto.lean ====
section
/-! DEFINITION. The cryptographic functions that the manual names (R507, R508, R520, R524, R525): SHA-384 of
FIPS 180-4 and the verification of ECDSA signatures over P-384 of FIPS 186-5. -/

namespace Sys2Proof.Machine

open Sys2Proof

/-- The number that bytes spell, most significant first. -/
def ofBytesBig (l : List Byte) : Nat := l.foldl (fun n b => 256 * n + b.toNat) 0

/-- The bytes of a hash, key or signature, most significant first. -/
def bigBytes (n v : Nat) : List Byte := (bytesOf n v).reverse

/-! ### SHA-384 (FIPS 180-4) -/

/-- The constants of rounds 0 to 19. -/
def shaK0 : List Word := [
  0x428A2F98D728AE22, 0x7137449123EF65CD, 0xB5C0FBCFEC4D3B2F, 0xE9B5DBA58189DBBC,
  0x3956C25BF348B538, 0x59F111F1B605D019, 0x923F82A4AF194F9B, 0xAB1C5ED5DA6D8118,
  0xD807AA98A3030242, 0x12835B0145706FBE, 0x243185BE4EE4B28C, 0x550C7DC3D5FFB4E2,
  0x72BE5D74F27B896F, 0x80DEB1FE3B1696B1, 0x9BDC06A725C71235, 0xC19BF174CF692694,
  0xE49B69C19EF14AD2, 0xEFBE4786384F25E3, 0x0FC19DC68B8CD5B5, 0x240CA1CC77AC9C65]

/-- The constants of rounds 20 to 39. -/
def shaK1 : List Word := [
  0x2DE92C6F592B0275, 0x4A7484AA6EA6E483, 0x5CB0A9DCBD41FBD4, 0x76F988DA831153B5,
  0x983E5152EE66DFAB, 0xA831C66D2DB43210, 0xB00327C898FB213F, 0xBF597FC7BEEF0EE4,
  0xC6E00BF33DA88FC2, 0xD5A79147930AA725, 0x06CA6351E003826F, 0x142929670A0E6E70,
  0x27B70A8546D22FFC, 0x2E1B21385C26C926, 0x4D2C6DFC5AC42AED, 0x53380D139D95B3DF,
  0x650A73548BAF63DE, 0x766A0ABB3C77B2A8, 0x81C2C92E47EDAEE6, 0x92722C851482353B]

/-- The constants of rounds 40 to 59. -/
def shaK2 : List Word := [
  0xA2BFE8A14CF10364, 0xA81A664BBC423001, 0xC24B8B70D0F89791, 0xC76C51A30654BE30,
  0xD192E819D6EF5218, 0xD69906245565A910, 0xF40E35855771202A, 0x106AA07032BBD1B8,
  0x19A4C116B8D2D0C8, 0x1E376C085141AB53, 0x2748774CDF8EEB99, 0x34B0BCB5E19B48A8,
  0x391C0CB3C5C95A63, 0x4ED8AA4AE3418ACB, 0x5B9CCA4F7763E373, 0x682E6FF3D6B2B8A3,
  0x748F82EE5DEFB2FC, 0x78A5636F43172F60, 0x84C87814A1F0AB72, 0x8CC702081A6439EC]

/-- The constants of rounds 60 to 79. -/
def shaK3 : List Word := [
  0x90BEFFFA23631E28, 0xA4506CEBDE82BDE9, 0xBEF9A3F7B2C67915, 0xC67178F2E372532B,
  0xCA273ECEEA26619C, 0xD186B8C721C0C207, 0xEADA7DD6CDE0EB1E, 0xF57D4F7FEE6ED178,
  0x06F067AA72176FBA, 0x0A637DC5A2C898A6, 0x113F9804BEF90DAE, 0x1B710B35131C471B,
  0x28DB77F523047D84, 0x32CAAB7B40C72493, 0x3C9EBE0A15C9BEBC, 0x431D67C49C100D4C,
  0x4CC5D4BECB3E42B6, 0x597F299CFC657E2A, 0x5FCB6FAB3AD6FAEC, 0x6C44198C4A475817]

/-- The initial hash value of SHA-384. -/
def shaInit : List Word := [
  0xCBBB9D5DC1059ED8, 0x629A292A367CD507, 0x9159015A3070DD17, 0x152FECD8F70E5939,
  0x67332667FFC00B31, 0x8EB44A8768581511, 0xDB0C2E0D64F98FA7, 0x47B5481DBEFA4FA4]

/-- Rotation of a word to the right. -/
def rotR (n : Nat) (x : Word) : Word := (x >>> n) ||| (x <<< (64 - n))

/-- The functions of the standard on words. -/
def shaS0 (x : Word) : Word := rotR 28 x ^^^ rotR 34 x ^^^ rotR 39 x
def shaS1 (x : Word) : Word := rotR 14 x ^^^ rotR 18 x ^^^ rotR 41 x
def shaT0 (x : Word) : Word := rotR 1 x ^^^ rotR 8 x ^^^ (x >>> 7)
def shaT1 (x : Word) : Word := rotR 19 x ^^^ rotR 61 x ^^^ (x >>> 6)
def shaCh (x y z : Word) : Word := (x &&& y) ^^^ (~~~x &&& z)
def shaMaj (x y z : Word) : Word := (x &&& y) ^^^ (x &&& z) ^^^ (y &&& z)

/-- The eight working variables. -/
structure ShaVars where
  a : Word
  b : Word
  c : Word
  d : Word
  e : Word
  f : Word
  g : Word
  h : Word
  deriving DecidableEq, Repr

/-- One round with its constant and its word of the message schedule. -/
def shaRound (v : ShaVars) (k w : Word) : ShaVars :=
  let t := v.h + shaS1 v.e + shaCh v.e v.f v.g + k + w
  { a := t + shaS0 v.a + shaMaj v.a v.b v.c, b := v.a, c := v.b, d := v.c, e := v.d + t, f := v.e, g := v.f, h := v.g }

/-- The schedule after a step: the last sixteen words, the oldest first. -/
def shaNext (ws : List Word) : List Word :=
  let at' (k : Nat) : Word := (ws.drop k).headD 0
  ws.drop 1 ++ [at' 0 + shaT0 (at' 1) + at' 9 + shaT1 (at' 14)]

/-- Rounds, with the schedule from the present one on. -/
def shaRounds : List Word → ShaVars → List Word → ShaVars × List Word
  | [], v, ws => (v, ws)
  | k :: t, v, ws => shaRounds t (shaRound v k (ws.headD 0)) (shaNext ws)

/-- Add the working variables to a hash value. -/
def shaAdd (x y : ShaVars) : ShaVars :=
  { a := x.a + y.a, b := x.b + y.b, c := x.c + y.c, d := x.d + y.d
    e := x.e + y.e, f := x.f + y.f, g := x.g + y.g, h := x.h + y.h }

/-- Process a block of 128 bytes. -/
def shaBlock (v : ShaVars) (block : List Byte) : ShaVars :=
  let ws := (List.range 16).map (fun k => wd (ofBytesBig ((block.drop (8 * k)).take 8)))
  let r := shaRounds shaK0 v ws
  let r := shaRounds shaK1 r.1 r.2
  let r := shaRounds shaK2 r.1 r.2
  shaAdd v (shaRounds shaK3 r.1 r.2).1

/-- A message with its padding: a bit 1, zeros, and its length in bits. -/
def shaPad (m : List Byte) : List Byte :=
  m ++ [0x80] ++ List.replicate ((239 - m.length % 128) % 128) 0 ++ bigBytes 16 (8 * m.length)

/-- Process n blocks. -/
def shaBlocks : Nat → List Byte → ShaVars → ShaVars
  | 0, _, v => v
  | n + 1, m, v => shaBlocks n (m.drop 128) (shaBlock v (m.take 128))

/-- The initial hash value as variables. -/
def shaStart : ShaVars :=
  let at' (k : Nat) : Word := (shaInit.drop k).headD 0
  { a := at' 0, b := at' 1, c := at' 2, d := at' 3, e := at' 4, f := at' 5, g := at' 6, h := at' 7 }

/-- SHA-384 of a byte string. -/
def sha384 (m : List Byte) : BitVec 384 :=
  let p := shaPad m
  let v := shaBlocks (p.length / 128) p shaStart
  BitVec.ofNat 384 (([v.a, v.b, v.c, v.d, v.e, v.f].foldl (fun n w => n * 2 ^ 64 + w.toNat) 0))

def hashBytes (h : BitVec 384) : List Byte := bigBytes 48 h.toNat

/-! ### ECDSA over P-384 (FIPS 186-5) -/

/-- The prime of the field, the order of the base point, and the coefficient b of y² = x³ - 3x + b. -/
def p384P : Nat := 2 ^ 384 - 2 ^ 128 - 2 ^ 96 + 2 ^ 32 - 1
def p384N : Nat :=
  0xFFFFFFFFFFFFFFFFFFFFFFFFFFFFFFFFFFFFFFFFFFFFFFFFC7634D81F4372DDF581A0DB248B0A77AECEC196ACCC52973
def p384B : Nat :=
  0xB3312FA7E23EE7E4988E056BE3F82D19181D9C6EFE8141120314088F5013875AC656398D8A2ED19D2A85C8EDD3EC2AEF

/-- A point of the curve: its coordinates, or the point at infinity. -/
abbrev EcPoint := Option (Nat × Nat)

/-- The base point. -/
def p384G : EcPoint := some
  (0xAA87CA22BE8B05378EB1C71EF320AD746E1D3B628BA79B9859F741E082542A385502F25DBF55296C3A545E3872760AB7,
   0x3617DE4A96262C6F5D9E98BF9292DC29F8F41DBD289A147CE9DA3113B5F0B8C00A60B1CE1D7E819D7A431D7C90EA0E5F)

/-- x to the power of the n lowest bits of e, modulo m. -/
def powMod (m x e : Nat) : Nat → Nat
  | 0 => 1 % m
  | n + 1 =>
    let r := powMod m (x * x % m) (e / 2) n
    if e % 2 = 1 then r * x % m else r

/-- The inverse of x modulo a prime. -/
def invMod (m x : Nat) : Nat := powMod m x (m - 2) 384

/-- x - y in the field. -/
def subMod (x y : Nat) : Nat := (x + (p384P - y % p384P)) % p384P

/-- The third point of the line through (x, y) with a slope, whose other crossing has the abscissa u. -/
def ecThird (x y u slope : Nat) : EcPoint :=
  let w := subMod (slope * slope) (x + u)
  some (w, subMod (slope * subMod x w) y)

/-- Twice a point. -/
def ecDouble : EcPoint → EcPoint
  | none => none
  | some (x, y) =>
    if y = 0 then none else
    ecThird x y x (subMod (3 * x * x) 3 * invMod p384P (2 * y) % p384P)

/-- The sum of two points. -/
def ecAdd (a b : EcPoint) : EcPoint :=
  match a, b with
  | none, q => q
  | p, none => p
  | some (x, y), some (u, v) =>
    if x = u then (if y = v then ecDouble a else none)
    else ecThird x y u (subMod v y * invMod p384P (subMod u x) % p384P)

/-- A multiple of a point, by the n lowest bits of k. -/
def ecMul (k : Nat) (q : EcPoint) : Nat → EcPoint
  | 0 => none
  | n + 1 =>
    let r := ecMul (k / 2) (ecDouble q) n
    if k % 2 = 1 then ecAdd q r else r

/-- The point is on the curve. -/
def onCurve (x y : Nat) : Bool :=
  decide (x < p384P ∧ y < p384P ∧ y * y % p384P = subMod (x * x * x + p384B) (3 * x))

/-- ECDSA P-384 verification of a hash: the key is x then y, the signature r then s. -/
def p384Verify (key : BitVec 768) (hash : BitVec 384) (sig : BitVec 768) : Bool :=
  let x := key.toNat / 2 ^ 384
  let y := key.toNat % 2 ^ 384
  let r := sig.toNat / 2 ^ 384
  let v := sig.toNat % 2 ^ 384
  let w := invMod p384N v
  onCurve x y && decide (1 ≤ r ∧ r < p384N ∧ 1 ≤ v ∧ v < p384N) &&
    (match ecAdd (ecMul (hash.toNat * w % p384N) p384G 384) (ecMul (r * w % p384N) (some (x, y)) 384) with
     | none => false
     | some q => decide (q.1 % p384N = r))

end Sys2Proof.Machine
end

