-- ==== Sys2Proof/Machine/Cache.lean ====
section
/-! DEFINITION. What happens at the home banks, in the combining windows and at the L1 caches
(R278 to R280, R284 to R292, R305 to R312). -/

namespace Sys2Proof.Machine

open Sys2Proof

/-- Bank number of a reference. -/
def bankIx (b : BankRef) : Nat := 32 * b.quad.toNat + b.bank.toNat

/-! ### Combining windows (R278 to R280) -/

/-- Two updates have the same key. -/
def sameKey (a b : AccUpd) : Bool := decide (a.line = b.line ∧ a.acc = b.acc ∧ a.fmt = b.fmt)

/-- Merge an update into the entry of its key. -/
def joinEntry (u : AccUpd) : List AccUpd → List AccUpd
  | [] => []
  | e :: t => if sameKey e u then accJoin e u :: t else e :: joinEntry u t

/-- An update enters the window of 64 entries. An entry of its line with another key is sent before
(R279). -/
def windowTake (block : Bool) (w : Window) (u : AccUpd) : Window :=
  let other (e : AccUpd) : Bool := decide (e.line = u.line) && !sameKey e u
  let w := { w with sent := w.sent ++ w.entries.filter other
                    entries := w.entries.filter (fun e => !other e) }
  if block then { w with sent := w.sent ++ [u] }
  else if w.entries.any (fun e => sameKey e u) then { w with entries := joinEntry u w.entries }
  else if w.entries.length < 64 then { w with entries := w.entries ++ [{ u with age := 0 }] }
  else { w with sent := w.sent ++ w.entries.take 1
                entries := w.entries.drop 1 ++ [{ u with age := 0 }] }

/-- COMBINING_UPDATE (R278, R300). -/
def execCombiningUpdate (b : BankRef) (s : State) : Host.Outcome State Fault Refusal :=
  let w := getWindow s (bankIx b)
  .next (match w.arriving with
    | [] => s
    | u :: t => setWindow s (bankIx b) (windowTake (bankBlocks s (bankIx b)) { w with arriving := t } u))

/-- COMBINING_SEND (R279): an entry of 256 L2 cycles of age is sent; the other events that send an
entry are part of the accesses and fences that are those events. -/
def execCombiningSend (b : BankRef) (s : State) : Host.Outcome State Fault Refusal :=
  let w := getWindow s (bankIx b)
  .next (match takeFirst (fun e : AccUpd => decide (256 ≤ e.age)) w.entries with
    | some (e, rest) => setWindow s (bankIx b) { w with entries := rest, sent := w.sent ++ [e] }
    | none => s)

/-- ACCUMULATE_APPLY (R280). -/
def execAccumulateApply (b : BankRef) (s : State) : Host.Outcome State Fault Refusal :=
  let w := getWindow s (bankIx b)
  .next (match w.sent with
    | [] => s
    | u :: t => applyUpdate (setWindow s (bankIx b) { w with sent := t }) u)

/-- Send the entries that hold updates of an agent to their banks (R279, R372). -/
def flushWindow (who : Nat) (w : Window) : Window :=
  let mine (u : AccUpd) : Bool := decide (who ∈ u.agents)
  { arriving := w.arriving.filter (fun u => !mine u)
    entries := w.entries.filter (fun u => !mine u)
    sent := w.sent ++ w.entries.filter mine ++ w.arriving.filter mine }

def flushAgent (s : State) (who : Nat) : State :=
  { s with windows := s.windows.map (fun e => (e.1, flushWindow who e.2)) }

/-- No accumulating write of an agent is still in a window. -/
def windowsClear (s : State) (who : Nat) : Bool :=
  s.windows.all (fun e => (e.2.arriving ++ e.2.entries ++ e.2.sent).all
    (fun u => decide (who ∉ u.agents)))

/-! ### L2_ACCESS and L2_FILL (R284, R288) -/

/-- L2_ACCESS (R284): the request granted first is served. Where none is, an error named is met by the next
access that passes the bank as it arrives (log entry 135). -/
def execL2Access (b : BankRef) (err : L2Err) (s : State) : Host.Outcome State Fault Refusal :=
  let k := getBank s (bankIx b)
  .next (match k.granted with
    | [] => { s with bankErr := if err = .none then s.bankErr else tabPut s.bankErr (bankIx b) err }
    | r :: t => bankServe (setBank s (bankIx b) { k with granted := t }) r err)

/-- The first granted request of a bank on any channel. -/
def firstFill (bk : Nat) : Tab (Arb Req) → Option (Nat × Req × Arb Req)
  | [] => none
  | (ch, a) :: t =>
    match takeFirst (fun r : Req => decide (lineBank r.line = bk)) a.granted with
    | some (r, rest) => some (ch, r, { a with granted := rest })
    | none => firstFill bk t

/-- L2_FILL (R288): the line has been read from memory, where words `bad` were found
uncorrectable (R463). -/
def execL2Fill (b : BankRef) (bad : BitVec 16) (s : State) : Host.Outcome State Fault Refusal :=
  .next (match firstFill (bankIx b) s.channels with
    | none => s
    | some (ch, r, a) =>
      let s := setChannel s ch a
      let s := if (tabFind s.l2 r.line).isSome then s else
        { s with memBad := tabSet (fun _ => 0) s.memBad r.line (badWords s r.line ||| bad) }
      serveReq s r)

/-! ### Invalidations (R285, R287, R289) -/

/-- An invalidation takes its line out of a core's L1 and out of what its threads have gathered. -/
def takeInval (s : State) (ci l : Nat) : State :=
  let k := getCore s ci
  (List.range 16).foldl (fun s n =>
    let th := getThread s (16 * ci + n)
    if th.got.isEmpty then s else setThread s (16 * ci + n) { th with got := tabDel th.got l })
    (setCore s ci { k with l1d := tabDel k.l1d l })

/-- L1_INVALIDATE (R289): the invalidation at the head of a core's path takes the line out of its L1. -/
def execL1Invalidate (c : CoreRef) (s : State) : Host.Outcome State Fault Refusal :=
  let ci := cix c
  let k := getCore s ci
  .next (match k.msgs with
    | .inval l _ :: t => takeInval (setCore s ci { k with msgs := t }) ci l
    | _ => s)

/-- The invalidation of a write has not reached a core. -/
def invalPending (s : State) (ci l wid : Nat) : Bool :=
  (getCore s ci).msgs.any (fun m => decide (m = .inval l wid))

/-- INVALIDATE_ACK (R287): a core's acknowledgement reaches the bank; the last one makes the write
performed. -/
def execInvalidateAck (c : CoreRef) (line : BitVec 39) (s : State) :
    Host.Outcome State Fault Refusal :=
  let ci := cix c
  let l := line.toNat
  .next (match takeFirst (fun w : Write => decide (w.line = l ∧ ci ∈ w.acks) &&
      !invalPending s ci l w.id) s.writes with
    | none => s
    | some (w, rest) =>
      let acks := w.acks.filter (fun x => decide (x ≠ ci))
      if acks.isEmpty then { s with writes := rest }
      else { s with writes := s.writes.map (fun x => if x.id = w.id then { x with acks := acks } else x) })

/-! ### L1_FILL (R289, R296, R300) -/

/-- A core's stores to a line that have not been performed, oldest first. -/
def queuedStores (s : State) (c l : Nat) : List Req :=
  (arbItems (getChannel s (lineChannel l))).filter (isStoreOf c l) ++
    (arbItems (getBank s (lineBank l))).filter (isStoreOf c l)

/-- Put a store into the data of its line. -/
def mergeStore (d : Line) (r : Req) : Line :=
  match r.kind with
  | .store off size v => linePut d off size v.toNat
  | _ => d

/-- A waiting scalar load or atomic fails. -/
def failLoad (s : State) (i l : Nat) (va : Word) (code : BitVec 8) : State :=
  let e := memError s (threadAgent s i) l va code
  takeSync (modThread e.1 i (fun t => { t with loads := [] })) i e.2.1 e.2.2

/-- A line that cannot be read is reported to one thread. -/
def errorThread (code : BitVec 8) (l : Nat) (s : State) (i : Nat) : State :=
  let t := getThread s i
  match t.loads.find? (fun p => decide (p.line = l)) with
  | some p => failLoad s i l p.va code
  | none =>
    if l ∈ t.asked then
      setThread s i { t with
        asked := t.asked.filter (fun x => decide (x ≠ l)), badGot := tabPut t.badGot l code
        hold := lineArrived t.hold l }
    else s

/-- An answer to a fetch arrives: its miss register is free, and the threads that wait for the line ask
again, told of a line that cannot be read. -/
def fetchArrived (s : State) (ci l : Nat) (bad : Option (BitVec 8)) : State :=
  let k := getCore s ci
  let s := setCore s ci { k with imisses := k.imisses.filter (fun x => decide (x ≠ l)) }
  (coreThreads ci).foldl (fun s i =>
    let t := getThread s i
    if t.hold ≠ .ifetch l then s else
    setThread s i { t with
      hold := .none
      badGot := match bad with
        | some c => tabPut t.badGot l c
        | none => t.badGot }) s

/-- A line that the L1 instruction cache does not keep is used by the instruction that waits for it (R295). -/
def codeArrived (l : Nat) (d : Line) (s : State) (i : Nat) : State :=
  let t := getThread s i
  if t.hold = .ifetch l then setThread s i { t with icode := tabPut t.icode l d } else s

/-- A message other than an invalidation reaches its core. -/
def deliver (s : State) (ci : Nat) (m : CoreMsg) : State :=
  match m with
  | .fill l d age pf keep =>
    let d := (queuedStores s ci l).foldl mergeStore d
    let k := getCore s ci
    let s := if keep then setCore s ci { k with l1d := l1Insert k.l1d 16 128 l age pf d } else s
    endMiss ((coreThreads ci).foldl (fillThread keep d l) s) ci l false
  | .value i l d w saw =>
    let t := getThread s i
    if t.hold ≠ .load then endMiss s ci l true else
    let s := addSeen (modThread (writeG s i d w) i (fun t => { t with hold := .none })) i saw
    endMiss (retire s i t.ring t.ss (t.pc + 4)) ci l true
  | .error i code l va =>
    if i = noThread then
      endMiss ((coreThreads ci).foldl (errorThread code l) s) ci l false
    else endMiss (failLoad s i l va code) ci l true
  | .ifill l d keep =>
    let k := getCore s ci
    if keep then fetchArrived (setCore s ci { k with l1i := l1Insert k.l1i 8 64 l 1 false d }) ci l none
    else fetchArrived ((coreThreads ci).foldl (codeArrived l d) s) ci l none
  | .ierror l c => fetchArrived s ci l (some c)
  | .inval _ _ => s

/-- L1_FILL (R289): the message at the head of a core's path, where it is no invalidation. -/
def execL1Fill (c : CoreRef) (s : State) : Host.Outcome State Fault Refusal :=
  let ci := cix c
  let k := getCore s ci
  .next (match k.msgs with
    | [] => s
    | .inval _ _ :: _ => s
    | m :: t => deliver (setCore s ci { k with msgs := t }) ci m)

/-! ### Entry to blocking mode (R301) -/

/-- The messages on a core's path reach it, in order. -/
def deliverPath (s : State) (ci : Nat) : State :=
  let k := getCore s ci
  k.msgs.foldl (fun s m => match m with
    | .inval l _ => takeInval s ci l
    | m => deliver s ci m) (setCore s ci { k with msgs := [] })

/-- Serve the requests that a test picks, those at the memory channels first. -/
def serveThese (s : State) (p : Req → Bool) : State :=
  let s := s.channels.foldl (fun s e => drainChannel s e.1 p) s
  s.banks.foldl (fun s e => drainBank s e.1 p) s

/-- The L1 caches of a core complete every pending miss, with those that wait for a register. -/
def completeL1 (ci : Nat) : Nat → State → State
  | 0, s => s
  | fuel + 1, s =>
    let k := getCore s ci
    if k.misses.isEmpty && k.imisses.isEmpty && k.missWait.isEmpty && k.msgs.isEmpty then s
    else completeL1 ci fuel (deliverPath (serveThese s (fun r => decide (r.core = ci))) ci)

/-- A core's caches enter blocking mode. -/
def blockL1 (s : State) (ci : Nat) : State := completeL1 ci ((getCore s ci).missWait.length + 2) s

/-- Every bank of a quadrant enters blocking mode. -/
def blockBanks (s : State) (q : Nat) : State :=
  (List.range 32).foldl (fun s b => blockBank s (32 * q + b)) s

/-! ### Way power (R310 to R312) -/

/-- Whether a way is to be powered: asked for, and not retired. -/
def wayWanted (s : State) (q w : Nat) : Bool :=
  bit (rget s (l2Off q 0x100)) w && !wayRetired s q w

def wayUsable (s : State) (q w : Nat) : Bool := bit (rget s (l2Off q 0x100)) (24 + w)

/-- Start the next transition of a quadrant, in ascending way order, if none is in progress. -/
def nextTransition (s : State) (q : Nat) : State :=
  if bit (rget s (l2Off q 0x100)) 56 then s else
  match (List.range 24).find? (fun w => wayWanted s q w != wayUsable s q w) with
  | some w =>
    let s := { s with wayAge := tabSet (fun _ => 0) s.wayAge q 0 }
    rsetField (rsetField s (l2Off q 0x100) 48 5 w) (l2Off q 0x100) 56 1 1
  | none => s

/-- The bits ON[23:1] of a quadrant take new values. -/
def setWaysOn (s : State) (q on : Nat) : State :=
  nextTransition (rsetField s (l2Off q 0x100) 1 23 (on / 2)) q

def execWayPowerDown (src : Sender) (q : BitVec 2) (way : BitVec 5) (s : State) :
    Host.Outcome State Fault Refusal :=
  let w := way.toNat
  .next (if mayWrite s src 0 && decide (0 < w ∧ w < 24)
    then nextTransition (rsetField s (l2Off q.toNat 0x100) w 1 0) q.toNat else s)

def execWayPowerUp (src : Sender) (q : BitVec 2) (way : BitVec 5) (s : State) :
    Host.Outcome State Fault Refusal :=
  let w := way.toNat
  .next (if mayWrite s src 0 && decide (0 < w ∧ w < 24)
    then nextTransition (rsetField s (l2Off q.toNat 0x100) w 1 1) q.toNat else s)

/-- Write back and invalidate every line of a way. -/
def cleanWay (s : State) (q w : Nat) : State :=
  ((s.l2.filter (fun e => decide (e.2.way = w ∧ homeQuad (128 * e.1) = q))).map Prod.fst).foldl
    evictLine s

/-- The transition in progress, if it powers a way down (false) or up (true). -/
def transition (s : State) (q : Nat) (up : Bool) : Option Nat :=
  let p := rget s (l2Off q 0x100)
  let w := field p 48 5
  if bit p 56 && (wayUsable s q w != up) then some w else none

/-- The transition in progress ends with STATE = v. -/
def endTransition (s : State) (q w v : Nat) : State :=
  let s := rsetField s (l2Off q 0x100) (24 + w) 1 v
  nextTransition (rsetField (rsetField s (l2Off q 0x100) 56 1 0) (l2Off q 0x100) 48 5 0) q

/-- WAY_CLEAN_DONE (R310, R311). -/
def execWayCleanDone (q : BitVec 2) (s : State) : Host.Outcome State Fault Refusal :=
  .next (match transition s q.toNat false with
    | some w => endTransition (cleanWay s q.toNat w) q.toNat w 0
    | none => s)

/-- WAY_POWER_UP_DONE (R312): 1,024 L2 cycles after the transition began. -/
def execWayPowerUpDone (q : BitVec 2) (s : State) : Host.Outcome State Fault Refusal :=
  .next (match transition s q.toNat true with
    | some w =>
      if tabGet (fun _ => 0) s.wayAge q.toNat < 1024 then s else endTransition s q.toNat w 1
    | none => s)

/-! ### Lost sets (R308) -/

/-- Clear every lost mark of a quadrant. -/
def clearLost (s : State) (q : Nat) : State :=
  { s with lost := s.lost.filter (fun e => decide (e / 32768 ≠ q)) }

/-- L2_LOST as it reads. -/
def lostWord (s : State) (q : Nat) : Word :=
  let mine := s.lost.filter (fun e => decide (e / 32768 = q))
  match mine with
  | [] => 0
  | e :: _ => wd (2 ^ 63 + min 0xFFFF mine.length * 2 ^ 32 + e / 1024 % 32 * 1024 + e % 1024)

/-- L2_LOST_CLR: ring 0 or the host. -/
def execL2LostClr (src : Sender) (q : BitVec 2) (s : State) : Host.Outcome State Fault Refusal :=
  .next (if mayWrite s src 0 then clearLost s q.toNat else s)

end Sys2Proof.Machine
end

