-- ==== Sys2Proof/Machine/Route.lean ====
section
/-! DEFINITION. Routing of packets and their way into a port's egress (R399, R407 to R411, R434). -/

namespace Sys2Proof.Machine

open Sys2Proof

/-- LINK_PORTCFG.MODE of a port: 0 OFF, 1 TORUS, 2 ALIAS, 3 DIRECT, 4 SWITCH. -/
def portMode (s : State) (p : Nat) : Nat := rfield s (portOff p 0) 0 3
def portPeer (s : State) (p : Nat) : Nat := rfield s (portOff p 0) 44 20
def portAlias (s : State) (p : Nat) : Nat := rfield s (portOff p 0) 36 4

/-- LINK_TOPO.MODE: switched. -/
def isSwitched (s : State) : Bool := bit (rget s (linkOff 0 0x408)) 63
/-- Extent of a dimension. -/
def extentOf (s : State) (d : Nat) : Nat := rfield s (linkOff 0 0x408) (4 * d) 4 + 1
/-- Coordinate of a device ID in a dimension. -/
def coordOf (id : BitVec 20) (d : Nat) : Nat := id.toNat / 2 ^ (4 * d) % 16

/-- Class of a packet: request, response, reduction, signal (R399). -/
def pktClass : PktType → Nat
  | .put => 0
  | .putAcc => 0
  | .getReq => 0
  | .getResp => 1
  | .writeAck => 1
  | .red => 2
  | .redAbort => 2
  | .sig => 3
  | .sigAck => 3
  | .mgmt => 3

/-- The torus port on which a packet goes on, and whether it crosses the edge of its dimension
(R408): the first dimension in which the coordinates differ, the shorter way round. -/
def torusHop (s : State) (dst : BitVec 20) : Option (Nat × Bool) :=
  ((List.range 5).find? (fun d => decide (coordOf dst d ≠ coordOf s.devId d))).map (fun d =>
    let n := extentOf s d
    let a := coordOf s.devId d
    let up := (coordOf dst d + n - a) % n
    if 2 * up ≤ n then (2 * d, decide (a + 1 = n)) else (2 * d + 1, decide (a = 0)))

/-- The dimension of a port that serves the torus. -/
def portDim (s : State) (p : Nat) : Option Nat :=
  if portMode s p = 1 then some (p / 2)
  else if portMode s p = 2 then some (portAlias s p / 2) else none

/-- The ports that may serve a destination, with the channel's parity (R408 to R410); `came` is the
port a packet in transit came in on with the parity it had. -/
def routePorts (s : State) (came : Option (Nat × Bool)) (dst : BitVec 20) : List Nat × Bool :=
  match (List.range 16).filter (fun p =>
      decide (portMode s p = 3 ∧ portPeer s p = dst.toNat) && portUp s p) with
  | p :: ps => (p :: ps, false)
  | [] =>
    if isSwitched s then
      ((List.range 16).filter (fun p => decide (portMode s p = 4) && portUp s p), false)
    else match torusHop s dst with
      | none => ([], false)
      | some (t, edge) =>
        let on := (List.range 16).filter (fun p => portUp s p &&
          (decide (p = t ∧ portMode s p = 1) || decide (portMode s p = 2 ∧ portAlias s p = t)))
        let stays := match came with
          | some (p, odd) => odd && decide (portDim s p = some (t / 2))
          | none => false
        (on, edge || stays)

/-- Choose among usable ports by a hash of the flow (R411). -/
def pickPort (agent : Nat) (dst : BitVec 20) (cls : Nat) (ps : List Nat) : Option Nat :=
  match ps with
  | [p] => some p
  | _ => ps[Config.flowHash agent dst.toNat cls % ps.length]?

/-- Index at port p of a requester (R434): 0 to 3 an engine, 4 the pot, 5 the sync memory, 6 the
responder, and 32 + q for packets in transit from port q. -/
def egressIndex (p who : Nat) : Nat :=
  if who < 7 then who else 7 + (if who - 32 < p then who - 32 else who - 33)

/-- The flits of a packet wait at an egress, each a request of its own (R434). -/
def enqueueFlits (a : Arb TxFlit) (req : Nat) (vc : BitVec 3) (p : Packet) : Arb TxFlit :=
  (List.range (packetFlits p)).foldl (fun a k => arbEnqueue a req { vc := vc, pkt := p, part := k }) a

/-- Send a packet towards its destination: the port that it leaves by; none where no port serves it
(R406, R409). -/
def emitPacket (s : State) (who agent : Nat) (came : Option (Nat × Bool)) (p : Packet) :
    State × Option Nat :=
  let r := routePorts s came p.dst
  match pickPort agent p.dst (pktClass p.type) r.1 with
  | none => (s, none)
  | some port =>
    let t := getPort s port
    let vc : BitVec 3 := BitVec.ofNat 3 (2 * pktClass p.type + b2n r.2)
    (setPort s port { t with egress := enqueueFlits t.egress (egressIndex port who) vc p }, some port)

/-- A packet of this device with every field 0 but those named. -/
def packetTo (s : State) (type : PktType) (dst : BitVec 20) (sq : Nat) (tag : BitVec 32) : Packet :=
  { type := type, acc := 0, fmt := 0, len := 0, dst := dst, src := s.devId, sq := BitVec.ofNat 8 sq,
    tag := tag, addr := 0, obj := 0, value := 0, status := 0, data := [] }

/-- Send a remote signal of a thread (R387); one that no port serves is lost (R388). -/
def sigFrom (s : State) (dst : BitVec 20) (sq : Nat) (tag obj value status : Nat) : Packet :=
  { packetTo s .sig dst sq (BitVec.ofNat 32 tag) with
    obj := BitVec.ofNat 16 obj, value := BitVec.ofNat 32 value, status := BitVec.ofNat 8 status }

end Sys2Proof.Machine
end

