-- ==== Sys2Proof/Machine/CommitBase.lean ====
section
/-! DEFINITION. The commit unit as other units meet it: its registers and messages, the abort of a job, the
unit of GO, and what the abort of a copy's descriptor does (R442, R446, R454, R455). -/

namespace Sys2Proof.Machine

open Sys2Proof

/-! ### Registers -/

/-- Agent number and source queue number of commit messages (DESIGN CHOICE, log entry 48). -/
def commitAgent : Nat := 4100
def commitSq : Nat := 0xFE

/-- U, C, S and A. -/
def verU (s : State) : BitVec 32 := BitVec.ofNat 32 (rfield s (commitOff 0x38) 32 32)
def verC (s : State) : BitVec 32 := BitVec.ofNat 32 (rfield s (commitOff 0x38) 0 32)
def verS (s : State) : BitVec 32 := BitVec.ofNat 32 (rfield s (commitOff 0x40) 32 32)
def verA (s : State) : BitVec 32 := BitVec.ofNat 32 (rfield s (commitOff 0x40) 0 32)
def setU (s : State) (v : BitVec 32) : State := rsetField s (commitOff 0x38) 32 32 v.toNat
def setC (s : State) (v : BitVec 32) : State := rsetField s (commitOff 0x38) 0 32 v.toNat
def setS (s : State) (v : BitVec 32) : State := rsetField s (commitOff 0x40) 32 32 v.toNat
def setA (s : State) (v : BitVec 32) : State := rsetField s (commitOff 0x40) 0 32 v.toNat

/-- COMMIT_STAT fields. -/
def commitState (s : State) : Nat := rfield s (commitOff 0x48) 62 2
def inRun (s : State) : Bool := decide (commitState s = 1)
def setCommitState (s : State) (v : Nat) : State := rsetField s (commitOff 0x48) 62 2 v
def setResult (s : State) (v : Nat) : State := rsetField s (commitOff 0x48) 56 4 v
def anchorStale (s : State) : Bool := bit (rget s (commitOff 0x48)) 47

def jobTag (s : State) : Nat := rfield s (commitOff 0) 0 16
def secInterval (s : State) : Nat := rfield s (commitOff 0) 48 16
/-- COMMIT_CFG.TMO in configuration cycles; values below 10 ms act as 10. -/
def commitTmo (s : State) : Nat := max 10 (rfield s (commitOff 0) 32 16) * 100000
def commitQueue (s : State) : Nat := rfield s (commitOff 0) 16 8
def parentDev (s : State) : BitVec 20 := BitVec.ofNat 20 (rfield s (commitOff 8) 32 20)
def isCoordinator (s : State) : Bool := decide (parentDev s = s.devId)
def childCount (s : State) : Nat := rfield s (commitOff 8) 0 5
def partnerDev (s : State) : BitVec 20 := BitVec.ofNat 20 (rfield s (commitOff 0x10) 42 20)
def secondDev (s : State) : BitVec 20 := BitVec.ofNat 20 (rfield s (commitOff 0x10) 22 20)
def ownFeed (s : State) : Nat := rfield s (commitOff 0x10) 0 16
/-- COMMIT_SYNC objects: GO, UPD, CMT, SEC. -/
def goObj (s : State) : Nat := rfield s (commitOff 0x28) 48 16
def updObj (s : State) : Nat := rfield s (commitOff 0x28) 32 16
def cmtObj (s : State) : Nat := rfield s (commitOff 0x28) 16 16
def secObj (s : State) : Nat := rfield s (commitOff 0x28) 0 16

def modCommit (s : State) (f : CommitUnit → CommitUnit) : State := { s with commit := f s.commit }

/-- Every child has announced itself (R444). -/
def treeComplete (s : State) : Bool := decide (childCount s ≤ s.commit.children.length)

/-- A version is a securing version (R449). -/
def isSecuring (s : State) (v : BitVec 32) : Bool :=
  let r := s.commit.r0
  decide (v = r ∨ (r < v ∧ (v.toNat - r.toNat) % max 1 (secInterval s) = 0))

/-! ### Messages (R446) -/

/-- A commit message. -/
def commitPacket (s : State) (dev : BitVec 20) (code : Nat) (v : BitVec 32) (op2 : Nat) : Packet :=
  { packetTo s .mgmt dev commitSq (BitVec.ofNat 32 (jobTag s)) with
    obj := BitVec.ofNat 16 code, value := v, addr := BitVec.ofNat 48 op2 }

/-- Send a message: the port it leaves by; none where no port serves the device. -/
def postCommit (s : State) (dev : BitVec 20) (code : Nat) (v : BitVec 32) (op2 : Nat) : State × Option Nat :=
  emitPacket s 5 commitAgent none (commitPacket s dev code v op2)

/-- Devices of the tree: the parent, unless this is the coordinator, and the children. -/
def treeDevices (s : State) : List (BitVec 20) :=
  (if isCoordinator s then [] else [parentDev s]) ++ s.commit.children.map (·.dev)

/-- Descriptors of the securing copy that have not started leave their queues (R455); one that aborted stays at
the head of its HALTED queue (R426). -/
def dropUnstarted (s : State) (n : Nat) : State :=
  let q := getQueue s n
  let k := b2n q.halted
  setQueue s n { q with
    descs := q.descs.take k ++ (q.descs.drop k).filter (fun d => decide (d.poster ≠ none)) }

/-- Abort the job (R455): `skip` is the device the ABORT came from. -/
def commitAbort (s : State) (reason : Nat) (skip : Option (BitVec 20)) : State :=
  if !inRun s then s else
  let u := verU s
  let n := commitQueue s
  let s := setCommitState s 2
  let s := rsetField (rsetField s (commitOff 0x48) 48 8 reason) (commitOff 0x48) 0 32 u.toNat
  let s := dropUnstarted (dropUnstarted s n) (n + 16)
  let s := modCommit s (fun c => { c with securing := none, targets := [], posted := 0, header := false })
  let s := report s 0x0023 0 (wd reason) 0
  (treeDevices s).foldl (fun s d =>
    if skip = some d then s else (postCommit s d 6 u (verS s).toNat).1) s

/-- Send a message whose loss aborts the job (R454). -/
def sendCommit (s : State) (dev : BitVec 20) (code : Nat) (v : BitVec 32) (op2 : Nat) : State :=
  match postCommit s dev code v op2 with
  | (s, some _) => s
  | (s, none) => commitAbort s 2 none

/-! ### GO (R442) -/

/-- Give the unit of GO for the update after U, once for each U. -/
def goCheck (s : State) : State :=
  let u := verU s
  let okAnchor := !isSecuring s u || (decide (verA s = u) && !anchorStale s)
  if inRun s && !s.commit.goOut && decide (u.toNat ≤ (verC s).toNat + 3) && okAnchor &&
      decide ((getObj s (goObj s)).value = 0)
  then unitSignal (modCommit s (fun c => { c with goOut := true })) (goObj s) 1 else s

/-- A unit of an object may have been taken: where it is GO, the next unit may be due (R442). -/
def noteTaken (s : State) (k : Nat) : State := if k = goObj s then goCheck s else s

/-! ### Securing copies that fail (R454) -/

/-- A securing copy is in progress, and queue n carries it. -/
def copyQueue (s : State) (n : Nat) : Bool :=
  s.commit.securing.isSome && decide (n = commitQueue s ∨ n = commitQueue s + 16)

/-- A descriptor of queue n has aborted with a reason: one of the securing copy aborts the job. -/
def noteAbort (s : State) (n : Nat) (d : Desc) (reason : Nat) : State :=
  if d.poster = none ∧ copyQueue s n = true then commitAbort s (if reason = 8 then 2 else 3) none else s

end Sys2Proof.Machine
end

