-- ==== Sys2Proof/Machine/Engine.lean ====
section
/-! DEFINITION. Transfer-engine queues as other units meet them: descriptor fields, queue state, the
abort of a descriptor and its completion (R415, R418, R424, R426). -/

namespace Sys2Proof.Machine

open Sys2Proof

/-! ### Descriptor fields (R418, R419) -/

/-- Word k of a descriptor. -/
def descWord (d : Desc) (k : Nat) : Word := (d.words.drop k).headD 0
def descKind (d : Desc) : Nat := field (descWord d 0) 60 4
def descOrd (d : Desc) : Bool := bit (descWord d 0) 59
def descCen (d : Desc) : Bool := bit (descWord d 0) 58
def descDev (d : Desc) : BitVec 20 := BitVec.ofNat 20 (field (descWord d 0) 36 20)
def descCdev (d : Desc) : BitVec 20 := BitVec.ofNat 20 (field (descWord d 0) 16 20)
def descCobj (d : Desc) : Nat := field (descWord d 0) 0 16
def descCval (d : Desc) : Nat := field (descWord d 1) 48 16
def descDD (d : Desc) : Bool := bit (descWord d 1) 41
def descSD (d : Desc) : Bool := bit (descWord d 1) 40
def descLen (d : Desc) : Nat := field (descWord d 1) 0 40

/-! ### Waiters of an object (R384, R385) -/

/-- The first pass of R385: waits that the value satisfies are released. -/
def passWaits (v : BitVec 32) : List Waiter → List Waiter × List Nat
  | [] => ([], [])
  | w :: t =>
    let r := passWaits v t
    if !w.take && decide (w.arg ≤ v) then (r.1, w.queue :: r.2) else (w :: r.1, r.2)

/-- The second pass: takes are granted in order until one that the value cannot satisfy. -/
def passTakes (v : BitVec 32) : List Waiter → BitVec 32 × List Waiter × List Nat
  | [] => (v, [], [])
  | w :: t =>
    if !w.take then
      let r := passTakes v t
      (r.1, w :: r.2.1, r.2.2)
    else if w.arg ≤ v then
      let r := passTakes (v - w.arg) t
      (r.1, r.2.1, w.queue :: r.2.2)
    else (v, w :: t, [])

/-- Evaluate the waiters of an object: its new state and the queues released with their status. -/
def evalObj (o : SyncObj) : SyncObj × List Release :=
  if o.err then
    ({ o with waiters := [] }, o.waiters.map (fun w => { queue := w.queue, take := w.take, status := true }))
  else
    let a := passWaits o.value o.waiters
    let b := passTakes o.value a.1
    ({ o with value := b.1, waiters := b.2.1 },
     a.2.map (fun q => { queue := q, take := false, status := false }) ++
       b.2.2.map (fun q => { queue := q, take := true, status := false }))

/-- Store an object that an operation has changed, and send its releases. -/
def putObj (s : State) (k : Nat) (o : SyncObj) : State :=
  let r := evalObj o
  noteTaken { setObj s k r.1 with releases := s.releases ++ r.2 } k

/-! ### Queue state -/

/-- A queue is in service. -/
def queueOn (s : State) (n : Nat) : Bool := bit (rget s (teOff n 0)) 63
/-- TE_Q_CFG.RING. -/
def queueRing (s : State) (n : Nat) : Nat := rfield s (teOff n 0) 16 2

/-- TE_Q_STAT.STATE: 0 OFF, 1 RUN, 2 WAIT, 3 HALTED. -/
def queueState (s : State) (n : Nat) : Nat :=
  if !queueOn s n then 0
  else if (getQueue s n).halted then 3
  else if (getQueue s n).waiting then 2 else 1

/-- Free entries of a queue: a descriptor that moves its lines has not left the head (R420). -/
def queueFree (s : State) (n : Nat) : Nat :=
  let q := getQueue s n
  256 - (q.descs.length + b2n q.run.isSome)

/-- TE_Q_STAT as it reads. -/
def queueStat (s : State) (n : Nat) : Word :=
  wd (queueState s n * 2 ^ 62 + rfield s (teOff n 0x10) 40 8 * 2 ^ 40 +
    min 64 (getQueue s n).flight.length * 2 ^ 16 + queueFree s n)

/-- The agent number of an engine queue (R392). -/
def queueAgent (n : Nat) : Nat := 2080 + n

/-- Agent number of the device's responder (R411). -/
def responderAgent : Nat := 4098

/-! ### Completion objects -/

/-- Set ERR on a completion object; on another device by a SIG with a reason in STATUS (DESIGN
CHOICE, log entry 33). -/
def errObject (s : State) (dev : BitVec 20) (obj sq who agent reason : Nat) : State :=
  if dev = s.devId then
    sendSync s { seq := 0, kind := .setErr, src := .unit, obj := BitVec.ofNat 16 obj, arg := 0 }
  else (emitPacket s who agent none (sigFrom s dev sq 0xFFFFFFFF obj 0 reason)).1

/-- A WAIT or TAKE at the head of an engine queue is satisfied: it leaves the head (R421). -/
def queueWaitDone (s : State) (n : Nat) : State :=
  let q := getQueue s n
  match q.descs with
  | [] => s
  | d :: t =>
    setQueue { s with nextFlight := s.nextFlight + 1 } n
      { q with descs := t, flight := q.flight ++ [Flight.start s.nextFlight d], waiting := false, stalled := 0 }

/-- The operation is the wait or take of queue n. -/
def isQueueOp (n : Nat) (op : SyncOp) : Bool :=
  match op.src with
  | .queue m => decide (m = n) && (match op.kind with
    | .wait => true
    | .take => true
    | _ => false)
  | _ => false

/-- Operations on the way, without those of queue n. -/
def dropQueueOps (n : Nat) : Tab (List SyncOp) → Tab (List SyncOp)
  | [] => []
  | (k, ops) :: t =>
    let left := ops.filter (fun op => !isQueueOp n op)
    if left.isEmpty then dropQueueOps n t else (k, left) :: dropQueueOps n t

/-- Withdraw the wait of a queue: its operation on the way, or its entry in a waiter list. -/
def withdrawWait (s : State) (n : Nat) : State :=
  let s := { s with syncQ := dropQueueOps n s.syncQ }
  match s.sync.find? (fun e => e.2.waiters.any (fun w => decide (w.queue = 2080 + n))) with
  | none => s
  | some (k, o) => putObj s k { o with waiters := o.waiters.filter (fun w => decide (w.queue ≠ 2080 + n)) }

/-- A release is on its way to queue n. -/
def releaseComing (s : State) (n : Nat) : Bool := s.releases.any (fun r => decide (r.queue = 2080 + n))

/-- What a halt does to a head that has begun: a CONTRIB whose slot is active goes on in flight; a WAIT
or TAKE whose release is on its way has it; one that still stalls is withdrawn (DESIGN CHOICE, log
entry 47). -/
def stopHead (s : State) (n : Nat) : State :=
  let q := getQueue s n
  if q.busy then setQueue s n { q with descs := q.descs.drop 1, busy := false }
  else if !q.waiting then s
  else if releaseComing s n then
    queueWaitDone { s with releases := s.releases.filter (fun r => decide (r.queue ≠ 2080 + n)) } n
  else withdrawWait (setQueue s n { q with waiting := false, stalled := 0 }) n

/-- What the abort of a descriptor does beside its place in the queue (R426, R454). -/
def abortDesc (s : State) (n : Nat) (d : Desc) (reason : Nat) (addr : Word) : State :=
  let s := if descCen d then
    errObject s (descCdev d) (descCobj d) (n % 256) (n / 16 % 4) (queueAgent n) reason else s
  let q := getQueue s n
  let s := setQueue s n { q with halted := true, waiting := false, busy := false, stalled := 0 }
  let s := rsetField s (teOff n 0x10) 40 8 reason
  let s := rset s (teOff n 0x28) addr
  noteAbort (raiseIrq s (rget s (teOff n 0)) 0x66 (wd n)) n d reason

/-- The descriptors of a queue that have begun: the one that moves its lines, and those in flight. -/
def begunFlights (q : TeQueue) : List Flight := q.run.toList.map (·.flight) ++ q.flight

/-- The flight of a queue that satisfies a test. -/
def findFlight (s : State) (n : Nat) (p : Flight → Bool) : Option Flight := (begunFlights (getQueue s n)).find? p

/-- Remove a descriptor that has begun. -/
def endFlight (s : State) (n id : Nat) : State :=
  let q := getQueue s n
  setQueue s n { q with run := q.run.filter (fun r => decide (r.flight.id ≠ id))
                        flight := q.flight.filter (fun f => decide (f.id ≠ id)) }

/-- Change a descriptor that has begun. -/
def modFlight (s : State) (n id : Nat) (g : Flight → Flight) : State :=
  let q := getQueue s n
  let h (f : Flight) : Flight := if f.id = id then g f else f
  setQueue s n { q with run := q.run.map (fun r => { r with flight := h r.flight }), flight := q.flight.map h }

/-- An aborted descriptor stands at the head of its queue. The one that halted a queue stays there: another
that aborts after it leaves the queue (DESIGN CHOICE, log entry 149). -/
def toHead (s : State) (n : Nat) (d : Desc) : State :=
  if (getQueue s n).halted then s else
  let s := stopHead s n
  let q := getQueue s n
  setQueue s n { q with descs := d :: q.descs }

/-- Abort a descriptor that has begun: it stands at the head of the halted queue. -/
def abortFlight (s : State) (n : Nat) (f : Flight) (reason : Nat) (addr : Word) : State :=
  abortDesc (toHead (endFlight s n f.id) n f.desc) n f.desc reason addr

/-- The home of a completion object has answered the signal of a descriptor: it is complete, or it aborts with
SYNC (R388, R424). -/
def signalAnswered (s : State) (n id : Nat) (good : Bool) : State :=
  match findFlight s n (fun f => f.signalled && decide (f.id = id)) with
  | none => s
  | some f => if good then endFlight s n f.id else abortFlight s n f 0x0A (wd (descCobj f.desc))

end Sys2Proof.Machine
end

