-- ==== Sys2Proof/Machine/EngineMem.lean ====
section
/-! DEFINITION. Accesses of transfer engines, pots, the responder and the host's window: runs of bytes
of any alignment, and the writes of one element or block (R422, R423, R426, R463). -/

namespace Sys2Proof.Machine

open Sys2Proof

/-- A queue as the maker of accesses (R422). -/
def engAgent (s : State) (n : Nat) : Agent :=
  { who := queueAgent n, core := none, thr := none, aspace := rget s (teOff n 8)
    ring := queueRing s n, cls := 3, age := 1 }

/-- Abort reason of a cause code of a local access (R426). -/
def reasonOf (c : BitVec 8) : Nat :=
  if c = 0x07 ∨ c = 0x08 then 2 else if 0x40 ≤ c.toNat ∧ c.toNat ≤ 0x43 then 4
  else if c = 0x0E then 1 else 3

/-- Bytes of a run that lie in the line of its first byte. -/
def lineCut (va : Word) (n : Nat) : Nat := min n (128 - va.toNat % 128)

/-- Read a run of bytes. -/
def readSpan (a : Agent) : Nat → Nat → State → Word → State × (Nat ⊕ (BitVec 8 × Word))
  | 0, _, s, _ => (s, .inl 0)
  | fuel + 1, n, s, va =>
    if n = 0 then (s, .inl 0) else
    let k := lineCut va n
    match readVa a s va k with
    | (s, .inr e) => (s, .inr e)
    | (s, .inl v) =>
      match readSpan a fuel (n - k) s (va + wd k) with
      | (s, .inr e) => (s, .inr e)
      | (s, .inl r) => (s, .inl (v + 2 ^ (8 * k) * r))

/-- Writes of runs of bytes as writes that lie in one line each. -/
def cutRun : Nat → Word → Nat → Nat → List Wr
  | 0, _, _, _ => []
  | fuel + 1, va, n, v =>
    if n = 0 then [] else
    let k := lineCut va n
    .put va k (v % 2 ^ (8 * k)) :: cutRun fuel (va + wd k) (n - k) (v / 2 ^ (8 * k))

def cutWr : Wr → List Wr
  | .put va n v => cutRun n va n v
  | w => [w]

/-- The line of a planned write cannot be written: its set is lost, or the write covers a part of a line
that cannot be read (R308, R464). -/
def lineFails (s : State) (e : LineWr) : Option (BitVec 8) :=
  if refused s e.1 then some 0x43
  else if e.2.2.1 = BitVec.allOnes 1024 then none
  else match tabFind s.l2 e.1 with
    | some ln => if ln.bad = 0 then none else some 0x41
    | none => if badWords s e.1 = 0 then none else some 0x40

/-- The first line of a plan that cannot be written, with an address of it and the cause code. -/
def planFails (s : State) (p : List LineWr × List AccUpd) : Option (Nat × Word × BitVec 8) :=
  match p.1.findSome? (fun e => (lineFails s e).map (fun c => (e.1, e.2.1, c))) with
  | some x => some x
  | none => (p.2.find? (fun u => refused s u.line)).map (fun u => (u.line, wd (128 * u.line), 0x43))

/-- Perform the writes of one element or block, line by line; a line that cannot be written is found before
any is written (R553). -/
def planAll (a : Agent) (ws : List (Nat × Wr)) (s : State) : State × Put :=
  let p := planWrites a ws
  let s := passPlan a p s
  match planFails s p with
  | some (l, va, c) =>
    let e := memError s a l va c
    (e.1, .fault e.2.1 e.2.2)
  | none =>
    let s := p.1.foldl (fun s e => (writeLine s a e.1 e.2.2.1 e.2.2.2).1) s
    (p.2.foldl sendUpdate s, .ok)

/-- Check every write of one element or block, then perform them. -/
def engWrite (a : Agent) (ws : List Wr) (s : State) : State × Put :=
  let ws := ws.flatMap cutWr
  match xlatAll a .store 1 (ws.map (fun w => (w.addr, 0))) s with
  | (s, .inr (.trap c info)) => (s, .fault c info)
  | (s, .inr (.held n)) => (s, .held n)
  | (s, .inr _) => (s, .ok)
  | (s, .inl ps) => planAll a (ps.zip ws) s

/-- The first write of a list that the context manager would hold. -/
def wouldHold (a : Agent) : List Wr → State → Option CtxNeed
  | [], _ => none
  | w :: t, s =>
    match xlat a .store s w.addr with
    | (_, .held n) => some n
    | _ => wouldHold a t s

/-- No write of an agent awaits an acknowledgement of an invalidation or lies in a window. -/
def agentDone (s : State) (who : Nat) : Bool :=
  s.writes.all (fun w => decide (who ∉ w.agents)) && windowsClear s who

/-- Value of a write. -/
def Wr.withVal (v : Nat) : Wr → Wr
  | .put va n _ => .put va n (v % 2 ^ (8 * n))
  | .nib va h _ => .nib va h (v % 16)
  | .acc va op f _ => .acc va op f (v % 2 ^ (8 * fmtBytes f))

end Sys2Proof.Machine
end

