-- ==== Sys2Proof/Machine/Pot.lean ====
section
/-! DEFINITION. The pots (R428 to R437): slots, contributions in the order of their grants, outputs,
completion and aborts; and the start conditions that every descriptor kind shares (R420, R425). -/

namespace Sys2Proof.Machine

open Sys2Proof

/-! ### Starting a descriptor (R420, R425) -/

/-- The layout of a descriptor is legal for queue n (R418, R419, R425). -/
def descGood (n : Nat) (d : Desc) : Bool :=
  let w (k : Nat) := descWord d k
  let rest (k : Nat) : Bool := (List.range (8 - k)).all (fun j => decide (w (k + j) = 0))
  decide (field (w 0) 56 2 = 0 ∧ field (w 1) 42 6 = 0) &&
  (match descKind d with
   | 0 | 1 | 2 | 3 => rest 4
   | 4 | 5 => rest 5
   | 6 => rest 4 && descCen d
   | 7 => rest 5 && decide (field (w 4) 44 4 = 0 ∧ field (w 4) 35 5 = 0 ∧ field (w 4) 40 4 ≤ 12 ∧
       field (w 4) 16 16 ≠ 0 ∧ field (w 4) 14 2 = n / 64)
   | 8 | 9 => rest 5 && decide (field (w 4) 48 16 = 0)
   | _ => false)

/-- The head descriptor of a queue, if it can start now. -/
def headStarts (s : State) (n : Nat) : Option Desc :=
  let q := getQueue s n
  match q.descs with
  | [] => none
  | d :: _ =>
    if queueState s n = 1 ∧ q.run = none ∧ q.busy = false ∧ q.flight.length < 64 ∧
        (descOrd d = false ∨ q.flight = []) then some d else none

/-- The built-in test of the engine of queue n is in progress: its work is held (R469). -/
def engineTested (s : State) (n : Nat) : Bool := unitTested s (n / 64) (1 + n / 16 % 4)

/-! ### Slots (R428 to R430) -/

def slotWord (x : PotSlot) (k : Nat) : Word := (x.words.drop k).headD 0
def slotLen (x : PotSlot) : Nat := field (slotWord x 1) 0 40
/-- F: flits of a reduction (R429). -/
def slotFlits (x : PotSlot) : Nat := (slotLen x + 127) / 128
def slotBlocks (x : PotSlot) : Nat := 2 ^ field (slotWord x 4) 40 4
def slotCount (x : PotSlot) : Nat := field (slotWord x 4) 16 16
def slotFwd (x : PotSlot) : Bool := bit (slotWord x 4) 33
def slotNoData (x : PotSlot) : Bool := bit (slotWord x 4) 32
def slotDev (x : PotSlot) : BitVec 20 := (slotWord x 0 >>> 36).truncate 20
def slotPrid (x : PotSlot) : Nat := field (slotWord x 4) 48 16

/-- Blocks of a quadrant's pot that are not reserved. -/
def potFree (s : State) (q : Nat) : Nat :=
  8192 - ((s.potSlots.filter (fun e => decide (e.1 / 2 ^ 14 = q ∧ e.2.state = 1))).map
    (fun e => slotBlocks e.2)).sum

/-- Agent number of a slot's local writes. -/
def potAgent (rid : Nat) : Nat := 16384 + rid

/-- The flit of a packet that this device sends to a pot of its own. -/
def ownFlit (p : Packet) : PotFlit :=
  { rid := p.obj, idx := p.value.toNat, vals := BitVec.ofNat 2048 (ofBytes p.data), from? := some p
    abort := decide (p.type = .redAbort) }

/-- The pot sends a packet for a reduction; false where no port serves its device. One for the own device (R418)
joins the requests at its pot as one from the other quadrants' ports (DESIGN CHOICE, log entry 151). -/
def potPacket (s : State) (rid : Nat) (p : Packet) : State × Bool :=
  if p.dst = s.devId then
    let q := p.obj.toNat / 2 ^ 14
    (setPot s q (arbEnqueue (getPot s q) 4 (ownFlit p)), true)
  else
    let r := emitPacket s 4 (potAgent (rid / 2 ^ 14 * 2 ^ 14)) none p
    (r.1, r.2.isSome)

/-- Abort a slot: its blocks are free, RED_ABORT follows FWD, and its CONTRIB aborts (R436). -/
def potAbort (s : State) (rid reason : Nat) (addr? : Option Word) : State :=
  let x := getSlot s rid
  if x.state ≠ 1 then s else
  let s := setSlot s rid { x with state := 2, blocks := [], outs := [], unacked := [] }
  let s := if slotFwd x then
    (potPacket { s with nextTag := s.nextTag + 1 } rid { packetTo s .redAbort (slotDev x) 0xFF s.nextTag with
      obj := BitVec.ofNat 16 (slotPrid x) }).1 else s
  match findFlight s x.queue (fun f => decide (f.id = x.flight)) with
  | some f => abortFlight s x.queue f reason (addr?.getD f.desc.addr)
  | none => s

/-! ### Values (R431, R432) -/

/-- Value e of a flit of 128 G16 values. -/
def flitVal (r : TileRow) (e : Nat) : Nat := (r.toNat >>> (16 * e)) % 65536

/-- A G16 value widened to FP32. -/
def widen16 (v : Nat) : Nat := (convFmt 10 11 0 0 0 (decodeFmt 10 v)).1

/-- Sum e of a block. -/
def sumAt (b : PotBlock) (e : Nat) : Nat := (b.sums.toNat >>> (32 * e)) % 2 ^ 32

/-- Values of equal width as one number, the first lowest. -/
def packVals (w : Nat) : List Nat → Nat
  | [] => 0
  | v :: t => v % 2 ^ w + 2 ^ w * packVals w t

/-- Add a contribution to its block; the first takes one. -/
def addFlit (b : Option PotBlock) (r : TileRow) : PotBlock :=
  match b with
  | none =>
    let v := packVals 32 ((List.range 128).map (fun e => widen16 (flitVal r e)))
    { count := 1, sums := BitVec.ofNat 4096 v }
  | some b =>
    let v := packVals 32 ((List.range 128).map (fun e =>
      (fpAdd 11 0 (sumAt b e) (widen16 (flitVal r e))).1))
    { count := b.count + 1, sums := BitVec.ofNat 4096 v }

/-- A sum as G16, and whether it saturated or became NaN. -/
def narrow16 (v : Nat) : Nat × Bool :=
  let r := convFmt 11 10 0 0 0 (decodeFmt 11 v)
  (r.1, decide (r.1 = defaultNan 10 ∨ r.2 &&& (fOF ||| fOVS) ≠ 0))

/-! ### Outputs (R432) -/

/-- Lowest index not yet output. -/
def advanceBase (outs : List Nat) : Nat → Nat → Nat × List Nat
  | 0, b => (b, outs)
  | n + 1, b => if b ∈ outs then advanceBase (outs.filter (fun k => decide (k ≠ b))) n (b + 1) else (b, outs)

/-- The output of index k leaves its block free. -/
def markOutput (x : PotSlot) (k : Nat) : PotSlot :=
  let r := advanceBase (k :: x.outs) (x.outs.length + 1) x.base
  { x with base := r.1, outs := r.2, blocks := tabDel x.blocks k }

/-- Count saturated and NaN outputs. -/
def countSat (s : State) (rid n : Nat) : State := raddSat s (linkOff (rid / 2 ^ 14) 0x810) 32 32 n

/-- Forward one block. -/
def forwardBlock (s : State) (rid k : Nat) (b : PotBlock) : State :=
  let x := getSlot s rid
  let vs := (List.range 128).map (fun e => narrow16 (sumAt b e))
  let tag := s.nextTag
  let p := { packetTo s .red (slotDev x) 0xFF tag with
    len := 256, obj := BitVec.ofNat 16 (slotPrid x), value := BitVec.ofNat 32 k
    data := bytesOf 256 (packVals 16 (vs.map Prod.fst)) }
  match potPacket { s with nextTag := tag + 1 } rid p with
  | (s, false) => potAbort s rid 8 none
  | (s, true) =>
    countSat (setSlot s rid { markOutput x k with unacked := x.unacked ++ [tag] }) rid
      (vs.filter (·.2)).length

/-- Write one block at DST; it is kept where the context manager holds the write. -/
def storeBlock (s : State) (rid k : Nat) (b : PotBlock) : State :=
  let x := getSlot s rid
  let n := min 128 (slotLen x - 128 * k)
  let wide := bit (slotWord x 4) 34
  let vs := (List.range n).map (fun e => if wide
    then (sumAt b e, (decodeFmt 11 (sumAt b e)).isNan)
    else narrow16 (sumAt b e))
  let w := if wide then 4 else 2
  let va := slotWord x 3 + wd ((if wide then 512 else 256) * k)
  let a := { engAgent s x.queue with who := potAgent rid }
  match engWrite a [.put va (w * n) (packVals (8 * w) (vs.map Prod.fst))] s with
  | (s, .held need) => holdWrite s none need
  | (s, .fault c info) => potAbort s rid (reasonOf c) (some info)
  | (s, .ok) => countSat (setSlot s rid (markOutput x k)) rid (vs.filter (·.2)).length

/-- Output every block that has received COUNT contributions. -/
def potOutputs (s : State) (rid : Nat) : State :=
  let x := getSlot s rid
  (x.blocks.filter (fun e => decide (e.2.count = slotCount x))).foldl (fun s e =>
    if (getSlot s rid).state = 1 then
      (if slotFwd x then forwardBlock s rid e.1 e.2 else storeBlock s rid e.1 e.2) else s) s

/-! ### Local contributions (R429, R430) -/

/-- The head of the queue of a CONTRIB leaves when its reads have been issued (R420). -/
def leaveHead (s : State) (n : Nat) : State :=
  let q := getQueue s n
  if q.busy then setQueue s n { q with descs := q.descs.drop 1, busy := false } else s

/-- Offer local flits up to the end of the window. -/
def offerLocal (rid : Nat) : Nat → State → State
  | 0, s => s
  | fuel + 1, s =>
    let x := getSlot s rid
    let k := x.localNext
    if x.state ≠ 1 then s
    else if slotNoData x || decide (slotFlits x ≤ k) then leaveHead s x.queue
    else if x.base + slotBlocks x ≤ k then s
    else
      let n := min 128 (slotLen x - 128 * k)
      match readSpan (engAgent s x.queue) (2 * n) (2 * n) s (slotWord x 2 + wd (256 * k)) with
      | (s, .inr e) => potAbort s rid (reasonOf e.1) (some e.2)
      | (s, .inl v) =>
        let f : PotFlit := { rid := BitVec.ofNat 16 rid, idx := k, vals := BitVec.ofNat 2048 v, from? := none
                             abort := false }
        let q := rid / 2 ^ 14
        let s := setPot s q (arbEnqueue (getPot s q) (5 + x.queue / 16 % 4) f)
        offerLocal rid fuel (setSlot s rid { x with localNext := k + 1 })

/-- Local flits that the window now takes. -/
def offerMore (s : State) (rid : Nat) : State := offerLocal rid (slotFlits (getSlot s rid) + 1) s

/-! ### The commands -/

/-- CONTRIB (R428): it waits at the head until its slot is idle and its blocks are free. -/
def execContrib (n : BitVec 8) (s : State) : Host.Outcome State Fault Refusal :=
  let n := n.toNat
  .next (match headStarts s n with
    | none => s
    | some d =>
      if descKind d ≠ 7 ∨ engineTested s n = true ∨ unitTested s (n / 64) 0 = true then s
      else if !descGood n d then abortDesc s n d 1 d.addr
      else
        let rid := field (descWord d 4) 0 16
        let need := 2 ^ field (descWord d 4) 40 4
        if (getSlot s rid).state ≠ 0 ∨ potFree s (n / 64) < need then s else
        let q := getQueue s n
        let f : Flight := { Flight.start s.nextFlight d with pot := true }
        let s := setQueue { s with nextFlight := s.nextFlight + 1 } n
          { q with flight := q.flight ++ [f], busy := true }
        offerMore (setSlot s rid { PotSlot.idle with
          state := 1, queue := n, flight := f.id, words := d.words }) rid)

/-- The slot whose forwarded flit awaits a tag (R433). -/
def slotOf (s : State) (tag : BitVec 32) : Option (Nat × PotSlot) :=
  s.potSlots.find? (fun e => decide (tag ∈ e.2.unacked))

/-- A forwarded flit has been acknowledged. -/
def potAcked (s : State) (r : Nat) (y : PotSlot) (tag : BitVec 32) : State :=
  setSlot s r { y with unacked := y.unacked.filter (fun t => decide (t ≠ tag)) }

/-- Acknowledge a RED flit (R433); one of the own device reaches its slot at once. -/
def ackFlit (s : State) (f : PotFlit) : State :=
  match f.from? with
  | none => s
  | some p =>
    if p.src = s.devId then
      match slotOf s p.tag with
      | some e => potAcked s e.1 e.2 p.tag
      | none => s
    else
      (emitPacket s 6 responderAgent none
        { packetTo s .writeAck p.src p.sq.toNat p.tag with value := BitVec.ofNat 32 f.idx }).1

/-- Count a flit that an aborted slot discards (R436). -/
def discardFlit (s : State) (f : PotFlit) : State :=
  raddSat (ackFlit s f) (linkOff (f.rid.toNat / 2 ^ 14) 0x810) 0 32 1

/-- A pot accepts a contribution (R430, R431). Where the block it adds to holds an uncorrectable
error, `bad`, the slot aborts and the error is reported (R436). -/
def takeFlit (s : State) (f : PotFlit) (bad : Bool) : State :=
  let rid := f.rid.toNat
  let x := getSlot s rid
  if x.state ≠ 1 then discardFlit s f
  else if f.abort then potAbort s rid 9 none else
  let old := tabFind x.blocks f.idx
  let full := match old with
    | some b => decide (slotCount x ≤ b.count)
    | none => false
  if decide (f.idx < x.base ∨ f.idx ∈ x.outs) || full then discardFlit (potAbort s rid 9 none) f
  else if bad && old.isSome then
    discardFlit (potAbort (ueConsumed s (unitOf (rid / 2 ^ 14) (potAgent rid)) (wd f.idx)) rid 9 none) f
  else
    let s := setSlot s rid { x with blocks := tabPut x.blocks f.idx (addFlit old f.vals) }
    let s := if old.isSome then radd s (linkOff (rid / 2 ^ 14) 0x818) 128 else s
    let s := ackFlit { s with potQuiet := tabPut s.potQuiet (rid / 2 ^ 14) (2 ^ 20) } f
    offerMore (potOutputs s rid) rid

/-- The slot takes a flit now: it is aborted, or active with the flit's index below the end of its window
(R430). -/
def slotTakes (s : State) (f : PotFlit) : Bool :=
  let x := getSlot s f.rid.toNat
  decide (x.state = 2 ∨ (x.state = 1 ∧ (f.abort = true ∨ f.idx < x.base + slotBlocks x)))

/-- POT_CONTRIBUTION (R431): the next flit that the pot arbiter has granted and its slot takes. -/
def execPotContribution (q : BitVec 2) (bad : Bool) (s : State) : Host.Outcome State Fault Refusal :=
  let p := getPot s q.toNat
  .next (if unitTested s q.toNat 0 then s else
    match takeFirst (slotTakes s) p.granted with
    | none => s
    | some (f, t) => takeFlit (setPot s q.toNat { p with granted := t }) f bad)

/-- A slot has output everything and awaits nothing. -/
def slotDone (s : State) (rid : Nat) : Bool :=
  let x := getSlot s rid
  decide (x.state = 1 ∧ slotFlits x ≤ x.base) && x.unacked.isEmpty && agentDone s (potAgent rid)

/-- POT_SLOT_COMPLETE (R433): the slot becomes idle, and its CONTRIB completes under R424. -/
def execPotSlotComplete (rid : BitVec 16) (s : State) : Host.Outcome State Fault Refusal :=
  let r := rid.toNat
  .next (if unitTested s (r / 2 ^ 14) 0 then s else
    let s := offerMore (potOutputs s r) r
    if slotDone s r then
      let x := getSlot s r
      setSlot (modFlight s x.queue x.flight (fun f => { f with pot := false })) r PotSlot.idle
    else s)

/-- A flit is at a pot and its slot is aborted. -/
def slotGone (s : State) (f : PotFlit) : Bool := decide ((getSlot s f.rid.toNat).state = 2)

/-- The flits at a pot whose slots are aborted are discarded. -/
def discardQueued (s : State) (q : Nat) : State :=
  let p := getPot s q
  let gone := (p.granted ++ p.waiting.map (·.item)).filter (slotGone s)
  gone.foldl discardFlit (setPot s q { p with
    granted := p.granted.filter (fun f => !slotGone s f)
    waiting := p.waiting.filter (fun w => !slotGone s w.item) })

/-- Aborted slots of a quadrant return to idle (R436). -/
def clearSlots (s : State) (q : Nat) : State :=
  let s := discardQueued s q
  { s with potSlots := s.potSlots.filter (fun e => decide (e.1 / 2 ^ 14 ≠ q ∨ e.2.state ≠ 2)) }

def execClear (src : Sender) (q : BitVec 2) (s : State) : Host.Outcome State Fault Refusal :=
  .next (if mayWrite s src 1 then clearSlots s q.toNat else s)

end Sys2Proof.Machine
end

