-- ==== Sys2Proof/Machine/Sync.lean ====
section
/-! DEFINITION. Synchronisation objects, their homes, fences and the deadlock detector (Ordering and
synchronisation, R371 to R392). -/

namespace Sys2Proof.Machine

open Sys2Proof


/-! ### Objects at their home (R379 to R385) -/

/-- The range of its home that rings 2 and 3 may use holds the object (R382). -/
def inSyncRange (s : State) (obj : BitVec 16) : Bool :=
  let w := rget s (syncOff (obj.toNat / 2 ^ 14) 0)
  let k := obj.toNat % 2 ^ 14
  decide (field w 0 14 ≤ k ∧ k ≤ field w 16 14)

/-- An s.wait or s.take completes when it reaches the home; none where it joins the list. -/
def arriveWait (o : SyncObj) (take : Bool) (arg : BitVec 32) : Option (SyncObj × Bool) :=
  if o.err then some (o, true)
  else if arg = 0 then some (o, false)
  else if take then
    if o.waiters.any (·.take) || decide (o.value < arg) then none
    else some ({ o with value := o.value - arg }, false)
  else if arg ≤ o.value then some (o, false) else none

/-! ### Answers (R381, R382, R388) -/

/-- A thread's operation has completed at its home. -/
def threadDone (s : State) (i len : Nat) : State :=
  let t := getThread s i
  let s := setThread s i { t with hold := .none, mode := .run, stalled := 0 }
  retire s i t.ring t.ss (t.pc + wd len)

/-- Record a remote or host signal that was dropped: code 1 overflow, 2 outside the range. -/
def recordDrop (s : State) (obj : BitVec 16) (src : BitVec 20) (code : Nat) : State :=
  let o := syncOff (obj.toNat / 2 ^ 14) 0x20
  if bit (rget s o) 63 then raddSat s o 14 18 1
  else rset s o (wd (2 ^ 63 + code * 2 ^ 61 + src.toNat * 2 ^ 32 + 2 ^ 14 + obj.toNat % 2 ^ 14))

/-- Acknowledge a remote signal: STATUS 0, or SYNC with VALUE 1 for an overflow and 2 for an object
outside the range (DESIGN CHOICE, log entry 34). -/
def ackSignal (s : State) (p : Packet) (code : Nat) : State :=
  let status := if code = 0 then 0 else 0x0A
  (emitPacket s 5 responderAgent none
    { packetTo s .sigAck p.src p.sq.toNat p.tag with
      obj := p.obj, value := BitVec.ofNat 32 code, status := BitVec.ofNat 8 status }).1

/-- Answer the sender of a signal or set: code 0 applied, 1 overflow, 2 outside the range. A thread whose core
has stopped issuing stays in HALT (R473). -/
def answer (s : State) (op : SyncOp) (code : Nat) : State :=
  match op.src with
  | .thread t d =>
    let i := thrIx t
    if (getCore s (i / 16)).stopped then s
    else if code = 0 then threadDone s i (if d = 0 then 4 else 8)
    else takeSync s i (if code = 1 then 0x0F else 0x10) (wd op.obj.toNat)
  | .flight n id => signalAnswered s n id (decide (code = 0))
  | .queue _ => s
  | .remote p _ => ackSignal (if code = 0 then s else recordDrop s op.obj p.src code) p code
  | .unit => s
  | _ => if code = 0 then s else recordDrop s op.obj s.devId code

/-- Answer a wait or a take. -/
def answerWait (s : State) (op : SyncOp) (status : Bool) : State :=
  match op.src with
  | .thread t d => threadDone (writeG s (thrIx t) d (wd (b2n status))) (thrIx t) 4
  | .queue n => if (getQueue s n).waiting then queueWaitDone s n else s
  | _ => s

/-- The object is outside the range that the sender may use. -/
def outOfRange (s : State) (op : SyncOp) : Bool :=
  match op.src with
  | .thread t _ => decide (2 ≤ (getThread s (thrIx t)).ring.toNat) && !inSyncRange s op.obj
  | .remote _ _ => decide (op.kind ≠ .setErr) && !inSyncRange s op.obj
  | _ => false

/-- SYNC_SET (R389). -/
def reportSet (s : State) (op : SyncOp) (o : SyncObj) : State :=
  let who := match op.src with
    | .thread t _ => field (tidWord s (thrIx t)) 0 13 * 2 ^ 32
    | .regs t => field (tidWord s (thrIx t)) 0 13 * 2 ^ 32
    | .debug => 2 * 2 ^ 17
    | _ => 2 ^ 17
  report s 0x0020 (unitOf (op.obj.toNat / 2 ^ 14) 0)
    (wd (op.obj.toNat + b2n o.err * 2 ^ 16 + who)) (o.value ++ op.arg)

/-- Count an operation applied at the home of an object. -/
def countOp (s : State) (obj : BitVec 16) : State := radd s (syncOff (obj.toNat / 2 ^ 14) 0x28) 1

/-- A wait joins the list, and its queue stalls (R384). -/
def joinWaiters (s : State) (op : SyncOp) (o : SyncObj) (take : Bool) : State :=
  let put (s : State) (q : Nat) : State :=
    setObj s op.obj.toNat { o with waiters := o.waiters ++ [{ queue := q, take := take, arg := op.arg }] }
  match op.src with
  | .thread t d =>
    modThread (put s (queueOf (thrIx t))) (thrIx t) (fun t =>
      { t with mode := .wait, hold := .none, waitReg := d, stalled := 0 })
  | .queue n => if (getQueue s n).waiting then put s (2080 + n) else s
  | _ => s

/-- Apply an operation at its home. -/
def applySync (s : State) (op : SyncOp) : State :=
  let k := op.obj.toNat
  let o := getObj s k
  if outOfRange s op then answer s op 2 else
  match op.kind with
  | .sig =>
    if 2 ^ 32 ≤ o.value.toNat + op.arg.toNat then answer s op 1
    else answer (putObj (countOp s op.obj) k { o with value := o.value + op.arg }) op 0
  | .set =>
    answer (putObj (reportSet (countOp s op.obj) op o) k { o with value := op.arg, err := false }) op 0
  | .setErr => answer (putObj (countOp s op.obj) k { o with err := true }) op 0
  | .wait =>
    match arriveWait o false op.arg with
    | some (o, st) => answerWait (setObj (countOp s op.obj) k o) op st
    | none => joinWaiters (countOp s op.obj) op o false
  | .take =>
    match arriveWait o true op.arg with
    | some (o, st) => answerWait (noteTaken (setObj (countOp s op.obj) k o) k) op st
    | none => joinWaiters (countOp s op.obj) op o true

/-- A remote signal of a thread comes before another of the same thread (R387). -/
def sentBefore (a b : SyncOp) : Bool :=
  match a.src, b.src with
  | .remote p _, .remote r _ =>
    decide (p.sq = 0xFE ∧ p.src = r.src ∧ p.sq = r.sq ∧ p.tag = r.tag ∧ a.seq < b.seq)
  | _, _ => false

/-- A signal of the host waits for its earlier writes to BAR2 (R378), one of a unit of the device for
that unit's writes (R358), and a remote signal of a thread for the earlier ones of that thread, whichever
quadrant is their home (R387). One of a thread whose core is under test is applied when the test ends (R478;
log entry 138). -/
def opReady (s : State) (op : SyncOp) : Bool :=
  match op.src with
  | .thread t _ => !(getCore s (thrCore t)).testing
  | .host => s.writes.all (fun w => decide (hostAgent ∉ w.agents))
  | .unit => s.writes.all (fun w => decide (otherAgent ∉ w.agents))
  | .remote _ _ => !s.syncQ.any (fun e => e.2.any (fun o => sentBefore o op))
  | _ => true

/-- SYNC_HOME_OP (R384, R385): the next operation of a quadrant's home. -/
def execSyncHomeOp (q : BitVec 2) (s : State) : Host.Outcome State Fault Refusal :=
  .next (if unitTested s q.toNat 7 then s else
    match takeFirst (opReady s) (tabGet (fun _ => []) s.syncQ q.toNat) with
    | none => s
    | some (op, rest) => applySync { s with syncQ := tabSet (fun _ => []) s.syncQ q.toNat rest } op)

/-- A release to a thread of a core under test takes effect when the test ends (R478). -/
def releaseHeldBack (s : State) (queue : Nat) : Bool :=
  decide (queue < 2080) && (getCore s (threadOfQueue queue / 16)).testing

/-- WAIT_RELEASE (R384): a release or grant reaches its queue. -/
def execWaitRelease (queue : BitVec 12) (s : State) : Host.Outcome State Fault Refusal :=
  .next (if releaseHeldBack s queue.toNat then s else match takeFirst (fun r : Release => decide (r.queue = queue.toNat)) s.releases with
    | none => s
    | some (r, rest) =>
      let s := { s with releases := rest }
      if r.queue < 2080 then
        let i := threadOfQueue r.queue
        if (getThread s i).mode = .wait
        then threadDone (writeG s i (getThread s i).waitReg (wd (b2n r.status))) i 4 else s
      else if (getQueue s (r.queue - 2080)).waiting then queueWaitDone s (r.queue - 2080) else s)

/-! ### Instructions of major 0x30 -/

/-- The reserved fields of a synchronisation word are 0; d must be 0 where `noD`. -/
def syncClean (f : SyncForm) (noD : Bool) : Bool := decide (f.rsv = 0) && (!noD || decide (f.d = 0))

/-- Send a local operation; the thread waits for its home. -/
def sendLocal (i : Nat) (kind : SyncKind) (d : BitVec 5) (obj arg : Word) (s : State) : Body :=
  let op : SyncOp := { seq := 0, kind := kind, src := .thread (thrOf i) d, obj := obj.truncate 16,
                       arg := arg.truncate 32 }
  .again (modThread (sendSync s op) i (fun t => { t with hold := .sync }))

/-- Send a remote signal (R387); one that no port serves is lost (R388, R406). -/
def sendRemote (i : Nat) (dev obj arg : Word) (s : State) : Body :=
  let p := sigFrom s (dev.truncate 20) 0xFE (queueOf i) (field obj 0 16) (field arg 0 32) 0
  match emitPacket s 5 (queueOf i) none p with
  | (s, some p) => .done (modThread s i (fun t =>
      { t with sigOut := t.sigOut ++ [(dev.truncate 20, obj.truncate 16, p)] }))
  | (s, none) => .done (modThread s i (fun t =>
      { t with sigErr := some (t.sigErr.getD (0x12, obj.truncate 16)) }))

/-- S_SIG (R375, R379, R387). -/
def execSSig (x : Iss) (f : SyncForm) (s : State) : Host.Outcome State Fault Refusal :=
  .next (issue x (fun i s =>
    let t := getThread s i
    let obj := getG t f.a
    let arg := getG t f.b
    if !syncClean f true then illegal s i else
    match x.long with
    | none => sendLocal i .sig 0 obj arg s
    | some p =>
      if p.lit ≠ .none ∨ p.x2 ≠ 0 ∨ p.x3 ≠ 0 ∨ p.xf ≠ 0 then illegal s i
      else if (getG t p.x1).truncate 20 = s.devId then sendLocal i .sig 1 obj arg s
      else sendRemote i (getG t p.x1) obj arg s) s)

/-- S_WAIT (R384). -/
def execSWait (x : Iss) (f : SyncForm) (s : State) : Host.Outcome State Fault Refusal :=
  .next (issue x (shortOnly x (syncClean f false) fun i s =>
    sendLocal i .wait f.d (getG (getThread s i) f.a) (getG (getThread s i) f.b) s) s)

/-- S_TAKE (R384). -/
def execSTake (x : Iss) (f : SyncForm) (s : State) : Host.Outcome State Fault Refusal :=
  .next (issue x (shortOnly x (syncClean f false) fun i s =>
    sendLocal i .take f.d (getG (getThread s i) f.a) (getG (getThread s i) f.b) s) s)

/-- S_SET (R382, R389). -/
def execSSet (x : Iss) (f : SyncForm) (s : State) : Host.Outcome State Fault Refusal :=
  .next (issue x (shortOnly x (syncClean f true) fun i s =>
    if 2 ≤ (getThread s i).ring.toNat then illegal s i else
    sendLocal i .set 0 (getG (getThread s i) f.a) (getG (getThread s i) f.b) s) s)

/-! ### The object table (R390) -/

/-- Entries of a waiter list of one kind, saturating at 255. -/
def waitCount (o : SyncObj) (take : Bool) : Nat :=
  min 255 (o.waiters.filter (fun w => w.take == take)).length

/-- NTAKE, NWAIT, ERR and VALUE, as the table and SYNC_PEEK give them. -/
def objWord (o : SyncObj) : Word :=
  wd (waitCount o true * 2 ^ 48 + waitCount o false * 2 ^ 40 + b2n o.err * 2 ^ 32 + o.value.toNat)

/-- The second word of an entry. -/
def headWord (o : SyncObj) : Word :=
  match o.waiters with
  | [] => 0xFFFF
  | w :: _ => wd (b2n w.take * 2 ^ 48 + w.arg.toNat * 2 ^ 16 + w.queue % 2 ^ 16)

/-- The header of a quadrant's table. -/
def dumpHeader (s : State) (q : Nat) : List Word :=
  [wd (q * 2 ^ 32 + 0x3FFF0002), wd s.devId.toNat, rget s (safeOff 8), 0, 0, 0, 0, 0]

/-- The writes of s.dump, the header first. -/
def dumpWrites (s : State) (q : Nat) (va : Word) : List (Nat × List Wr) :=
  (0, [.put va 64 (ofWords (dumpHeader s q))]) ::
  (List.range 16384).map (fun k =>
    let o := getObj s (16384 * q + k)
    (k + 1, [.put (va + wd (64 + 16 * k)) 16 (ofWords [objWord o, headWord o])]))

/-- S_DUMP (R382, R390). -/
def execSDump (x : Iss) (f : SyncForm) (s : State) : Host.Outcome State Fault Refusal :=
  .next (issue x (shortOnly x (syncClean f true) fun i s =>
    let t := getThread s i
    let va := getG t f.a
    if 2 ≤ t.ring.toNat then illegal s i
    else if va.toNat % 64 ≠ 0 then .trap s 0x05 va
    else
      match scatterAll (threadAgent s i) 16 (fun _ s => s)
          (dumpWrites s (field (getG t f.b) 0 2) va) s with
      | (s, some (_, .fault c info)) => .trap s c info
      | (s, some (_, .held n)) => holdThrough s i n
      | (s, _) => .done s) s)

/-! ### Fences (R371 to R373) -/

/-- Every earlier store of a thread has been performed at home. -/
def storesHome (s : State) (i : Nat) : Bool :=
  (s.banks ++ s.channels).all (fun e => (arbItems e.2).all (fun r => !isStoreBy i r))

/-- The request is the store of a number. -/
def isStoreNo (n : Nat) (r : Req) : Bool :=
  match r.kind with
  | .store _ _ _ => decide (r.wid = n)
  | _ => false

/-- The write of a number has not been performed: it is on its way to its home, or its invalidations are
not all acknowledged (R367). -/
def writeOut (s : State) (n : Nat) : Bool :=
  s.writes.any (fun w => decide (w.id = n)) ||
    (s.banks ++ s.channels).any (fun e => (arbItems e.2).any (isStoreNo n))

/-- Every store of a thread, and every write whose value it has loaded, is performed. -/
def storesPerformed (s : State) (i : Nat) : Bool :=
  s.writes.all (fun w => decide (queueOf i ∉ w.agents)) &&
    (getThread s i).seen.all (fun n => !writeOut s n)

/-- No descriptor that a thread posted is incomplete. -/
def postsDone (s : State) (i : Nat) : Bool :=
  s.queues.all (fun e => (e.2.descs ++ (begunFlights e.2).map (·.desc)).all
    (fun d => decide (d.poster ≠ some i)))

/-- A save of one of the thread's tiles or of its array is in progress (R372): a forced save, or one that a held
claim or free performs. -/
def saveUnderway (s : State) (i : Nat) : Bool :=
  let k := getCore s (i / 16)
  let mine (o : Option Nat) : Bool := decide (o = some (i % 16))
  (mine k.arr.owner && (k.arr.saving || k.arr.resv.isSome)) ||
    (List.range 8).any (fun t => mine (getTile k t).owner && (getTile k t).resv.isSome)

/-- The condition of a fence. -/
def fenceMet (s : State) (i : Nat) (k : FenceKind) : Bool :=
  let home := storesHome s i
  let dev := home && storesPerformed s i
  windowsClear s (queueOf i) && !saveUnderway s i && (match k with
    | .ld => true
    | .st => home
    | .all => home
    | .dev => dev
    | .sys => dev && (getThread s i).sigOut.isEmpty && postsDone s i)

/-- The error of remote signals that f.sys raises (R388). -/
def sysError (s : State) (i : Nat) (k : FenceKind) : Option (BitVec 8 × BitVec 16) :=
  if k = .sys then (getThread s i).sigErr else none

/-- Writes of a thread's loads that have been performed are forgotten. -/
def forgetSeen (s : State) (i : Nat) : State :=
  modThread s i (fun t => { t with seen := t.seen.filter (writeOut s) })

/-- The body of a fence: it waits for the thread's pass, sends its combining-window entries, and
completes or holds the thread. -/
def fenceBody (k : FenceKind) (i : Nat) (s : State) : Body :=
  match passGate s i anyPass with
  | (_, some b) => b
  | (s, none) =>
    let s := flushAgent s (queueOf i)
    if fenceMet s i k then
      match sysError s i k with
      | some e => .trap (modThread s i (fun t => { t with sigErr := none })) e.1 (wd e.2.toNat)
      | none => .done (forgetSeen s i)
    else .again (modThread s i (fun t => { t with hold := .fence k }))

/-- A fence: major 0x30 with d, a and b 0. -/
def fence (x : Iss) (f : SyncForm) (k : FenceKind) (s : State) : State :=
  issue x (shortOnly x (syncClean f true && decide (f.a = 0 ∧ f.b = 0)) (fenceBody k)) s

def execFLd (x : Iss) (f : SyncForm) (s : State) : Host.Outcome State Fault Refusal :=
  .next (fence x f .ld s)
def execFSt (x : Iss) (f : SyncForm) (s : State) : Host.Outcome State Fault Refusal :=
  .next (fence x f .st s)
def execFAll (x : Iss) (f : SyncForm) (s : State) : Host.Outcome State Fault Refusal :=
  .next (fence x f .all s)
def execFDev (x : Iss) (f : SyncForm) (s : State) : Host.Outcome State Fault Refusal :=
  .next (fence x f .dev s)
def execFSys (x : Iss) (f : SyncForm) (s : State) : Host.Outcome State Fault Refusal :=
  .next (fence x f .sys s)

/-- FENCE_COMPLETE (R371, R388): the awaited items have completed. -/
def execFenceComplete (t : Thr) (s : State) : Host.Outcome State Fault Refusal :=
  let i := thrIx t
  let th := getThread s i
  match th.mode, th.hold with
  | .run, .fence k =>
    if coreIssues s (i / 16) && fenceMet s i k then
      match sysError s i k with
      | some e =>
        let s := modThread s i (fun t => { t with sigErr := none })
        .next (takeSync s i e.1 (wd e.2.toNat))
      | none => .next (threadDone (forgetSeen s i) i 4)
    else .next s
  | _, _ => .next s

/-! ### SYNC_HOST_OP (R378, R389) -/

/-- Who a sender is to a home. -/
def senderSync : Sender → SyncBy
  | .host => .host
  | .debug => .debug
  | .thread t => .regs t
  | .board => .unit

/-- A write of SYNC_HOST_OP. -/
def hostOp (s : State) (src : Sender) (q op index : Nat) (v : BitVec 32) : State :=
  let go (k : SyncKind) : State :=
    sendSync s { seq := 0, kind := k, src := senderSync src, obj := BitVec.ofNat 16 (16384 * q + index), arg := v }
  if op = 1 then go .sig else if op = 2 then go .set else s

def execSyncHostOpSig (src : Sender) (q : BitVec 2) (index : BitVec 14) (val : BitVec 32) (s : State) :
    Host.Outcome State Fault Refusal :=
  .next (if mayWrite s src 1 then hostOp s src q.toNat 1 index.toNat val else s)

def execSyncHostOpSet (src : Sender) (q : BitVec 2) (index : BitVec 14) (val : BitVec 32) (s : State) :
    Host.Outcome State Fault Refusal :=
  .next (if mayWrite s src 1 then hostOp s src q.toNat 2 index.toNat val else s)

/-! ### The deadlock detector (R391, R392) -/

/-- A thread is idle, or stalled for 2^20 cycles. -/
def threadQuiet (t : Thread) : Bool :=
  match t.mode with
  | .run => false
  | .wait => decide (2 ^ 20 ≤ t.stalled)
  | _ => true

/-- The head of a queue is a CONTRIB. -/
def headContrib (q : TeQueue) : Bool := q.descs.head?.any (fun d => decide (descKind d = 7))

/-- An engine queue is empty, or stalled for 2^20 cycles, and no descriptor of it executes. A CONTRIB that waits
for its slot, for its blocks or for other contributions neither executes nor keeps its queue from being quiet:
a pot that moves is seen by its contributions (R438; DEDUCED, log entry 150). -/
def queueQuiet (q : TeQueue) : Bool :=
  (begunFlights q).all (·.pot) && (headContrib q || q.descs.isEmpty || (q.waiting && decide (2 ^ 20 ≤ q.stalled)))

def isSignal (p : Packet) : Bool :=
  match p.type with
  | .sig => true
  | .sigAck => true
  | _ => false

/-- A signal packet is in flight on a port, or between a sender and its home. -/
def signalsFly (s : State) : Bool :=
  s.ports.any (fun e => e.2.rx.any (fun r => r.2.any isSignal) ||
    e.2.egress.waiting.any (fun w => isSignal w.item.pkt) ||
    e.2.txHeld.any (fun g => g.packets.any (fun x => isSignal x.2)) ||
    (heldPackets e.2).any isSignal) ||
  s.syncQ.any (fun e => !e.2.isEmpty) || !s.releases.isEmpty

/-- The conditions of R391. -/
def deadlocked (s : State) : Bool :=
  s.threads.all (fun e => threadQuiet e.2) && s.queues.all (fun e => queueQuiet e.2) &&
    (s.threads.any (fun e => decide (e.2.mode = .wait)) || s.queues.any (fun e => e.2.waiting)) &&
    !signalsFly s && s.dealer.pubs.isEmpty && s.dealer.out.isEmpty && s.potQuiet.isEmpty

/-- The object a queue waits on. -/
def waitsOn (s : State) (n : Nat) : Option (Nat × Waiter) :=
  s.sync.findSome? (fun e => (e.2.waiters.find? (fun w => decide (w.queue = n))).map (fun w => (e.1, w)))

/-- The record of a queue. -/
def queueRecord (s : State) (n : Nat) : List Word :=
  match waitsOn s n with
  | none => [0, 0]
  | some (obj, w) =>
    let cycles := if n < 2080 then (getThread s (threadOfQueue n)).stalled
                  else (getQueue s (n - 2080)).stalled
    [wd cycles, wd (obj * 2 ^ 48 + w.arg.toNat * 2 ^ 16 + b2n w.take * 2 ^ 15 + 2 ^ 14)]

/-- The words of the snapshot: the four object tables, then the records of the 2,336 queues. -/
def snapshotWords (s : State) : List Word :=
  ((List.range 4).flatMap (fun q => dumpHeader s q ++
    (List.range 16384).flatMap (fun k =>
      [objWord (getObj s (16384 * q + k)), headWord (getObj s (16384 * q + k))]))) ++
  (List.range 2336).flatMap (queueRecord s)

/-- A unit of the device as the maker of accesses, with its requester class (R293). -/
def unitAgent (cls : Nat) : Agent :=
  { who := otherAgent, core := none, thr := none, aspace := 0, ring := 0, cls := cls, age := if cls = 7 then 3 else 1 }

/-- Write whole lines from an address up; a line in a lost set is left out. -/
def writeRun (a : Agent) : Nat → Nat → List Word → State → State
  | 0, _, _, s => s
  | n + 1, pa, ws, s =>
    writeRun a n (pa + 128) (ws.drop 16) (writePa s a pa 128 (ofWords (ws.take 16))).1

/-- Declare a deadlock. -/
def declare (s : State) : State :=
  let w := rget s (syncOff 0 0x108)
  let ctl := rget s (syncOff 0 0x100)
  let s := if w.toNat + 1086208 ≤ 0x8000000000
    then writeRun (unitAgent 7) 8486 w.toNat (snapshotWords s) s
    else rsetField s (syncOff 0 0x100) 61 1 1
  let s := hostEvent (rsetField s (syncOff 0 0x100) 62 1 1) 18
  let s := raddSat s (syncOff 0 0x110) 0 32 1
  raiseLatched { s with deadArmed := false }
    (targetThread (field ctl 11 2) (field ctl 8 1) (field ctl 0 2)) 0x63 w

/-- DEADLOCK_DECLARE (R391, R392). -/
def execDeadlockDeclare (s : State) : Host.Outcome State Fault Refusal :=
  let ctl := rget s (syncOff 0 0x100)
  .next (if bit ctl 63 && !bit ctl 62 && s.deadArmed && deadlocked s then declare s else s)

end Sys2Proof.Machine
end

