-- ==== Sys2Proof/Machine/Transfer.lean ====
section
/-! DEFINITION. The transfer engines (R415 to R427, R271 to R274, R553): d.post and d.query, the start
of a descriptor with the element moves of each kind, its completion, and the queue controls. -/

namespace Sys2Proof.Machine

open Sys2Proof

/-! ### d.post and d.query (R416, R417) -/

/-- Status of an append: 3 ring, 2 OFF or HALTED, 1 full, 0 appended, in this order where several hold
(log entry 46). -/
def postStatus (s : State) (i n : Nat) : Nat :=
  if queueRing s n < (getThread s i).ring.toNat then 3
  else if queueState s n = 0 ∨ queueState s n = 3 then 2
  else if queueFree s n = 0 then 1 else 0

/-- Append a descriptor to a queue. -/
def postDesc (s : State) (i n : Nat) (va : Word) (v : Nat) : State :=
  let ws := (List.range 8).map (fun k => wd (v / 2 ^ (64 * k)))
  let q := getQueue s n
  setQueue s n { q with descs := q.descs ++ [{ words := ws, addr := va, poster := some i }] }

/-- D_POST (R416). -/
def execDPost (x : Iss) (f : SyncForm) (s : State) : Host.Outcome State Fault Refusal :=
  .next (issue x (shortOnly x (decide (f.rsv = 0)) (l1Open fun i s =>
    let t := getThread s i
    let va := getG t f.a
    let n := field (getG t f.b) 0 8
    let a := threadAgent s i
    if va.toNat % 64 ≠ 0 then .trap s 0x05 va else
    match gather x i a 64 [(va, 64)] s with
    | (s, .fault c info) => .trap s c info
    | (s, .miss ls) => .again (waitLines s i a.cls 1 1 ls [])
    | (s, .vals vs) =>
      let st := postStatus s i n
      let s := if st = 0 then postDesc s i n va (vs.headD 0) else s
      .done (writeG s i f.d (wd st)))) s)

/-- D_QUERY (R417). -/
def execDQuery (x : Iss) (f : SyncForm) (s : State) : Host.Outcome State Fault Refusal :=
  .next (issue x (shortOnly x (decide (f.rsv = 0 ∧ f.a = 0)) fun i s =>
    let n := field (getG (getThread s i) f.b) 0 8
    let off := decide (queueState s n = 0 ∨ queueState s n = 3)
    .done (writeG s i f.d (wd (b2n off * 2 ^ 63 + queueFree s n)))) s)

/-! ### Elements on the way -/

/-- Where an element's value comes from: an access, by address, bytes and, for a 4-bit element, the
half of its byte; or a value. -/
abbrev MoveSrc := (Word × Nat × Option Bool) ⊕ Nat

/-- One element: its source, and its writes, each with whether it takes the source's value. -/
abbrev Move := MoveSrc × List (Wr × Bool)

/-- Moves whose accesses are checked together, and the elements among them dropped as out of
bounds. -/
abbrev Batch := List Move × Nat

/-- An element of a tensor as a source (R258). -/
def tensorSrc (ws : List Word) (c : List Nat) : MoveSrc :=
  let e := elemOffset ws c
  if elemClass ws c = 0 then
    .inl (elemAddr ws e, fmtBytes (dFmt ws), if is4 (dFmt ws) then some (decide (e % 2 ≠ 0)) else none)
  else .inr (fillCode ws)

/-- An element of a tensor as a destination (R259). -/
def tensorDst (ws : List Word) (c : List Nat) : List (Wr × Bool) :=
  (elemWrite ws c 0).map (fun w => (w, decide (elemClass ws c = 0)))

/-- Scale of the block of an element, as a source and as a destination (R266, R553). -/
def scaleSrc (ws : List Word) (c : List Nat) : MoveSrc :=
  if elemClass ws c = 0 then .inl (scaleAddr ws (elemOffset ws c), 1, none) else .inr 0x7F

def scaleDst (ws : List Word) (c : List Nat) : List (Wr × Bool) :=
  if elemClass ws c = 0 then [(.put (scaleAddr ws (elemOffset ws c)) 1 0, true)] else []

/-- The element is dropped as out of bounds. -/
def isDropped (ws : List Word) (c : List Nat) : Bool := decide (elemClass ws c = 2)

/-- Element k of a plain buffer. -/
def plainSrc (base : Word) (f k : Nat) : MoveSrc :=
  if is4 f then .inl (base + wd (k / 2), 1, some (decide (k % 2 = 1)))
  else .inl (base + wd (k * fmtBytes f), fmtBytes f, none)

def plainDst (base : Word) (f k : Nat) : List (Wr × Bool) :=
  if is4 f then [(.nib (base + wd (k / 2)) (decide (k % 2 = 1)) 0, true)]
  else [(.put (base + wd (k * fmtBytes f)) (fmtBytes f) 0, true)]

/-- Address of the scale of the block of element k of a plain G4 buffer of n elements (R553). -/
def plainScale (base : Word) (n k : Nat) : Word := base + wd (n / 2 + k / 32)

/-- The coordinates of element j of the item that index x selects (R271). An index out of range stands for the
first top coordinate beyond the padded extent, so that each of its elements is out of bounds (R272). -/
def itemCoord (ws : List Word) (x : Int) (j : Nat) : List Nat :=
  let top := dNdim ws - 1
  let at' := if 0 ≤ x ∧ x < (dExt ws top : Int) then x.toNat else dPext ws top
  (coordsFrom ws top 0 j).dropLast ++ [at']

/-- Elements of an item: the product of the padded extents below the top dimension. -/
def itemSize (ws : List Word) : Nat :=
  (List.range (dNdim ws - 1)).foldl (fun a k => a * dPext ws k) 1

/-- One side of a transfer of elements: a tensor in position order; the item of a tensor that an index
selects, whose first element is element `base` of the transfer; or a plain address. -/
inductive Side where
  | tensor (ws : List Word)
  | item (ws : List Word) (x : Int) (base : Nat)
  | plain (va : Word)
  deriving DecidableEq, Repr

/-- The tensor of a side and the coordinates of element k. -/
def Side.coord : Side → Nat → Option (List Word × List Nat)
  | .tensor ws, k => some (ws, posCoords ws k)
  | .item ws x base, k => some (ws, itemCoord ws x (k - base))
  | .plain _, _ => none

/-- The address of a plain side. -/
def Side.addr : Side → Word
  | .plain va => va
  | _ => 0

def sideSrc (x : Side) (f k : Nat) : MoveSrc :=
  match x.coord k with
  | some c => tensorSrc c.1 c.2
  | none => plainSrc x.addr f k

def sideDst (x : Side) (f k : Nat) : List (Wr × Bool) :=
  match x.coord k with
  | some c => tensorDst c.1 c.2
  | none => plainDst x.addr f k

def sideDrop (x : Side) (k : Nat) : Nat :=
  match x.coord k with
  | some c => b2n (isDropped c.1 c.2)
  | none => 0

/-- The move of the scale of the block that starts at element k, of n elements in all. -/
def scaleMove (src dst : Side) (n k : Nat) : Move :=
  (match src.coord k with
   | some c => scaleSrc c.1 c.2
   | none => .inl (plainScale src.addr n k, 1, none),
   match dst.coord k with
   | some c => scaleDst c.1 c.2
   | none => [(.put (plainScale dst.addr n k) 1 0, true)])

/-- Elements of a batch: one, or a whole block of a G4 tensor (R553). -/
def batchSize (f : Nat) : Nat := if f = 6 then 32 else 1

/-- Batch k of n elements of format f: one element, or a block of 32 with its scale last (R553). -/
def elemBatch (src dst : Side) (f n k : Nat) : Batch :=
  let mv (j : Nat) : Move := (sideSrc src f j, sideDst dst f j)
  let js := (List.range (batchSize f)).map (batchSize f * k + ·)
  (js.map mv ++ (if f = 6 then [scaleMove src dst n (32 * k)] else []), (js.map (sideDrop dst)).sum)

/-- Batch k of a copy of n bytes: the part that lies in line k of the source. -/
def byteBatch (n k : Nat) (src dst : Word) : Batch :=
  let o := 128 * k - src.toNat % 128
  let e := min n (128 * (k + 1) - src.toNat % 128)
  let at' (va : Word) : Word := va + wd o
  ([(.inl (at' src, e - o, none), [(.put (at' dst) (e - o) 0, true)])], 0)

/-- Lines of the source of a copy of n bytes. -/
def byteLines (n : Nat) (src : Word) : Nat := if n = 0 then 0 else (src.toNat % 128 + n + 127) / 128

/-- n elements of a side cover whole blocks (R553). -/
def wholeBlocks (x : Side) (n : Nat) : Bool :=
  decide (n % 32 = 0) && (List.range n).all (fun k =>
    match x.coord k with
    | some c => decide (c.2.headD 0 % 32 = k % 32)
    | none => true)

/-! ### The start of a descriptor (R252, R422, R425) -/

/-- Open a tensor descriptor for an engine: the abort reason and address of a failure (R426). -/
def engDesc (a : Agent) (s : State) (d : Desc) (addr : Word) (accepts : Nat → Bool) :
    State × (List Word ⊕ (Nat × Word)) :=
  match openDesc a s addr accepts with
  | (s, .inl ws) => (s, .inl ws)
  | (s, .inr e) => (s, .inr (if e.1 = 0x0E then (1, d.addr) else (reasonOf e.1, e.2)))

/-- Open the tensor descriptors at addresses in order; no words stand for an address that is not taken. -/
def openAll (a : Agent) (d : Desc) : List (Option (Word × (Nat → Bool))) → State →
    State × (List (List Word) ⊕ (Nat × Word))
  | [], s => (s, .inl [])
  | none :: t, s =>
    match openAll a d t s with
    | (s, .inl l) => (s, .inl ([] :: l))
    | r => r
  | some x :: t, s =>
    match engDesc a s d x.1 x.2 with
    | (s, .inr e) => (s, .inr e)
    | (s, .inl ws) =>
      match openAll a d t s with
      | (s, .inl l) => (s, .inl (ws :: l))
      | r => r

/-- A descriptor of indexes: GATHER or SCATTER. -/
def byIndex (d : Desc) : Bool := decide (descKind d = 4 ∨ descKind d = 5)

/-- The tensor descriptors of a descriptor: source, destination, indexes. -/
def tensorsOf (d : Desc) : List (Option (Word × (Nat → Bool))) :=
  let any : Nat → Bool := fun _ => true
  let one (t : Bool) (k : Nat) (p : Nat → Bool) : Option (Word × (Nat → Bool)) :=
    if t then some (descWord d k, p) else none
  [one (descKind d = 4 || (!byIndex d && descSD d)) 2 any,
   one (descKind d = 5 || (!byIndex d && descDD d)) 3 any,
   one (byIndex d) 4 (fun f => decide (f = 3 ∨ f = 4))]

/-- Kinds that move data. -/
def moves (d : Desc) : Bool := decide (1 ≤ descKind d ∧ descKind d ≤ 5)

/-- The address of a tensor descriptor is not a multiple of 64: nothing is read (R252). -/
def tensorsAligned (d : Desc) : Bool := (tensorsOf d).all (fun o => o.all (fun x => decide (x.1.toNat % 64 = 0)))

/-- A side as the descriptor names it. -/
def sideOf (ws : List Word) (va : Word) : Side := if ws = [] then .plain va else .tensor ws

/-- The data tensor of a descriptor of indexes. -/
def dataWords (r : DescRun) : List Word := r.src ++ r.dst

/-- The sides of a descriptor once its item's index is known. -/
def sidesOf (d : Desc) (r : DescRun) : Side × Side :=
  let x := (r.item.map Prod.snd).getD 0
  let base (ws : List Word) : Nat := r.pos * batchSize (dFmt ws) / itemSize ws * itemSize ws
  match descKind d with
  | 4 => (.item r.src x (base r.src), .plain (descWord d 3))
  | 5 => (.plain (descWord d 2), .item r.dst x (base r.dst))
  | _ => (sideOf r.src (descWord d 2), sideOf r.dst (descWord d 3))

/-- The format of the elements; none for a copy of bytes. -/
def runFmt (r : DescRun) : Option Nat :=
  if r.src ≠ [] then some (dFmt r.src) else if r.dst ≠ [] then some (dFmt r.dst) else none

/-- The elements of a descriptor in all. -/
def runElems (d : Desc) (r : DescRun) : Nat :=
  if byIndex d then descLen d * itemSize (dataWords r) else descLen d

/-- Both tensors have one format, a G4 transfer covers whole blocks, and a G4 item has a dimension of its own
(R419, R553). -/
def runGood (d : Desc) (r : DescRun) : Bool :=
  let n := runElems d r
  let x := sidesOf d r
  (decide (r.src = [] ∨ r.dst = []) || decide (dFmt r.src = dFmt r.dst)) &&
  (decide (runFmt r ≠ some 6) ||
    (if byIndex d then
      decide (2 ≤ dNdim (dataWords r)) &&
        (decide (n = 0) ||
          (wholeBlocks x.1 (itemSize (dataWords r)) && wholeBlocks x.2 (itemSize (dataWords r))))
    else wholeBlocks x.1 n && wholeBlocks x.2 n))

/-- The batches of a descriptor in all. -/
def runTotal (d : Desc) (r : DescRun) : Nat :=
  if !moves d then 0 else
  match runFmt r with
  | some f => runElems d r / batchSize f
  | none => byteLines (descLen d) (descWord d 2)

/-- Batches of an item; a descriptor without indexes is one item. -/
def itemBatches (d : Desc) (r : DescRun) : Nat :=
  if byIndex d then max 1 (itemSize (dataWords r) / batchSize ((runFmt r).getD 0)) else runTotal d r

/-- Batch k of a descriptor. -/
def runBatch (d : Desc) (r : DescRun) (k : Nat) : Batch :=
  let x := sidesOf d r
  match runFmt r with
  | some f => elemBatch x.1 x.2 f (runElems d r) k
  | none => byteBatch (descLen d) k (descWord d 2) (descWord d 3)

/-- The line that a batch reads, or writes where it reads none. -/
def batchLine (b : Batch) : Option Nat :=
  let read (m : Move) : Option Nat := match m.1 with
    | .inl x => if m.2.any (·.2) then some (x.1.toNat / 128) else none
    | .inr _ => none
  (b.1.findSome? read).orElse (fun _ => b.1.findSome? (fun m => m.2.head?.map (fun w => w.1.addr.toNat / 128)))

/-- The batches of one line from batch k on, within its item (R420). -/
def lineBatches (d : Desc) (r : DescRun) : Nat → Nat → Option Nat → List Batch
  | 0, _, _ => []
  | fuel + 1, k, line =>
    let b := runBatch d r k
    let l := batchLine b
    if line.isSome && l.isSome && decide (line ≠ l) then []
    else b :: lineBatches d r fuel (k + 1) (line.orElse (fun _ => l))

/-- The batches of one turn. -/
def turnBatches (d : Desc) (r : DescRun) : List Batch :=
  let m := itemBatches d r
  lineBatches d r (min (runTotal d r - r.pos) (m - r.pos % m)) r.pos none

/-! ### Local moves -/

/-- Value of a source once its bytes are known. -/
def srcVal (half : Option Bool) (v : Nat) : Nat :=
  match half with
  | none => v
  | some high => if high then v / 16 % 16 else v % 16

/-- The writes of a move for a value. -/
def moveWrites (m : Move) (v : Nat) : List Wr :=
  m.2.map (fun w => if w.2 then w.1.withVal v else w.1)

/-- A move needs its source: some write takes its value. -/
def needsSrc (m : Move) : Bool := m.2.any (·.2)

/-- Read the sources of moves and answer their writes in order. A source that no write takes is not
read. -/
def readMoves (a : Agent) : List Move → State → State × (List Wr ⊕ (BitVec 8 × Word))
  | [], s => (s, .inl [])
  | m :: t, s =>
    let r : State × (Nat ⊕ (BitVec 8 × Word)) := match m.1 with
      | .inr v => (s, .inl v)
      | .inl x =>
        if !needsSrc m then (s, .inl 0) else
        match readSpan a x.2.1 x.2.1 s x.1 with
        | (s, .inl v) => (s, .inl (srcVal x.2.2 v))
        | (s, .inr e) => (s, .inr e)
    match r with
    | (s, .inr e) => (s, .inr e)
    | (s, .inl v) =>
      match readMoves a t s with
      | (s, .inr e) => (s, .inr e)
      | (s, .inl ws) => (s, .inl (moveWrites m v ++ ws))

/-- Add to TE_Q_OOB. -/
def addQueueOob (s : State) (n k : Nat) : State := raddSat s (teOff n 0x20) 0 64 k

/-- Move batches whose both ends are local. -/
def runLocal (a : Agent) (n : Nat) : List Batch → State → State × Put
  | [], s => (s, .ok)
  | b :: t, s =>
    match readMoves a b.1 s with
    | (s, .inr e) => (s, .fault e.1 e.2)
    | (s, .inl ws) =>
      match engWrite a ws s with
      | (s, .ok) => runLocal a n t (addQueueOob s n b.2)
      | r => r

/-! ### Writes at another device -/

/-- Bytes to be written at another device: accumulate operation and format, 0 for a plain write;
address; bytes. -/
abbrev OutRun := Nat × Nat × Word × List Byte

/-- Read the sources of batches until one fails, and answer the writes gathered. -/
def readBatches (a : Agent) (n : Nat) : List Batch → State → State × List Wr × Option (BitVec 8 × Word)
  | [], s => (s, [], none)
  | b :: t, s =>
    match readMoves a b.1 s with
    | (s, .inr e) => (s, [], some e)
    | (s, .inl ws) =>
      let r := readBatches a n t (addQueueOob s n b.2)
      (r.1, ws ++ r.2.1, r.2.2)

/-- Two 4-bit writes of one byte become a write of the byte. -/
def pairNibs : List Wr → List Wr
  | .nib va false v :: .nib vb true w :: t =>
    if va = vb then .put va 1 (v % 16 + 16 * (w % 16)) :: pairNibs t
    else .nib va false v :: pairNibs (.nib vb true w :: t)
  | w :: t => w :: pairNibs t
  | [] => []
termination_by structural l => l

/-- A write as it travels. A 4-bit element without its neighbour travels as a PUT of one byte with FMT = I4
and, in VALUE, 1 for the low and 2 for the high half (DESIGN CHOICE, log entry 71). -/
def outRun : Wr → OutRun
  | .put va n v => (0, 0, va, bytesOf n v)
  | .nib va h v => (0, if h then 0x25 else 0x15, va, bytesOf 1 (v % 16))
  | .acc va op f v => (op, f, va, bytesOf (fmtBytes f) v)

/-- Join runs that follow each other into packets of at most 4,096 bytes. -/
def joinRuns : List OutRun → List OutRun
  | [] => []
  | r :: t =>
    match joinRuns t with
    | [] => [r]
    | x :: u =>
      if r.1 = x.1 ∧ r.2.1 = x.2.1 ∧ r.2.1 < 16 ∧ r.2.2.1 + wd r.2.2.2.length = x.2.2.1 ∧
          r.2.2.2.length + x.2.2.2.length ≤ 4096
      then (r.1, r.2.1, r.2.2.1, r.2.2.2 ++ x.2.2.2) :: u else r :: x :: u

/-- A packet of queue n. -/
def queuePacket (s : State) (n : Nat) (type : PktType) (dev : BitVec 20) (va : Word) (len : Nat) : Packet :=
  { packetTo s type dev n s.nextTag with
    addr := va.truncate 48, len := BitVec.ofNat 16 len }

/-- Send a packet of queue n under a new tag. -/
def sendQueue (s : State) (n : Nat) (p : Packet) : State × Option Nat :=
  emitPacket { s with nextTag := s.nextTag + 1 } (n / 16 % 4) (queueAgent n) none p

/-- Send the runs: the tags awaited and the ports they left by; whether each found one. -/
def sendOut (n : Nat) (dev : BitVec 20) : List OutRun → State → State × List (BitVec 32 × Nat) × Bool
  | [], s => (s, [], true)
  | r :: t, s =>
    let tag := s.nextTag
    let p := queuePacket s n (if r.1 = 0 then .put else .putAcc) dev r.2.2.1 r.2.2.2.length
    let p := { p with acc := BitVec.ofNat 4 r.1, fmt := BitVec.ofNat 4 r.2.1, value := BitVec.ofNat 32 (r.2.1 / 16)
                      data := r.2.2.2 }
    match sendQueue s n p with
    | (s, none) => (s, [], false)
    | (s, some port) =>
      let x := sendOut n dev t s
      (x.1, (tag, port) :: x.2.1, x.2.2)

/-! ### Reads at another device -/

/-- A request to another device: address, bytes, and where its parts go: half-byte, G4 block and write. -/
abbrev InReq := Word × Nat × List (Nat × Option Nat × Wr)

/-- Add a read to the requests, the newest first. It extends the newest where it follows it, or is the high
half of a byte whose low half came last; an element that occurs again is read again (R273). -/
def addRead (rs : List InReq) (x : Word × Nat × Option Bool) (block : Option Nat) (ws : List Wr) : List InReq :=
  let half := match x.2.2 with
    | some true => 1
    | _ => 0
  let fresh : InReq := (x.1, x.2.1, ws.map (fun w => (half, block, w)))
  match rs with
  | [] => [fresh]
  | r :: t =>
    let o := (x.1 - r.1).toNat
    let size := o + x.2.1
    let second := decide (half = 1 ∧ size = r.2.1) &&
      (r.2.2.getLast?.map Prod.fst == some (2 * o))
    if (decide (o = r.2.1) || second) && decide (size ≤ 4096)
    then (r.1, size, r.2.2 ++ ws.map (fun w => (2 * o + half, block, w))) :: t else fresh :: rs

/-- The requests of moves, each with the G4 block it belongs to, and the writes that need no data. -/
def planReads (ms : List (Option Nat × Move)) : List InReq × List Wr :=
  let r := ms.foldl (fun (acc : List InReq × List Wr) m =>
    let taking := (m.2.2.filter (·.2)).map Prod.fst
    let rest := (m.2.2.filter (fun w => !w.2)).map Prod.fst
    match m.2.1 with
    | .inr v => (acc.1, acc.2 ++ moveWrites m.2 v)
    | .inl x => (if taking.isEmpty then acc.1 else addRead acc.1 x m.1 taking, acc.2 ++ rest)) ([], [])
  (r.1.reverse, r.2)

/-- Send the requests: the tags awaited, the places of the data, and whether each found a port. -/
def sendReads (n : Nat) (dev : BitVec 20) : List InReq → State →
    State × List (BitVec 32 × Nat) × List Place × Bool
  | [], s => (s, [], [], true)
  | r :: t, s =>
    let tag := s.nextTag
    match sendQueue s n (queuePacket s n .getReq dev r.1 r.2.1) with
    | (s, none) => (s, [], [], false)
    | (s, some port) =>
      let x := sendReads n dev t s
      (x.1, (tag, port) :: x.2.1,
       r.2.2.map (fun p => { tag := tag, half := p.1, block := p.2.1, wr := p.2.2 }) ++ x.2.2.1, x.2.2.2)

/-! ### DESC_START (R420, R422) -/

/-- Every local write of batches, with value 0 where it takes one. -/
def allWrites (bs : List Batch) : List Wr := bs.flatMap (fun b => b.1.flatMap (fun m => m.2.map Prod.fst))

/-- One end of the descriptor lies on another device. -/
def descRemote (s : State) (d : Desc) : Bool :=
  decide (2 ≤ descKind d ∧ descKind d ≤ 5 ∧ descDev d ≠ s.devId)

/-- Change the descriptor that moves its lines. -/
def modRun (s : State) (n : Nat) (f : DescRun → DescRun) : State :=
  let q := getQueue s n
  setQueue s n { q with run := q.run.map f }

/-- The descriptor that moves its lines fails. -/
def failRun (s : State) (n : Nat) (r : DescRun) (reason : Nat) (addr : Word) : State :=
  abortFlight s n r.flight reason addr

/-- Some batches have been moved; with the last the descriptor leaves the head (R420). -/
def advanceRun (s : State) (n k : Nat) : State :=
  let q := getQueue s n
  match q.run with
  | none => s
  | some r =>
    let r := { r with pos := r.pos + k }
    if runTotal r.flight.desc r ≤ r.pos then setQueue s n { q with run := none, flight := q.flight ++ [r.flight] }
    else setQueue s n { q with run := some r }

/-- Batches that the descriptor awaits answers for. -/
def awaitRun (s : State) (n : Nat) (awaits : List (BitVec 32 × Nat)) (places : List Place) : State :=
  modRun s n (fun r => { r with flight := { r.flight with
    awaits := r.flight.awaits ++ awaits, places := r.flight.places ++ places } })

/-- Move batches whose ends are both local. -/
def turnLocal (s : State) (n : Nat) (r : DescRun) (bs : List Batch) : State :=
  let a := engAgent s n
  match wouldHold a (allWrites bs) s with
  | some need => holdWrite s none need
  | none =>
    match runLocal a n bs s with
    | (s, .ok) => advanceRun s n bs.length
    | (s, .held need) => holdWrite s none need
    | (s, .fault c info) => failRun s n r (reasonOf c) info

/-- Move batches to another device. -/
def turnPut (s : State) (n : Nat) (r : DescRun) (bs : List Batch) : State :=
  let d := r.flight.desc
  let x := readBatches (engAgent s n) n bs s
  let y := sendOut n (descDev d) (joinRuns ((pairNibs x.2.1).map outRun)) x.1
  let s := awaitRun y.1 n y.2.1 []
  match x.2.2 with
  | some e => failRun s n r (reasonOf e.1) e.2
  | none => if y.2.2 then advanceRun s n bs.length else failRun s n r 8 d.addr

/-- The moves of batches, each with the G4 block it belongs to. -/
def blockMoves (g4 : Bool) (pos : Nat) (bs : List Batch) : List (Option Nat × Move) :=
  ((List.range bs.length).zip bs).flatMap (fun x =>
    x.2.1.map (fun m => (if g4 then some (pos + x.1) else none, m)))

/-- Ask another device for the data of batches. -/
def turnGet (s : State) (n : Nat) (r : DescRun) (bs : List Batch) : State :=
  let a := engAgent s n
  let d := r.flight.desc
  match wouldHold a (allWrites bs) s with
  | some need => holdWrite s none need
  | none =>
    let x := planReads (blockMoves (decide (runFmt r = some 6)) r.pos bs)
    let s := addQueueOob s n (bs.map Prod.snd).sum
    match engWrite a x.2 s with
    | (s, .held need) => holdWrite s none need
    | (s, .fault c info) => failRun s n r (reasonOf c) info
    | (s, .ok) =>
      let y := sendReads n (descDev d) x.1 s
      let s := awaitRun y.1 n y.2.1 y.2.2.1
      if y.2.2.2 then advanceRun s n bs.length else failRun s n r 8 d.addr

/-- Read the index of the item that a descriptor comes to, as execution proceeds (R271, R422). -/
def enterItem (s : State) (n : Nat) (r : DescRun) : State × (DescRun ⊕ (Nat × Word)) :=
  let d := r.flight.desc
  let m := itemBatches d r
  let k := r.pos / m
  if !byIndex d || r.item.any (fun x => decide (x.1 = k)) then (s, .inl r) else
  let v : State × (Nat ⊕ (BitVec 8 × Word)) := match tensorSrc r.idx (posCoords r.idx k) with
    | .inr v => (s, .inl v)
    | .inl x => readSpan (engAgent s n) x.2.1 x.2.1 s x.1
  match v with
  | (s, .inr e) => (s, .inr (reasonOf e.1, e.2))
  | (s, .inl v) =>
    let r := { r with item := some (k, sext (fmtWidth (dFmt r.idx)) v) }
    (modRun s n (fun _ => r), .inl r)

/-- One line of the descriptor that stands at the head. -/
def runTurn (s : State) (n : Nat) : State :=
  match (getQueue s n).run with
  | none => s
  | some r =>
    if runTotal r.flight.desc r ≤ r.pos then advanceRun s n 0 else
    match enterItem s n r with
    | (s, .inr e) => failRun s n r e.1 e.2
    | (s, .inl r) =>
      let d := r.flight.desc
      let bs := turnBatches d r
      if !descRemote s d then turnLocal s n r bs
      else if descKind d = 2 ∨ descKind d = 5 then turnPut s n r bs else turnGet s n r bs

/-- A descriptor that begins, with its tensor descriptors. -/
def firstRun (id : Nat) (d : Desc) (ws : List (List Word)) : DescRun :=
  let at' (k : Nat) : List Word := (ws.drop k).headD []
  { flight := Flight.start id d, src := at' 0, dst := at' 1, idx := at' 2, pos := 0, item := none }

/-- The head of a queue begins to move its lines. -/
def beginRun (s : State) (n : Nat) (d : Desc) (ws : List (List Word)) : State :=
  let q := getQueue s n
  setQueue { s with nextFlight := s.nextFlight + 1 } n
    { q with descs := q.descs.drop 1, run := some (firstRun s.nextFlight d ws) }

/-- Start the descriptor at the head, and move its first line. -/
def startDesc (s : State) (n : Nat) (d : Desc) : State :=
  if !descGood n d || (moves d && !tensorsAligned d) then abortDesc s n d 1 d.addr
  else if descRemote s d && (routePorts s none (descDev d)).1.isEmpty then abortDesc s n d 8 d.addr
  else
    match openAll (engAgent s n) d (if moves d then tensorsOf d else []) s with
    | (s, .inr e) => abortDesc s n d e.1 e.2
    | (s, .inl ws) =>
      if moves d && !runGood d (firstRun 0 d ws) then abortDesc s n d 1 d.addr
      else runTurn (beginRun s n d ws) n

/-- The head of a queue has lines to move, or ends at once; CONTRIB, WAIT and TAKE have commands of their
own. -/
def moverHead (s : State) (n : Nat) : Option Desc :=
  (headStarts s n).bind (fun d => if 7 ≤ descKind d ∧ descKind d ≤ 9 then none else some d)

/-- A queue has a line to move. -/
def hasLine (s : State) (n : Nat) : Bool := (getQueue s n).run.isSome || (moverHead s n).isSome

/-- The queue whose head an engine serves next: the first in turn after the one served last (R420). -/
def nextQueue (s : State) (e : Nat) : Option Nat :=
  let last := tabGet (fun _ => 15) s.teTurn e
  ((List.range 16).map (fun k => 16 * e + (last + 1 + k) % 16)).find? (hasLine s)

/-- Start the head of a queue, or move the next line of the one that has begun. -/
def serveQueue (s : State) (n : Nat) : State :=
  match (getQueue s n).run with
  | some _ => runTurn s n
  | none =>
    match moverHead s n with
    | some d => startDesc s n d
    | none => s

/-- DESC_START (R420): kinds NOP, COPY, PUT, GET, GATHER, SCATTER and SIGNAL, and reserved kinds. One turn of
the engine: the head of the queue starts or goes on, one line at a time. -/
def execDescStart (n : BitVec 8) (s : State) : Host.Outcome State Fault Refusal :=
  let n := n.toNat
  .next (if nextQueue s (n / 16) = some n ∧ engineTested s n = false
    then serveQueue { s with teTurn := tabSet (fun _ => 15) s.teTurn (n / 16) (n % 16) } n else s)

/-! ### WAIT and TAKE (R421) -/

def startWait (s : State) (n kind : Nat) (k : SyncKind) : State :=
  match headStarts s n with
  | none => s
  | some d =>
    let obj : BitVec 16 := (descWord d 4).truncate 16
    if descKind d ≠ kind ∨ engineTested s n = true then s
    else if !descGood n d then abortDesc s n d 1 d.addr
    else if 2 ≤ queueRing s n ∧ inSyncRange s obj = false then abortDesc s n d 0x0A (wd obj.toNat)
    else
      let s := setQueue s n { getQueue s n with waiting := true, stalled := 0 }
      sendSync s { seq := 0, kind := k, src := .queue n, obj := obj
                   arg := BitVec.ofNat 32 (field (descWord d 4) 16 32) }

def execWait (n : BitVec 8) (s : State) : Host.Outcome State Fault Refusal :=
  .next (startWait s n.toNat 8 .wait)

def execTake (n : BitVec 8) (s : State) : Host.Outcome State Fault Refusal :=
  .next (startWait s n.toNat 9 .take)

/-! ### DESC_COMPLETE (R424) -/

/-- A descriptor in flight has issued everything and awaits nothing. -/
def flightDone (s : State) (n : Nat) (f : Flight) : Bool :=
  f.awaits.isEmpty && !f.pot && !f.signalled && agentDone s (queueAgent n)

/-- Send the completion signal, or end the descriptor. -/
def completeFlight (s : State) (n : Nat) (f : Flight) : State :=
  let d := f.desc
  if !descCen d then endFlight s n f.id
  else
    if descCdev d = s.devId then
      sendSync (modFlight s n f.id (fun f => { f with signalled := true }))
        { seq := 0, kind := .sig, src := .flight n f.id, obj := BitVec.ofNat 16 (descCobj d)
          arg := BitVec.ofNat 32 (descCval d) }
    else
      match emitPacket s (n / 16 % 4) (queueAgent n) none
          (sigFrom s (descCdev d) n (2 ^ 31 + f.id) (descCobj d) (descCval d) 0) with
      | (s, some p) => modFlight s n f.id (fun f => { f with signalled := true, sigPort := some p })
      | (s, none) => abortFlight s n f 8 d.addr

def execDescComplete (n : BitVec 8) (s : State) : Host.Outcome State Fault Refusal :=
  let n := n.toNat
  let s := flushAgent s (queueAgent n)
  .next (match (getQueue s n).flight.find? (flightDone s n) with
    | none => s
    | some f => completeFlight s n f)

/-! ### Queue controls (R427) -/

/-- Discard every descriptor that has not started. A WAIT or TAKE that stalls is withdrawn, unless its
release is on its way; a CONTRIB whose slot is active stays (DESIGN CHOICE). -/
def discardQueue (s : State) (n : Nat) : State :=
  let q := getQueue s n
  if q.busy || (q.waiting && releaseComing s n) then setQueue s n { q with descs := q.descs.take 1, halted := false }
  else
    let s := setQueue s n { q with descs := [], waiting := false, halted := false, stalled := 0 }
    if q.waiting then withdrawWait s n else s

/-- SKIP: discard the head of a HALTED queue. -/
def skipQueue (s : State) (n : Nat) : State :=
  let q := getQueue s n
  if queueState s n = 3 then setQueue s n { q with descs := q.descs.drop 1, halted := false } else s

def execSkip (src : Sender) (n : BitVec 8) (s : State) : Host.Outcome State Fault Refusal :=
  .next (if mayWrite s src 1 then skipQueue s n.toNat else s)

def execFlush (src : Sender) (n : BitVec 8) (s : State) : Host.Outcome State Fault Refusal :=
  .next (if mayWrite s src 1 then discardQueue s n.toNat else s)

/-- Clear TE_Q_CFG.EN. -/
def disableQueue (s : State) (n : Nat) : State :=
  discardQueue (rsetField s (teOff n 0) 63 1 0) n

def execQueueDisable (src : Sender) (n : BitVec 8) (s : State) : Host.Outcome State Fault Refusal :=
  .next (if mayWrite s src 1 then disableQueue s n.toNat else s)

end Sys2Proof.Machine
end

