-- ==== Sys2Proof/Machine/LinkBase.lean ====
section
/-! DEFINITION. What a port holds and how it comes up: received packets and their credits (R397 to
R400), LINK_STATUS and the steps of bring-up that need nothing else (R402 to R405). -/

namespace Sys2Proof.Machine

open Sys2Proof

/-! ### Received packets -/

/-- Packets received on a virtual channel of a port, oldest first. -/
def rxQueue (s : State) (p vc : Nat) : List Packet := tabGet (fun _ => []) (getPort s p).rx vc

def setRx (s : State) (p vc : Nat) (ps : List Packet) : State :=
  let t := getPort s p
  setPort s p { t with rx := tabSet (fun _ => []) t.rx vc ps }

/-- Credits to return for n flits of a channel. -/
def oweCredits (s : State) (p vc n : Nat) : State :=
  let t := getPort s p
  setPort s p { t with owed := tabSet (fun _ => 0) t.owed vc (tabGet (fun _ => 0) t.owed vc + n) }

/-- The packet at the head of a channel, if it is of the type asked for. -/
def rxHead (s : State) (p vc : Nat) (type : PktType) : Option Packet :=
  match rxQueue s p vc with
  | [] => none
  | x :: _ => if x.type = type then some x else none

/-- A cell leaves its flit: the flit's credit returns with its last cell. -/
def leaveCell (s : State) (p vc : Nat) : State :=
  let t := getPort s p
  match tabGet (fun _ => []) t.rxCells vc with
  | [] => oweCredits s p vc 1
  | n :: more =>
    if n ≤ 1 then oweCredits (setPort s p { t with rxCells := tabSet (fun _ => []) t.rxCells vc more }) p vc 1
    else setPort s p { t with rxCells := tabSet (fun _ => []) t.rxCells vc ((n - 1) :: more) }

/-- The head of a channel has been written, and is not performed yet (R423). -/
def headWritten (s : State) (p vc : Nat) : Bool := decide (vc ∈ (getPort s p).rxDone)

/-- Mark the head of a channel as written, or not. -/
def setWritten (s : State) (p vc : Nat) (on : Bool) : State :=
  let t := getPort s p
  let rest := t.rxDone.filter (fun c => decide (c ≠ vc))
  setPort s p { t with rxDone := if on then vc :: rest else rest }

/-- Take the head of a channel: its credits return. -/
def popRx (s : State) (p vc : Nat) : State :=
  match rxQueue s p vc with
  | [] => s
  | x :: t =>
    let s := setWritten (setRx s p vc t) p vc false
    if inCell x then leaveCell s p vc else oweCredits s p vc ((x.data.length + 255) / 256)

/-- Replace the head of a channel. -/
def editRx (s : State) (p vc : Nat) (x : Packet) : State :=
  setRx s p vc (x :: (rxQueue s p vc).drop 1)

/-- Commit messages (R446). -/
def commitCode (x : Packet) : Bool := decide (1 ≤ x.obj.toNat ∧ x.obj.toNat ≤ 8)

/-- A MGMT packet that forwards a phase command of the dealer (R16, R30, log entry 43). -/
def dealForward (x : Packet) : Bool := decide (0x101 ≤ x.obj.toNat ∧ x.obj.toNat ≤ 0x104)

/-! ### LINK_STATUS -/

/-- Set STATE and REASON; GEN is 0 outside UP. -/
def linkState (s : State) (p st reason gen : Nat) : State :=
  let o := portOff p 8
  rsetField (rsetField (rsetField s o 0 4 st) o 8 4 reason) o 4 2 gen

/-- Set REASON. -/
def linkReason (s : State) (p reason : Nat) : State := rsetField s (portOff p 8) 8 4 reason

/-- A port has been retired (R470). -/
def portRetired (s : State) (p : Nat) : Bool :=
  s.kept.retire.any (fun e => decide (e.kind = 5 ∧ e.region.toNat = p))

/-- A retired port, one that is disabled, and one whose mode the topology does not allow stay down or
OFF: STATE and REASON (R402, R407, R409, R410, R470). -/
def portBlocked (s : State) (p : Nat) : Option (Nat × Nat) :=
  let m := portMode s p
  if portRetired s p then some (7, 9)
  else if bit (rget s (portOff p 0x10)) 0 then some (0, 7)
  else if m = 0 then some (0, 0)
  else if 5 ≤ m ∨ (isSwitched s ∧ m ≤ 2) ∨ (m = 1 ∧ 10 ≤ p) then some (0, 8)
  else if m = 1 ∧ extentOf s (p / 2) = 1 then some (0, 0)
  else none

/-- Release a port that is not UP into bring-up, or keep it down. The deck's training results serve where the
record that holds them is good (R403, R502). -/
def releasePort (s : State) (p reason : Nat) : State :=
  match portBlocked s p with
  | some x => linkState s p x.1 x.2 0
  | none => linkState (setPort s p { Port.down with trained := s.boot.recordGood }) p 1 reason 0

/-- A port enters DOWN and reports (R405). -/
def portToDown (s : State) (p reason : Nat) : State :=
  let s := linkState s p 7 reason 0
  report s 0x000E (unitOf (p / 4) (p % 4)) (rget s (portOff p 8)) 0

/-- Count a failed attempt or a retrain: the port starts again, or enters DOWN. -/
def countTry (s : State) (p reason : Nat) : State :=
  let n := rfield s (portOff p 8) 12 4 + 1
  let s := rsetField s (portOff p 8) 12 4 (min 15 n)
  if rfield s (portOff p 0) 32 4 ≤ n then portToDown s p reason else releasePort s p reason

/-- The torus port whose neighbour a TORUS or ALIAS port leads to. -/
def torusPort (s : State) (p : Nat) : Nat := if portMode s p = 2 then portAlias s p else p

/-- The neighbour that a torus port leads to (R407). -/
def neighbourId (s : State) (t : Nat) : Nat :=
  let d := t / 2
  let n := extentOf s d
  let a := coordOf s.devId d
  let b := if t % 2 = 0 then (a + 1) % n else (a + n - 1) % n
  s.devId.toNat - a * 2 ^ (4 * d) + b * 2 ^ (4 * d)

/-- The peer is the one that the port's mode requires (R404). -/
def peerFits (s : State) (p peer : Nat) : Bool :=
  match portMode s p with
  | 1 | 2 => decide (torusPort s p < 10 ∧ neighbourId s (torusPort s p) = peer)
  | 3 => decide (portPeer s p = peer)
  | _ => true

/-- The highest generation that both ends support and GENMAX allows (R403); bit g - 1 of `peer` says
that the peer supports generation g. -/
def commonGen (s : State) (p peer : Nat) : Nat :=
  let m := rfield s (portOff p 0) 8 2
  if 3 ≤ m ∧ peer.testBit 2 then 3 else if 2 ≤ m ∧ peer.testBit 1 then 2
  else if 1 ≤ m ∧ peer.testBit 0 then 1 else 0

/-! ### Commands of bring-up -/

/-- DETECT (R402). -/
def execDetect (port : BitVec 4) (signal : Bool) (s : State) : Host.Outcome State Fault Refusal :=
  let p := port.toNat
  .next (if portState s p ≠ 1 then s
    else if signal then linkState s p 2 0 0 else linkReason s p 1)

/-- NEGOTIATE (R403, R404). -/
def execNegotiate (port : BitVec 4) (peerGens : BitVec 3) (peerId : BitVec 20) (s : State) :
    Host.Outcome State Fault Refusal :=
  let p := port.toNat
  .next (if portState s p ≠ 2 then s else
    let s := rsetField s (portOff p 8) 44 20 peerId.toNat
    if !peerFits s p peerId.toNat then portToDown s p 5
    else
      let g := commonGen s p peerGens.toNat
      if g = 0 then linkReason s p 6
      else linkState (setPort s p { getPort s p with gen := g }) p 3 0 0)

/-- TRAIN (R403): deck training results that fall short give way to full training. -/
def execTrain (port : BitVec 4) (good : Bool) (s : State) : Host.Outcome State Fault Refusal :=
  let p := port.toNat
  .next (if portState s p ≠ 3 then s
    else if good then linkState s p 4 0 0
    else if (getPort s p).trained then setPort s p { getPort s p with trained := false }
    else linkReason s p 2)

/-- ALIGN (R402). -/
def execAlign (port : BitVec 4) (good : Bool) (s : State) : Host.Outcome State Fault Refusal :=
  let p := port.toNat
  .next (if portState s p ≠ 4 then s
    else if good then linkState s p 5 0 0 else linkReason s p 3)

/-- A port at INIT: sequence numbers 0, 256 credits for each channel (R400, R402). -/
def portInit (t : Port) : Port :=
  { Port.down with gen := t.gen, trained := t.trained, credits := (List.range 8).map (fun c => (c, 256)) }

/-- INIT (R402). -/
def execInit (port : BitVec 4) (s : State) : Host.Outcome State Fault Refusal :=
  let p := port.toNat
  let t := getPort s p
  .next (if portState s p ≠ 5 then s else linkState (setPort s p (portInit t)) p 6 0 t.gen)

/-- ATTEMPT_TIMEOUT (R405): 1 s is 100,000,000 configuration cycles. -/
def execAttemptTimeout (port : BitVec 4) (s : State) : Host.Outcome State Fault Refusal :=
  let p := port.toNat
  let st := portState s p
  .next (if 1 ≤ st ∧ st ≤ 5 ∧ 100000000 ≤ (getPort s p).attempt
    then countTry s p (rfield s (portOff p 8) 8 4) else s)

/-- IDLE_LINK_FLIT (R395): the open group ends, and a link flit returns the credits owed. -/
def execIdleLinkFlit (port : BitVec 4) (s : State) : Host.Outcome State Fault Refusal :=
  let p := port.toNat
  .next (if portUp s p then setPort s p (idleFlit (closeGroup (getPort s p))) else s)

end Sys2Proof.Machine
end

