-- ==== Sys2Proof/Machine/Commit.lean ====
section
/-! DEFINITION. The commit unit (R441 to R455): updates and gates, the commit tree, securing copies and
anchoring. -/

namespace Sys2Proof.Machine

open Sys2Proof

/-! ### Messages to the children -/

/-- Send a message to every child. -/
def tellChildren (s : State) (code : Nat) (v : BitVec 32) : State :=
  s.commit.children.foldl (fun s c => sendCommit s c.dev code v 0) s

/-! ### Ready, committed, copied, secured (R447, R453) -/

/-- The lower of two values, where both are known. -/
def lowerOf (a b : Option (BitVec 32)) : Option (BitVec 32) :=
  match a, b with
  | some x, some y => some (if x ≤ y then x else y)
  | _, _ => none

/-- The highest version whose gate has opened. -/
def ownReady (s : State) : BitVec 32 :=
  s.commit.gates.foldl (fun a g => if g.opened ∧ a < g.version then g.version else a) (verC s)

def readyVersion (s : State) : Option (BitVec 32) :=
  s.commit.children.foldl (fun a c => lowerOf a c.ready) (some (ownReady s))

def copiedVersion (s : State) : Option (BitVec 32) :=
  s.commit.children.foldl (fun a c => lowerOf a c.copied) s.commit.ownCopied

/-- S rises to v: the event is logged and passed on. -/
def takeSecured (s : State) (v : BitVec 32) : State :=
  let s := modCommit (setS s v) (fun c => { c with firstSecured := true })
  tellChildren (report s 0x0022 0 (wd v.toNat) 0) 5 v

/-- The coordinator secures its copied version once it is committed. -/
def securedCheck (s : State) : State :=
  match copiedVersion s with
  | none => s
  | some v =>
    if isCoordinator s && inRun s && treeComplete s && isSecuring s v && decide (v ≤ verC s) &&
        (decide (verS s < v) || (decide (v = s.commit.r0) && !s.commit.firstSecured))
    then takeSecured s v else s

/-- C rises to v. -/
def takeCommitted (s : State) (v : BitVec 32) : State :=
  let n := v.toNat - (verC s).toNat
  let s := modCommit (setC s v) (fun c =>
    { c with gates := c.gates.filter (fun g => decide (v < g.version)) })
  let s := unitSignal s (cmtObj s) n
  securedCheck (goCheck (tellChildren s 3 v))

/-- The ready version may have risen. -/
def readyCheck (s : State) : State :=
  if !(inRun s && treeComplete s) then s else
  match readyVersion s with
  | none => s
  | some v =>
    if isCoordinator s then (if verC s < v then takeCommitted s v else s)
    else
      let rises := match s.commit.ready with
        | none => true
        | some w => decide (w < v)
      if rises then
        sendCommit (modCommit s (fun c => { c with ready := some v })) (parentDev s) 2 v 0
      else s

/-- The copied version may have risen. -/
def copiedCheck (s : State) : State :=
  if !(inRun s && treeComplete s) then s else
  match copiedVersion s with
  | none => s
  | some v =>
    if isCoordinator s then securedCheck s
    else
      let rises := match s.commit.copied with
        | none => true
        | some w => decide (w < v)
      if rises then
        sendCommit (modCommit s (fun c => { c with copied := some v })) (parentDev s) 4 v 0
      else s

/-! ### Securing copies (R450) -/

/-- Pages of the protected range, and their address. -/
def shardPages (s : State) : Nat := rfield s (commitOff 0x18) 38 26
def shardBase (s : State) : Nat := rfield s (commitOff 0x18) 6 32 * 0x10000

/-- Address of area a of slot q at a holder. -/
def areaAddr (s : State) (q a : Nat) : Word :=
  wd (rfield s (commitOff 0x20) 6 32 * 0x10000 + (2 * q + a) * rfield s (commitOff 0x20) 38 26 * 0x10000)

/-- A holder to which copies go. -/
def holderTakes (n : Nat) : Bool := decide (n = 2 ∨ n = 3)

/-- Address of the area that a key, 2 × slot + area, names. -/
def keyAddr (s : State) (key : Nat) : Word := areaAddr s (key / 2) (key % 2)

/-- A PUT of the unit to a device: n bytes from src to dst. -/
def copyDesc (dev : BitVec 20) (n src : Nat) (dst : Word) : Desc :=
  { words := [wd (2 * 2 ^ 60 + dev.toNat * 2 ^ 36), wd n, wd src, dst, 0, 0, 0, 0], addr := 0, poster := none }

/-- A PUT of one page: page k of the range to an area. -/
def pageDesc (s : State) (t : BitVec 20 × Nat) (k : Nat) : Desc :=
  copyDesc t.1 0x10000 (shardBase s + k * 0x10000) (keyAddr s t.2 + wd (0x10000 + k * 0x10000))

/-- Post page descriptors while their queues have room, alternately on queues n and n + 16. -/
def postPages : Nat → State → State
  | 0, s => s
  | fuel + 1, s =>
    let c := s.commit
    let n := shardPages s
    match (c.targets.drop (c.posted / max 1 n)).head? with
    | none => s
    | some t =>
      if n = 0 then s else
      let k := c.posted % n
      let qn := commitQueue s + 16 * (k % 2)
      if queueFree s qn = 0 then s else
      let q := getQueue s qn
      let s := setQueue s qn { q with descs := q.descs ++ [pageDesc s t k] }
      postPages fuel (modCommit s (fun c => { c with posted := c.posted + 1 }))

/-- The own copy of v is complete: the headers of its areas hold v. -/
def copyComplete (s : State) (v : BitVec 32) : State :=
  let s := modCommit s (fun c => { c with
    areas := c.targets.foldl (fun m t => tabPut m t.2 v) c.areas
    ownCopied := some v, securing := none, targets := [], posted := 0, header := false })
  copiedCheck (unitSignal s (secObj s) 1)

/-- The versions that the headers of a slot's areas hold. What they hold at the first copy after START lies in the
holder's memory: free values (DESIGN CHOICE, log entry 75). -/
def areaVersions (s : State) (slot : Nat) : State × BitVec 32 × BitVec 32 :=
  match tabFind s.commit.areas (2 * slot), tabFind s.commit.areas (2 * slot + 1) with
  | some a, some b => (s, a, b)
  | a, b =>
    let f := drawFree s
    let a := a.getD (f.1.truncate 32)
    let b := b.getD ((f.1 >>> 32).truncate 32)
    (modCommit f.2 (fun c => { c with areas := tabPut (tabPut c.areas (2 * slot) a) (2 * slot + 1) b }), a, b)

/-- The area of a slot that the next copy goes to, as 2 × slot + area: the one that holds the lower VERSION, or area
0 if the two are equal. -/
def nextArea (s : State) (slot : Nat) : State × Nat :=
  let r := areaVersions s slot
  (r.1, 2 * slot + b2n (decide (r.2.2 < r.2.1)))

/-- Add a holder that takes copies to the targets. -/
def addTarget (x : State × List (BitVec 20 × Nat)) (holder : Nat) (dev : BitVec 20) (slot : Nat) :
    State × List (BitVec 20 × Nat) :=
  if holderTakes holder then
    let r := nextArea x.1 slot
    (r.1, x.2 ++ [(dev, r.2)])
  else x

/-- Holders of the copy that begins, with their areas. -/
def copyTargets (s : State) : State × List (BitVec 20 × Nat) :=
  addTarget (addTarget (s, []) s.commit.partner (partnerDev s) 0) s.commit.second (secondDev s) 1

/-- Begin the copy of a securing version, once every FEED_QUERY is settled. -/
def launchCopy (s : State) : State :=
  match s.commit.securing with
  | none => s
  | some v =>
    if s.commit.partner = 1 ∨ s.commit.second = 1 ∨ s.commit.targets ≠ [] then s else
    let x := copyTargets s
    if x.2.isEmpty then copyComplete s v
    else postPages 512 (modCommit x.1 (fun c =>
      { c with targets := x.2, posted := 0, header := false }))

/-- U reaches v (R449, R450). -/
def reachVersion (s : State) (v : BitVec 32) : State :=
  if isSecuring s v then
    launchCopy (modCommit s (fun c =>
      { c with securing := some v, targets := [], posted := 0, header := false }))
  else s

/-- A queue has no descriptor of the unit. -/
def queueClear (s : State) (n : Nat) : Bool :=
  let q := getQueue s n
  q.descs.isEmpty && q.run.isNone && q.flight.isEmpty

/-- The header of an area. -/
def areaHeader (s : State) (v : BitVec 32) : List Byte :=
  bytesOf 8 (v.toNat + s.devId.toNat * 2 ^ 32) ++ bytesOf 8 (shardPages s) ++ bytesOf 8 (jobTag s)

/-- Write the header of one area; it is in flight on queue n. A device that no port serves aborts the job. -/
def sendHeader (v : BitVec 32) (s : State) (t : BitVec 20 × Nat) : State :=
  let n := commitQueue s
  let va := keyAddr s t.2
  match sendOut n t.1 [(0, 0, va, areaHeader s v)] s with
  | (s, awaits, true) =>
    let q := getQueue s n
    let f : Flight := { Flight.start s.nextFlight (copyDesc t.1 24 0 va) with awaits := awaits }
    setQueue { s with nextFlight := s.nextFlight + 1 } n { q with flight := q.flight ++ [f] }
  | (s, _, false) => commitAbort s 2 none

/-- Write the headers: the last writes of the copy. -/
def sendHeaders (s : State) (v : BitVec 32) : State :=
  s.commit.targets.foldl (sendHeader v) (modCommit s (fun c => { c with header := true }))

/-- Carry the copy on: more pages, then the headers, then its end. -/
def copyStep (s : State) : State :=
  match s.commit.securing with
  | none => s
  | some v =>
    let c := s.commit
    let n := commitQueue s
    if c.targets.isEmpty then launchCopy s
    else if c.posted < c.targets.length * shardPages s then postPages 512 s
    else if !(queueClear s n && queueClear s (n + 16)) then s
    else if !c.header then sendHeaders s v else copyComplete s v

/-- SECURING_COPY_DONE (R450). -/
def execSecuringCopyDone (s : State) : Host.Outcome State Fault Refusal :=
  .next (if inRun s then copyStep s else s)

/-! ### Updates and gates (R441, R443) -/

/-- UPD_COUNT: one unit of UPD is the update of the next version. -/
def execUpdCount (s : State) : Host.Outcome State Fault Refusal :=
  let o := getObj s (updObj s)
  .next (if !inRun s || decide (o.value = 0) then s else
    let v := verU s + 1
    let s := setU (setObj s (updObj s) { o with value := o.value - 1 }) v
    let s := modCommit s (fun c => { c with
      goOut := false
      gates := c.gates ++ [{ version := v, age := 0, opened := false, since := 0 }] })
    goCheck (reachVersion s v))

/-- Every gate of the device is shut: a report waits to be classified, an event is PENDING, or the
periodic self-test is off (R443, R467, R479). -/
def gatesShut (s : State) : Bool :=
  !s.safety.reports.isEmpty || !s.safety.lapses.isEmpty || !s.safety.overdue.isEmpty ||
    !bit (rget s (stOff 0)) 63

/-- GATE_OPEN: 30,000,000 configuration cycles after the count. -/
def execGateOpen (version : BitVec 32) (s : State) : Host.Outcome State Fault Refusal :=
  let due (g : GateRec) : Bool := decide (g.version = version ∧ 30000000 ≤ g.age) && !g.opened
  .next (if !inRun s || gatesShut s || !s.commit.gates.any due then s else
    readyCheck (modCommit s (fun c => { c with
      gates := c.gates.map (fun g => if due g then { g with opened := true, since := 0 } else g) })))

/-- COMMIT_TIMEOUT (R454). -/
def execCommitTimeout (s : State) : Host.Outcome State Fault Refusal :=
  let late (g : GateRec) : Bool :=
    g.opened && decide (verC s < g.version ∧ commitTmo s ≤ g.since)
  .next (if s.commit.gates.any late then commitAbort s 4 none else s)

/-! ### Commands of COMMIT_CTL -/

/-- PROT: the holders counted (R452). -/
def setProt (s : State) : State :=
  rsetField s (commitOff 0x48) 60 2
    (if s.commit.partner = 2 then 0 else if s.commit.second = 2 then 1 else 2)

/-- The unit as START leaves it. -/
def startUnit (c : CommitUnit) (r0 : BitVec 32) (pv sv : Bool) : CommitUnit :=
  { CommitUnit.idle with
    children := c.children.map (fun x => { x with ready := none, copied := none })
    r0 := r0, partner := b2n pv, second := b2n sv }

/-- START (R444, R449, R452). -/
def commitStart (s : State) (v : BitVec 32) : State :=
  if inRun s || decide (secInterval s = 0) then setResult s 1 else
  let hold := rget s (commitOff 0x10)
  let s := setS (setC (setU s v) v) v
  let s := rsetField (setResult (setCommitState s 1) 0) (commitOff 0x48) 47 1 1
  let s := setProt { s with commit := startUnit s.commit v (bit hold 63) (bit hold 62) }
  let s := if bit hold 63 then sendCommit s (partnerDev s) 7 0 (ownFeed s) else s
  let s := if bit hold 62 then sendCommit s (secondDev s) 7 0 (ownFeed s) else s
  let s := if isCoordinator s then s else sendCommit s (parentDev s) 1 0 0
  if inRun s then readyCheck (goCheck (reachVersion s v)) else s

/-- ANCHOR. -/
def commitAnchor (s : State) (v : BitVec 32) : State :=
  if inRun s && decide (v = verS s) then
    goCheck (setResult (rsetField (setA s v) (commitOff 0x48) 47 1 0) 0)
  else setResult s 1

/-- STOP. -/
def commitStop (s : State) : State :=
  let n := commitQueue s
  let s := dropUnstarted (dropUnstarted s n) (n + 16)
  setResult (setCommitState { s with commit := .idle } 0) 0

/-- A write of COMMIT_CTL. -/
def commitCtl (s : State) (val : Word) : State :=
  let v : BitVec 32 := val.truncate 32
  match field val 60 4 with
  | 1 => commitStart s v
  | 2 => commitAnchor s v
  | 3 => setResult (commitAbort s 5 none) 0
  | 4 => commitStop s
  | _ => s

def execCommitCtlStart (src : Sender) (version : BitVec 32) (s : State) : Host.Outcome State Fault Refusal :=
  .next (if mayWrite s src 1 then commitStart s version else s)
def execAnchor (src : Sender) (version : BitVec 32) (s : State) : Host.Outcome State Fault Refusal :=
  .next (if mayWrite s src 1 then commitAnchor s version else s)
def execCommitCtlAbort (src : Sender) (s : State) : Host.Outcome State Fault Refusal :=
  .next (if mayWrite s src 1 then setResult (commitAbort s 5 none) 0 else s)
def execCommitCtlStop (src : Sender) (s : State) : Host.Outcome State Fault Refusal :=
  .next (if mayWrite s src 1 then commitStop s else s)

/-! ### Messages that arrive (R444 to R453) -/

/-- Take a message with this code from the head of a channel: one of another job is counted in STRAY
and dropped, and outside RUN all but HELLO are dropped. -/
def onMessage (s : State) (port : BitVec 4) (vc : BitVec 3) (code : Nat) (always : Bool)
    (f : Packet → State → State) : State :=
  match rxHead s port.toNat vc.toNat .mgmt with
  | none => s
  | some m =>
    if m.obj.toNat ≠ code then s else
    let s := popRx s port.toNat vc.toNat
    if m.tag.toNat ≠ jobTag s then raddSat s (commitOff 0x48) 32 15 1
    else if always || inRun s then f m s else s

/-- HELLO records a child. -/
def hearHello (m : Packet) (s : State) : State :=
  if s.commit.children.any (fun c => decide (c.dev = m.src)) then s else
  copiedCheck (readyCheck (modCommit s (fun c => { c with
    children := c.children ++ [{ dev := m.src, ready := none, copied := none }] })))

/-- Change a recorded child. -/
def modChild (s : State) (dev : BitVec 20) (f : Child → Child) : State :=
  modCommit s (fun c => { c with children := c.children.map (fun x => if x.dev = dev then f x else x) })

def hearReady (m : Packet) (s : State) : State :=
  readyCheck (modChild s m.src (fun c => { c with ready := some m.value }))

def hearCopied (m : Packet) (s : State) : State :=
  copiedCheck (modChild s m.src (fun c => { c with copied := some m.value }))

/-- The first COMMIT or SECURED of the parent ends the repeats of HELLO. -/
def noteParent (s : State) (m : Packet) : State :=
  modCommit s (fun c => { c with heardParent := c.heardParent || decide (m.src = parentDev s) })

def hearCommit (m : Packet) (s : State) : State :=
  let s := noteParent s m
  if verC s < m.value then takeCommitted s m.value else s

def hearSecured (m : Packet) (s : State) : State :=
  let first := !s.commit.firstSecured
  let s := modCommit (noteParent s m) (fun c => { c with firstSecured := true })
  if verS s < m.value ∨ (m.value = s.commit.r0 ∧ first = true) then takeSecured s m.value else s

/-- FEED_QUERY is answered with the own power-feed domain. -/
def hearQuery (m : Packet) (s : State) : State := sendCommit s m.src 8 0 (ownFeed s)

/-- The state of a holder after its reply (R452). -/
def feedVerdict (s : State) (m : Packet) : Nat :=
  if m.addr.toNat % 2 ^ 32 = ownFeed s then
    (if bit (rget s (commitOff 0)) 30 then 3 else 4) else 2

/-- A holder's reply, or its absence, is settled. -/
def settleHolder (s : State) (dev : BitVec 20) (v : Nat) : State :=
  let p := decide (s.commit.partner = 1 ∧ partnerDev s = dev)
  let q := decide (s.commit.second = 1 ∧ secondDev s = dev)
  let s := modCommit s (fun c => { c with
    partner := if p then v else c.partner, second := if q then v else c.second })
  let s := if (p || q) && decide (v = 3) then report s 0x0021 0 (wd dev.toNat) 0 else s
  launchCopy (setProt s)

def hearReply (m : Packet) (s : State) : State := settleHolder s m.src (feedVerdict s m)

def execHello (port : BitVec 4) (vc : BitVec 3) (s : State) : Host.Outcome State Fault Refusal :=
  .next (onMessage s port vc 1 true hearHello)
def execReady (port : BitVec 4) (vc : BitVec 3) (s : State) : Host.Outcome State Fault Refusal :=
  .next (onMessage s port vc 2 false hearReady)
def execCommit (port : BitVec 4) (vc : BitVec 3) (s : State) : Host.Outcome State Fault Refusal :=
  .next (onMessage s port vc 3 false hearCommit)
def execCopied (port : BitVec 4) (vc : BitVec 3) (s : State) : Host.Outcome State Fault Refusal :=
  .next (onMessage s port vc 4 false hearCopied)
def execSecured (port : BitVec 4) (vc : BitVec 3) (s : State) : Host.Outcome State Fault Refusal :=
  .next (onMessage s port vc 5 false hearSecured)
def execAbort (port : BitVec 4) (vc : BitVec 3) (s : State) : Host.Outcome State Fault Refusal :=
  .next (onMessage s port vc 6 false (fun m s => commitAbort s 6 (some m.src)))
def execFeedQuery (port : BitVec 4) (vc : BitVec 3) (s : State) : Host.Outcome State Fault Refusal :=
  .next (onMessage s port vc 7 false hearQuery)
def execFeedReply (port : BitVec 4) (vc : BitVec 3) (s : State) : Host.Outcome State Fault Refusal :=
  .next (onMessage s port vc 8 false hearReply)

/-- FEED_TIMEOUT (R452): a holder that has sent no reply counts as refused. -/
def execFeedTimeout (s : State) : Host.Outcome State Fault Refusal :=
  .next (if inRun s && decide (commitTmo s ≤ s.commit.feedAge) then
    let s := if s.commit.partner = 1 then settleHolder s (partnerDev s) 4 else s
    if s.commit.second = 1 then settleHolder s (secondDev s) 4 else s
  else s)

/-- HELLO_REPEAT (R445): once per millisecond, with READY and COPIED where R444 allows them. -/
def execHelloRepeat (s : State) : Host.Outcome State Fault Refusal :=
  .next (if inRun s && !isCoordinator s && !s.commit.heardParent &&
      decide (100000 ≤ s.commit.helloAge) then
    let s := modCommit s (fun c => { c with helloAge := 0 })
    let s := sendCommit s (parentDev s) 1 0 0
    let say (code : Nat) (v : Option (BitVec 32)) (s : State) : State := match v with
      | some v => if inRun s && treeComplete s then sendCommit s (parentDev s) code v 0 else s
      | none => s
    say 4 s.commit.copied (say 2 s.commit.ready s)
  else s)

end Sys2Proof.Machine
end

