-- ==== Sys2Proof/Machine/Kitty.lean ====
section
/-! DEFINITION. The kitty of the context manager: shares and metadata (R329, R330), page records,
counts and reserves (R344), taking and returning pages (R340, R345), and copies of pages (R463).
The page a demand takes from a part of the kitty is its lowest free page (DESIGN CHOICE, log
entry 35). -/

namespace Sys2Proof.Machine

open Sys2Proof

/-! ### Shares and metadata -/

/-- A register as the metadata was taken from it at the device reset (R330). -/
def takenReg (s : State) (off : Nat) : Word := tabGet (rget s) s.ctx.taken off

/-- The manager takes its metadata from the shares. -/
def takeMeta (s : State) : State :=
  let regs := 0x1000 :: (List.range 8).map (fun k => 0x1100 + 8 * k)
  { s with ctx := { s.ctx with
      taken := regs.foldl (fun t o => tabPut t (dealOff o) (rget s (dealOff o))) [] } }

/-- Registers of the shares: HBM of quadrant q, or DDR5. -/
def shareReg (s : State) (q : Nat) (ddr : Bool) : Word :=
  takenReg s (dealOff (0x1100 + 0x10 * q + 8 * b2n ddr))
def shareBase (s : State) (q : Nat) (ddr : Bool) : Nat := field (shareReg s q ddr) 34 30
def sharePages (s : State) (q : Nat) (ddr : Bool) : Nat := field (shareReg s q ddr) 0 30

def pagesFor (bytes : Nat) : Nat := (bytes + 65535) / 65536

/-- Pages of the tables and the index, spread evenly over the quadrants (R330). -/
def tablePages (s : State) : Nat :=
  let cfg := takenReg s (dealOff 0x1000)
  pagesFor (field cfg 8 13 * (field cfg 0 8 + 1) * 8192) +
  pagesFor (256 * 256 * 16384 * 8 / 4 * ((field cfg 40 8 + 63) / 64)) +
  pagesFor (2 ^ field cfg 51 5 * 64)

/-- Metadata pages at the start of a share. -/
def metaPages (s : State) (q : Nat) (ddr : Bool) : Nat :=
  pagesFor (16 * sharePages s q ddr) + (if ddr then 0 else (tablePages s + 3) / 4)

/-- The kitty's range in a share: first page and the page after the last. -/
def kittyRange (s : State) (q : Nat) (ddr : Bool) : Nat × Nat :=
  let b := shareBase s q ddr
  (b + metaPages s q ddr, b + sharePages s q ddr)

/-- A page of HBM. -/
def pageInHbm (ppn : Nat) : Bool := decide (ppn < 0x800000)

/-- Pages of a kitty range that no record holds. -/
def freeIn (s : State) (q : Nat) (ddr : Bool) : Nat :=
  let r := kittyRange s q ddr
  (r.2 - r.1) - (s.ctx.pages.filter (fun e => decide (r.1 ≤ e.1 ∧ e.1 < r.2))).length

/-- FREE_HBM and FREE_DDR. -/
def freeTier (s : State) (ddr : Bool) : Nat :=
  freeIn s 0 ddr + freeIn s 1 ddr + freeIn s 2 ddr + freeIn s 3 ddr

/-- Live sequences. -/
def liveSeqs (s : State) : List (Nat × Sequence) := s.dealer.seqs.filter (fun e => e.2.state = .live)

/-- The before-image reserve not yet used (R344). -/
def shadowLeft (s : State) : Nat := rfield s (dealOff 0x1008) 0 32 - s.ctx.shadowUsed

/-- General free pages (R344); below 0 a growth reserve is short. -/
def generalFree (s : State) : Int :=
  ((freeTier s false + freeTier s true : Nat) : Int) - shadowLeft s -
    (ctxShards s * (liveSeqs s).length : Nat)

/-! ### Taking and returning pages -/

/-- The lowest page from `lo` on that no record of a rising table holds. -/
def firstFree : Tab PageRec → Nat → Nat
  | [], lo => lo
  | (k, _) :: t, lo => if k < lo then firstFree t lo else if k = lo then firstFree t (lo + 1) else lo

def freeOf (s : State) (q : Nat) (ddr : Bool) : Option Nat :=
  let r := kittyRange s q ddr
  let p := firstFree s.ctx.pages r.1
  if p < r.2 then some p else none

/-- Quadrants in the order of R345, the preferred one first. -/
def quadOrder (q : Nat) : List Nat := q :: (List.range 4).filter (fun x => decide (x ≠ q))

def pickTier (s : State) (q : Nat) (ddr : Bool) : Option Nat :=
  (quadOrder q).findSome? (fun x => freeOf s x ddr)

/-- The page a demand with preferred quadrant q takes (R345). -/
def pickPage (s : State) (q : Nat) : Option Nat := (pickTier s q false).orElse fun _ => pickTier s q true

def setPage (s : State) (ppn : Nat) (p : PageRec) : State :=
  { s with ctx := { s.ctx with pages := tabPut s.ctx.pages ppn p } }

def PageRec.plain (ref state : Nat) : PageRec :=
  { h64 := 0, h32 := 0, tag := 0, shard := 0, ref := ref, state := state, idx := false, age := 0 }

/-- Remove a page's index entry. -/
def dropIndex (s : State) (ppn : Nat) : State :=
  { s with ctx := { s.ctx with index := s.ctx.index.filter (fun e => decide (e.ppn ≠ ppn)) } }

/-- Preferred quadrant of a window page. -/
def keyQuad (k : Nat) : Nat :=
  if k % 2 = 0 then (k / 2 / 1024 % 256 + k / 2 % 1024) % 4 else (k / 2 / 16384 % 256 + k / 2 % 16384) % 4

/-! ### Contents of pages -/

/-- The context manager's own accesses: class 4. -/
def managerAgent : Agent := unitAgent 4

/-- Read n lines from an address; none where one cannot be read. -/
def readRun (a : Agent) : Nat → Nat → State → State × Option (List Nat)
  | 0, _, s => (s, some [])
  | n + 1, pa, s =>
    match readPa s a pa 128 with
    | (s, _, some _) => (ueConsumed s (unitOf (homeQuad pa) a.who) (wd pa), none)
    | (s, v, none) =>
      match readRun a n (pa + 128) s with
      | (s, none) => (s, none)
      | (s, some vs) => (s, some (v :: vs))

/-- Write whole lines from an address up. -/
def putRun (a : Agent) : List Nat → Nat → State → State
  | [], _, s => s
  | v :: t, pa, s => putRun a t (pa + 128) (writePa s a pa 128 v).1

/-- A request to a page. -/
def reqPage (ppn : Nat) (r : Req) : Bool := decide (r.line / 512 = ppn)

/-- The requests to a page that wait for a miss register of a core are served. -/
def drainMisses (ppn : Nat) (s : State) (ci : Nat) : State :=
  let k := getCore s ci
  let mine := k.missWait.filter (reqPage ppn)
  if mine.isEmpty then s else
    mine.foldl serveReq (setCore s ci { k with missWait := k.missWait.filter (fun r => !reqPage ppn r) })

/-- The updates of a page that a combining window holds are applied. -/
def drainWindow (ppn : Nat) (s : State) (b : Nat) : State :=
  let w := getWindow s b
  let here (u : AccUpd) : Bool := decide (u.line / 512 = ppn)
  let mine := (w.sent ++ w.entries ++ w.arriving).filter here
  if mine.isEmpty then s else
    mine.foldl applyUpdate (setWindow s b
      { arriving := w.arriving.filter (fun u => !here u), entries := w.entries.filter (fun u => !here u)
        sent := w.sent.filter (fun u => !here u) })

/-- Every access that already has its translation to a page is performed: no agent uses a mapping after
its page has been freed, reused or copied (R334). -/
def drainPage (s : State) (ppn : Nat) : State :=
  let s := s.channels.foldl (fun s e => drainChannel s e.1 (reqPage ppn)) s
  let s := s.banks.foldl (fun s e => drainBank s e.1 (reqPage ppn)) s
  let s := s.cores.foldl (fun s e => drainMisses ppn s e.1) s
  s.windows.foldl (fun s e => drainWindow ppn s e.1) s

/-- Copy a page; false where a line of the source cannot be read, and then nothing is written. -/
def copyPage (s : State) (src dst : Nat) : State × Bool :=
  match readRun managerAgent 512 (src * 65536) (drainPage s src) with
  | (s, none) => (s, false)
  | (s, some vs) => (putRun managerAgent vs (dst * 65536) s, true)

/-- Clear a page. -/
def clearPage (s : State) (ppn : Nat) : State :=
  putRun managerAgent (List.replicate 512 0) (ppn * 65536) s

/-! ### Pages that return to the kitty -/

/-- A page returns to the kitty; the source of a move in progress does so when the move ends (R350). -/
def freePage (s : State) (ppn : Nat) : State :=
  let s := dropIndex (drainPage s ppn) ppn
  if s.ctx.moves.any (fun m => decide (m.src = ppn)) then setPage s ppn (.plain 0 1)
  else { s with ctx := { s.ctx with pages := tabDel s.ctx.pages ppn } }

/-- REF falls by 1; at 0 the page leaves the index and returns to the kitty (R340). -/
def derefPage (s : State) (ppn : Nat) : State :=
  match findPage s ppn with
  | none => s
  | some p => if p.ref ≤ 1 then freePage s ppn else setPage s ppn { p with ref := p.ref - 1 }

def setEnt (s : State) (key ppn : Nat) : State :=
  { s with ctx := { s.ctx with
      ents := tabPut s.ctx.ents key { tier := if pageInHbm ppn then 0 else 1, ppn := ppn } } }

/-- Unmap the entries a test picks. -/
def unmapAll (s : State) (p : Nat → Bool) : State :=
  let gone := s.ctx.ents.filter (fun e => p e.1)
  let s := { s with ctx := { s.ctx with ents := s.ctx.ents.filter (fun e => !p e.1) } }
  gone.foldl (fun s e => derefPage s e.2.ppn) s

/-- Free the pages of a sequence ID. -/
def freeSeqPages (s : State) (q : Nat) : State := unmapAll s (fun k => decide (keySeq k = some q))

/-- Slot of a stash key. -/
def stashSlot (k : Nat) : Option Nat := if k % 2 = 1 then some (k / 2 / 16384 / 256) else none

/-- Free the stash pages of one slot or of all. -/
def freeStash (s : State) (slot : Option Nat) : State :=
  unmapAll s (fun k => match stashSlot k, slot with
    | some t, some u => decide (t = u)
    | some _, none => true
    | none, _ => false)

/-! ### Counters and held writes -/

/-- Add to CTX_CNT_k. -/
def ctxCount (s : State) (k n : Nat) : State := radd s (dealOff (0x1200 + 8 * k)) n

/-- A held write goes on: its thread is ready again, or its exception entry proceeds, at the end of a test
that has the core (R478). -/
def freeHeld (s : State) (h : CtxHeld) : State :=
  let s := { s with ctx := { s.ctx with held := s.ctx.held.filter (fun x => decide (x ≠ h)) } }
  match h.thr with
  | some i =>
    match (getThread s i).hold with
    | .ctx => modThread s i (fun t => { t with hold := .none })
    | .entry _ _ _ _ => if (getCore s (i / 16)).testing then s else resumeEntry s i
    | _ => s
  | none => s

/-- A held write cannot be served yet: its event is raised and the hold counted once. -/
def stillHeld (s : State) (h : CtxHeld) (event : Nat) : State :=
  if h.told then s else
  let s := { s with ctx := { s.ctx with
    held := s.ctx.held.map (fun x => if x = h then { x with told := true } else x) } }
  ctxEvent (if event = 2 then ctxCount s 7 1 else s) event

/-- A held write whose copy met an unreadable line goes on to its fault. -/
def failHeld (s : State) (h : CtxHeld) : State :=
  freeHeld { s with ctx := { s.ctx with failed := s.ctx.failed ++ [(h.thr, h.need)] } } h

end Sys2Proof.Machine
end

