-- ==== Sys2Proof/Machine/DealBase.lean ====
section
/-! DEFINITION. The dealer's own accesses, its counts, rollout records, retirement and requeuing
(R340, R346, R352, R355, R360 to R363). -/

namespace Sys2Proof.Machine

open Sys2Proof

/-! ### Registers and accesses -/

/-- The dealer's accesses: through DEAL_ASPACE with the rights of ring 1 and class 4 (DESIGN CHOICE,
log entry 36). -/
def dealAgent (s : State) : Agent :=
  { who := otherAgent, core := none, thr := none, aspace := rget s (dealOff 0x10018), ring := 1,
    cls := 4, age := 1 }

/-- Base registers by number: 0 DEAL_PQ, 1 DEAL_POOL, 2 DEAL_EPOOL, 3 DEAL_HAND, 4 DEAL_LIST,
5 DEAL_TOK. -/
def dealBase (s : State) (k : Nat) : Nat := rfield s (dealOff (0x10040 + 8 * k)) 0 48
def dealCount (s : State) (k : Nat) : Nat := rfield s (dealOff (0x10040 + 8 * k)) 48 16

def modDealer (s : State) (f : Dealer → Dealer) : State := { s with dealer := f s.dealer }

/-- The word at an address as it stands behind the dealer's held writes, oldest first. -/
def behindOut (out : List DealOut) (va : Nat) (w : Word) : Word :=
  out.foldl (fun w x => match x with
    | .write a size v => if a / 8 = va / 8 then setField w (8 * (a % 8)) (8 * size) v else w
    | .tail _ => w) w

/-- Read words of the dealer's own, with what its held writes will make of them; none where one cannot be
read. -/
def dealRead (s : State) (n va : Nat) : State × Option (List Word) :=
  match readWords (dealAgent s) n s (wd va) with
  | (s, .inl ws) =>
    (s, some (((List.range ws.length).zip ws).map (fun e => behindOut s.dealer.out (va + 8 * e.1) e.2)))
  | (s, .inr _) => (s, none)

/-- Perform a write of the dealer; false where the context manager holds it. One that translation refuses
is not performed (DESIGN CHOICE, log entry 36). -/
def dealPerform (s : State) : DealOut → State × Bool
  | .tail k => (rsetField s (jobOff 0x38) 0 32 k, true)
  | .write va size v =>
    match xlat (dealAgent s) .store s (wd va) with
    | (s, .to pa) => (putPa s (dealAgent s) pa size v, true)
    | (s, .held need) => (listHeld s none need, false)
    | (s, .trap _ _) => (s, true)

/-- Perform writes in order up to the first that is held. -/
def dealFlush : List DealOut → State → State
  | [], s => modDealer s fun d => { d with out := [] }
  | x :: t, s =>
    match dealPerform s x with
    | (s, true) => dealFlush t s
    | (s, false) => modDealer s fun d => { d with out := x :: t }

/-- A write of the dealer, behind those that are held. -/
def dealOut (s : State) (x : DealOut) : State := dealFlush (s.dealer.out ++ [x]) s

/-- Write bytes that lie in one line. -/
def dealWrite (s : State) (va size v : Nat) : State := dealOut s (.write va size v)

/-- Write words from an address up. -/
def dealWriteWords : List Word → Nat → State → State
  | [], _, s => s
  | w :: t, va, s => dealWriteWords t (va + 8) (dealWrite s va 8 w.toNat)

/-- DEAL_STATUS.STATE: 0 IDLE, 1 GENERATE, 2 DRAINING, 3 PACKED. -/
def dealState (s : State) : Nat := rfield s (jobOff 8) 0 2
def setDealState (s : State) (v : Nat) : State := rsetField s (jobOff 8) 0 2 v

/-- Tokens of a block, and the most tokens of a slot. -/
def blockTokens (s : State) : Nat := 2 ^ ctxBlockLog s
def maxTokens (s : State) : Nat := 1024 * blockTokens s

/-- Address of token p of a token slot. -/
def tokenAddr (s : State) (slot p : Nat) : Nat := dealBase s 5 + 4 * maxTokens s * slot + 4 * p

/-- The weight tag of a partition (R335). -/
def weightTag (s : State) (part : Bool) : BitVec 32 :=
  if part then BitVec.ofNat 32 (rfield s (dealOff 0x10030) 0 32) else s.dealer.version

/-- One step of the prefix hashes (R335). -/
def hashStep (h : Word × BitVec 32) (tok : Nat) : Word × BitVec 32 :=
  (crcStep false 32 0x42F0E1EBA9EA3693 h.1 (wd tok),
   (crcStep true 32 0x1EDC6F4100000000 (h.2.zeroExtend 64) (wd tok)).truncate 32)

def hashStart : Word × BitVec 32 := (0xFFFFFFFFFFFFFFFF, 0xFFFFFFFF)

def setSeq (s : State) (q : Nat) (x : Sequence) : State :=
  modDealer s fun d => { d with seqs := tabPut d.seqs q x }

/-! ### Identifiers and slots (R355) -/

/-- Sequence IDs of a partition: from, and up to but not including. -/
def partRange (s : State) (part : Bool) : Nat × Nat :=
  let split := rfield s (dealOff 0x10008) 0 13
  if part then (split, ctxMaxSeq s) else (0, min split (ctxMaxSeq s))

/-- Free sequence IDs of a partition, rising. -/
def freeIds (s : State) (part : Bool) : List Nat :=
  let r := partRange s part
  ((List.range (r.2 - r.1)).map (· + r.1)).filter (fun q => (tabFind s.dealer.seqs q).isNone)

/-- Free token slots, rising. -/
def freeSlots (s : State) : List Nat :=
  (List.range (dealCount s 5)).filter (fun k =>
    s.dealer.seqs.all (fun e => decide (e.2.state = .carry ∨ e.2.slot ≠ k)) &&
    s.dealer.heldSlots.all (fun h => decide (h.2 ≠ k)))

def liveOf (s : State) (part : Bool) : Nat :=
  ((liveSeqs s).filter (fun e => e.2.part == part)).length

/-- DEAL_LIMIT of a partition. -/
def partLimit (s : State) (part : Bool) : Nat := rfield s (jobOff 0x10) (if part then 32 else 16) 13

/-! ### Rollout records (R352, R361, R363) -/

def poolHead (s : State) : Nat := rfield s (jobOff 0x28) 0 32
/-- The pool's tail: the register, or the value that it takes behind a held write. -/
def poolTail (s : State) : Nat :=
  match s.dealer.out.findSome? (fun x => match x with
    | .tail k => some k
    | _ => none) with
  | none => rfield s (jobOff 0x38) 0 32
  | some _ => (s.dealer.out.foldl (fun k x => match x with
    | .tail j => j
    | _ => k) 0)

/-- The rollout pool is full. The evaluation pool has no head register: its records are written
round its ring (DESIGN CHOICE, log entry 37). -/
def poolFull (s : State) (part : Bool) : Bool :=
  if part then decide (dealCount s 2 = 0)
  else decide (dealCount s 1 ≤ (poolTail s + 2 ^ 32 - poolHead s) % 2 ^ 32)

/-- Address of record k of a partition's pool. -/
def recordAddr (s : State) (part : Bool) (k : Nat) : Nat :=
  let b := if part then 2 else 1
  dealBase s b + 128 * (k % max 1 (dealCount s b))

/-- The 16 words of a record. -/
def recordWords (toks : Nat) (x : Sequence) (status : Nat) : List Word :=
  let inc := decide (3 ≤ status ∧ status ≤ 5)
  let ch := x.changes.map (fun c => c.2 ++ c.1)
  [wd (x.promptId.toNat + x.copy % 256 * 2 ^ 32 + status * 2 ^ 40 + b2n inc * 2 ^ 44 +
     (x.changes.length - 1) % 8 * 2 ^ 45),
   wd (x.plen % 2 ^ 32 + x.len % 2 ^ 32 * 2 ^ 32), wd toks,
   x.user.truncate 64, (x.user >>> 64).truncate 64, 0, 0, 0] ++ ch ++
  List.replicate (8 - ch.length) 0

/-- Append a record to a partition's pool; the token slot, if any, passes to it. -/
def writeRecord (s : State) (part : Bool) (x : Sequence) (status : Nat) (slot : Option Nat) : State :=
  let k := if part then s.dealer.etail else poolTail s
  let toks := match slot with
    | some t => tokenAddr s t 0
    | none => 0
  let s := dealWriteWords (recordWords toks x status) (recordAddr s part k) s
  let kept := if part
    then s.dealer.heldSlots.filter (fun h => decide (h.1 ≠ 2 * (k % max 1 (dealCount s 2)) + 1))
    else s.dealer.heldSlots
  let key := if part then 2 * (k % max 1 (dealCount s 2)) + 1 else 2 * k
  let s := modDealer s fun d => { d with
    heldSlots := kept ++ (slot.toList.map (fun t => (key, t)))
    etail := if part then k + 1 else d.etail }
  if part then s else dealOut s (.tail ((k + 1) % 2 ^ 32))

/-- Groups of which a sequence or an unfinished prefill is left. -/
def dropGroups (s : State) : State :=
  modDealer s fun d => { d with groups := d.groups.filter (fun g => d.seqs.any (fun e =>
    decide (e.2.grp = g.id ∧ e.2.state ≠ .carry))) }

/-- Remove a sequence: its ID and its pages are free. -/
def dropSeq (s : State) (q : Nat) : State :=
  let s := freeSeqPages s q
  dropGroups (modDealer s fun d => { d with seqs := tabDel d.seqs q })

/-- Retire a sequence (R360, R361); while its pool is full it stays live and is dealt no hand. -/
def retireSeq (s : State) (q status : Nat) : State :=
  match tabFind s.dealer.seqs q with
  | none => s
  | some x =>
    if poolFull s x.part then
      let s := setSeq s q { x with ending := some (BitVec.ofNat 4 status) }
      if x.ending.isSome then s else dealEvent s 3
    else dropSeq (writeRecord s x.part x status (some x.slot)) q

/-- Retire what waits for a free record. -/
def retirePending (s : State) : State :=
  ((s.dealer.seqs.filter (fun e => e.2.ending.isSome && !e.2.inHand)).map Prod.fst).foldl
    (fun s q => match tabFind s.dealer.seqs q with
      | some x => if poolFull s x.part then s else retireSeq s q ((x.ending.getD 0).toNat)
      | none => s) s

/-! ### Requeuing and growth reserves (R344, R346) -/

/-- The sequences of a group, by ID, that no retirement waits for. -/
def groupSeqs (s : State) (g : PromptGroup) : List (Nat × Sequence) :=
  s.dealer.seqs.filter (fun e =>
    decide (e.2.grp = g.id ∧ e.2.state ≠ SeqState.carry) && e.2.ending.isNone)

/-- Free a group's sequence IDs, token slots and pages, without a record. One that waits for a free record
stays until it has it (R361). -/
def dropGroup (s : State) (g : PromptGroup) : State :=
  let s := (groupSeqs s g).foldl (fun s e => dropSeq s e.1) s
  modDealer s fun d => { d with groups := d.groups.filter (fun x => decide (x.id ≠ g.id)) }

/-- Requeue a group: its prompt entry goes back to the head of the queue (R346). The dealer keeps
the entry itself, and DEAL_PQ_NEXT stays (DESIGN CHOICE, log entry 38). -/
def requeueGroup (s : State) (g : PromptGroup) : State :=
  let s := dropGroup s g
  modDealer s fun d => { d with requeued := g.entry :: d.requeued }

/-- Replenish growth reserves after a demand of sequence q: requeue the youngest other group of its
partition until none is short; with only its own group left, the sequence retires. -/
def replenish (q : Nat) : Nat → State → State
  | 0, s => s
  | n + 1, s =>
    if 0 ≤ generalFree s then s else
    match tabFind s.dealer.seqs q with
    | none => s
    | some x =>
      match (s.dealer.groups.filter (fun g => decide (g.part = x.part ∧ g.id ≠ x.grp) && !(groupSeqs s g).isEmpty)).getLast? with
      | some g => replenish q n (dealEvent (ctxCount (requeueGroup s g) 6 1) 4)
      | none => retireSeq s q 4

/-- A key belongs to a live sequence. -/
def keyLive (s : State) (key : Nat) : Bool :=
  match keySeq key with
  | some q =>
    match tabFind s.dealer.seqs q with
    | some x => decide (x.state = SeqState.live)
    | none => false
  | none => false

/-- Take a page for a demand and record it; none where the demand cannot be met. A live sequence
draws on its growth reserve, any other window page on general free pages (R345). -/
def drawPage (s : State) (key quad : Nat) (p : PageRec) : State × Option Nat :=
  if !keyLive s key && decide (generalFree s ≤ 0) then (s, none) else
  match pickPage s quad with
  | some ppn => (setPage s ppn p, some ppn)
  | none => (s, none)

/-- After a page has been mapped for a key, the growth reserve of its live sequence is replenished. -/
def afterDraw (s : State) (key : Nat) : State :=
  if keyLive s key then replenish ((keySeq key).getD 0) (s.dealer.groups.length + 1) s else s

end Sys2Proof.Machine
end

