-- ==== Sys2Proof/Machine/Context.lean ====
section
/-! DEFINITION. The context manager: invalidations (R325, R326), pages for window writes (R333), copy
on first write (R338, R339), snapshots (R341 to R343) and tiering (R347 to R350). -/

namespace Sys2Proof.Machine

open Sys2Proof

/-! ### Tests (R469) -/

/-- A quarter of the context manager is under test, and its work is held (R469). -/
def quarterTested (s : State) (q : Nat) : Bool := unitTested s q 5

/-- Some quarter of it is: what needs all of them is held. -/
def managerTested (s : State) : Bool := (List.range 4).any (quarterTested s)

/-! ### MMU_INVAL (R325, R326) -/

/-- A write of MMU_INVAL. An invalidation takes SCOPE, ASID and MMU_INVAL_VA as they stand when GO is
written; one written behind another waits for it (R326). -/
def mmuWrite (s : State) (val : Word) : State :=
  let o := dealOff 0
  let queue := s.ctx.mmuQueued ++
    (if bit val 62 then [(val &&& 0x300000000FFFF, rget s (dealOff 8))] else [])
  rset { s with ctx := { s.ctx with mmuQueued := queue } } o
    (setField (val &&& 0x300000000FFFF) 63 1 (b2n (!queue.isEmpty)))

def execMmuInval (src : Sender) (val : BitVec 64) (s : State) : Host.Outcome State Fault Refusal :=
  .next (if mayWrite s src 1 then mmuWrite s val else s)

/-- An invalidation covers a cached translation: by SCOPE all of them, those of the ASID, or those of
the ASID and the page together with the global entries of that page. -/
def mmuCovers (val va : Word) (e : TlbEnt) : Bool :=
  let mine := decide (e.asid = some (field val 0 16))
  let page := decide (e.page = va.toNat >>> e.shift)
  match field val 48 2 with
  | 1 => mine
  | 2 => page && (mine || e.asid.isNone)
  | _ => true

/-- MMU_INVAL_DONE (R325, R326): every core and engine drops the entries that the invalidation covers.
A walk is over within its own access. -/
def execMmuInvalDone (s : State) : Host.Outcome State Fault Refusal :=
  .next (match s.ctx.mmuQueued with
    | [] => s
    | x :: t =>
      if managerTested s then s else
      rsetField { dropTlb s (mmuCovers x.1 x.2) with ctx := { s.ctx with mmuQueued := t } }
        (dealOff 0) 63 1 (b2n (!t.isEmpty)))

/-! ### Held writes -/

/-- A held write goes on. One of no thread is the dealer's, which performs it and what waits behind it. -/
def releaseHeld (s : State) (h : CtxHeld) : State :=
  let s := freeHeld s h
  if h.thr.isNone then dealFlush s.dealer.out s else s

/-- A held write whose copy met an unreadable line goes on to its fault (R463). -/
def failWrite (s : State) (h : CtxHeld) : State :=
  let s := failHeld s h
  if h.thr.isNone then dealFlush s.dealer.out s else s

/-- Try held writes, oldest first, until one is served: one that must wait holds up no other (R341, R345). -/
def serveHeld (serve : CtxHeld → State → State × Bool) : List CtxHeld → State → State
  | [], s => s
  | h :: t, s =>
    match serve h s with
    | (s, true) => s
    | (s, false) => serveHeld serve t s

/-- A demand finds no page: a live sequence's is met by requeuing (R346), another waits. -/
def noPage (s : State) (h : CtxHeld) (key : Nat) : State × Bool :=
  if keyLive s key then (afterDraw s key, true) else (stillHeld s h 2, false)

/-- Map a new page for a key, cleared. -/
def mapNew (s : State) (key ppn : Nat) : State := setEnt (clearPage s ppn) key ppn

/-- The sequence that a key belongs to has retired since: its window takes no write any more (R333). -/
def keyGone (s : State) (key : Nat) : Bool :=
  match keySeq key with
  | some q => (tabFind s.dealer.seqs q).isNone
  | none => false

/-- Serve a writer that waits for a window page; false where it must wait on. One whose sequence has retired
goes on to its fault. -/
def serveAlloc (h : CtxHeld) (s : State) : State × Bool :=
  match h.need with
  | .alloc key =>
    if quarterTested s (keyQuad key) then (s, false)
    else if (findEnt s key).isSome || keyGone s key then (releaseHeld s h, true) else
    (match drawPage s key (keyQuad key) (.plain 1 1) with
     | (s, some ppn) => (afterDraw (releaseHeld (mapNew s key ppn) h) key, true)
     | (s, none) => noPage s h key)
  | _ => (s, false)

/-- WINDOW_ALLOC (R333, R345): the first writer that waits for a window page and can be served. -/
def execWindowAlloc (s : State) : Host.Outcome State Fault Refusal :=
  .next (serveHeld serveAlloc s.ctx.held s)

/-- Copy a shared page into the entry of its writer (R338). -/
def copyShared (s : State) (h : CtxHeld) (key old : Nat) : State × Bool :=
  match drawPage s key (homeQuad (old * 65536)) (.plain 1 1) with
  | (s, none) => noPage s h key
  | (s, some ppn) =>
    match copyPage s old ppn with
    | (s, false) => (failWrite (freePage s ppn) h, true)
    | (s, true) => (afterDraw (releaseHeld (ctxCount (derefPage (setEnt s key ppn) old) 0 1) h) key, true)

/-- Serve a writer that waits for its own copy of a page. -/
def serveCopy (h : CtxHeld) (s : State) : State × Bool :=
  match h.need with
  | .copy key =>
    (match findEnt s key with
     | none => (releaseHeld s h, true)
     | some e =>
       if quarterTested s (homeQuad (e.ppn * 65536)) then (s, false) else
       match findPage s e.ppn with
       | some p => if 1 < p.ref ∧ p.state = 1 then copyShared s h key e.ppn else (releaseHeld s h, true)
       | none => (releaseHeld s h, true))
  | _ => (s, false)

/-- COPY_ON_FIRST_WRITE (R338, R339): a request that finds REF = 1 does not copy. -/
def execCopyOnFirstWrite (s : State) : Host.Outcome State Fault Refusal :=
  .next (serveHeld serveCopy s.ctx.held s)

/-! ### Snapshots (R341 to R343) -/

def snapOff : Nat := dealOff 0x1028

/-- Entries of the snapshot log. -/
def snapLogFull (s : State) : Bool :=
  decide (rfield s (dealOff 0x1030) 48 16 ≤ s.ctx.images.length)

/-- Record a before image: the log entry and the count. -/
def logImage (s : State) (page img : Nat) : State :=
  let n := s.ctx.images.length
  let at' := rfield s (dealOff 0x1030) 0 48 + 16 * (n % max 1 (rfield s (dealOff 0x1030) 48 16))
  let s := if inMemory s at'
    then putPa s managerAgent at' 16 (page * 65536 + img * 65536 * 2 ^ 64) else s
  let s := { s with ctx := { s.ctx with images := s.ctx.images ++ [(page, img)] } }
  ctxCount (rsetField s snapOff 0 32 (n + 1)) 1 1

/-- Take a page for a before image: from its reserve, then from general free pages. -/
def drawImage (s : State) (page : Nat) : Option (Nat × State) :=
  let left := shadowLeft s
  if left = 0 ∧ generalFree s ≤ 0 then none else
  (pickPage s (homeQuad (page * 65536))).map fun ppn =>
    let s := setPage s ppn (.plain 0 3)
    (ppn, if 0 < left then { s with ctx := { s.ctx with shadowUsed := s.ctx.shadowUsed + 1 } } else s)

/-- A cached translation leads to a page of the kitty. -/
def tlbReaches (page : Nat) (e : TlbEnt) : Bool :=
  let first := field e.pte 8 38 * 256
  decide (first < (page + 1) * 65536 ∧ page * 65536 < first + 2 ^ e.shift)

/-- Clear CW in an entry, drop every cached translation to the page and release the held write. -/
def unprotect (s : State) (h : CtxHeld) (page pte : Nat) : State :=
  match readPa s managerAgent pte 8 with
  | (s, v, none) =>
    let s := (writePa s managerAgent pte 8 (setField (wd v) 56 1 0).toNat).1
    releaseHeld (dropTlb s (tlbReaches page)) h
  | (s, _, some _) => failWrite s h

/-- Serve a write to a protected page; false where it must wait on. -/
def imagePage (s : State) (h : CtxHeld) (page pte : Nat) : State × Bool :=
  if s.ctx.images.any (fun x => decide (x.1 = page)) then (unprotect s h page pte, true)
  else if snapLogFull s then (stillHeld s h 3, false)
  else match drawImage s page with
    | none => (stillHeld s h 3, false)
    | some (img, s') =>
      match copyPage s' page img with
      | (s2, false) => (failWrite { freePage s2 img with ctx := { (freePage s2 img).ctx with
          shadowUsed := s.ctx.shadowUsed } } h, true)
      | (s2, true) => (unprotect (logImage s2 page img) h page pte, true)

def serveSnap (h : CtxHeld) (s : State) : State × Bool :=
  match h.need with
  | .snap page pte => if quarterTested s (homeQuad (page * 65536)) then (s, false) else imagePage s h page pte
  | _ => (s, false)

/-- SNAPSHOT_COPY (R341). While a command runs, writes to protected pages are held (R342). -/
def execSnapshotCopy (s : State) : Host.Outcome State Fault Refusal :=
  .next (if s.ctx.snapCmd ≠ 0 then s else serveHeld serveSnap s.ctx.held s)

/-- A write of CTX_SNAP.CMD; one that finds a command in progress has no effect (DESIGN CHOICE, log
entry 39). -/
def snapWrite (s : State) (cmd : Nat) : State :=
  if s.ctx.snapCmd ≠ 0 ∨ (cmd ≠ 1 ∧ cmd ≠ 2) then s else
    rsetField { s with ctx := { s.ctx with snapCmd := cmd } } snapOff 63 1 1

def execRelease (src : Sender) (s : State) : Host.Outcome State Fault Refusal :=
  .next (if mayWrite s src 1 then snapWrite s 1 else s)

def execRestore (src : Sender) (s : State) : Host.Outcome State Fault Refusal :=
  .next (if mayWrite s src 1 then snapWrite s 2 else s)

/-- SNAP_DONE (R342). -/
def execSnapDone (s : State) : Host.Outcome State Fault Refusal :=
  .next (if s.ctx.snapCmd = 0 ∨ managerTested s = true then s else
    let s := if s.ctx.snapCmd = 2
      then s.ctx.images.foldl (fun s x => (copyPage s x.2 x.1).1) s else s
    let s := s.ctx.images.foldl (fun s x => freePage s x.2) s
    let s := { s with ctx := { s.ctx with images := [], shadowUsed := 0, snapCmd := 0 } }
    let s := rsetField (rsetField s snapOff 63 1 0) snapOff 0 32 0
    ctxEvent (rsetField s snapOff 32 8 (rfield s snapOff 32 8 + 1)) 4)

/-! ### Tiering (R347 to R350) -/

def ctxMbCurrent (s : State) : Nat := rfield s (jobOff 0x58) 0 12

/-- A sequence belongs to a hand in flight. -/
def seqInHand (s : State) (q : Nat) : Bool :=
  match tabFind s.dealer.seqs q with
  | some x => x.inHand
  | none => false

/-- Entries that map a page. -/
def mappersOf (s : State) (ppn : Nat) : List Nat :=
  (s.ctx.ents.filter (fun e => decide (e.2.ppn = ppn))).map Prod.fst

/-- A page may move: it is normal, in no motion, and of no sequence in a hand in flight (R348). -/
def movable (s : State) (ppn : Nat) : Bool :=
  (match findPage s ppn with
   | some p => decide (p.state = 1)
   | none => false) &&
  s.ctx.moves.all (fun m => decide (m.src ≠ ppn)) &&
  (mappersOf s ppn).all (fun k => match keySeq k with
    | some q => !seqInHand s q
    | none => true)

/-- Blocks of a sequence ID, by key. -/
def seqKeys (s : State) (q : Nat) : List (Nat × CtxEnt) :=
  s.ctx.ents.filter (fun e => decide (keySeq e.1 = some q))

/-- Block of a sequence key, page of a stash key. -/
def keyBlock (k : Nat) : Nat := if k % 2 = 0 then k / 2 % 1024 else k / 2 % 16384

/-- Of entries, the one whose rank is lowest, the first among equals. -/
def leastBy (rank : Nat × CtxEnt → Nat × Nat) : List (Nat × CtxEnt) → Option (Nat × CtxEnt)
  | [] => none
  | e :: t =>
    match leastBy rank t with
    | none => some e
    | some f =>
      let a := rank e
      let b := rank f
      if a.1 < b.1 ∨ (a.1 = b.1 ∧ a.2 ≤ b.2) then some e else some f

/-- Candidates to leave HBM: class, and within it the order of R347. -/
def demoteRank (s : State) (k : Nat) : Option (Nat × Nat × Nat) :=
  match stashSlot k with
  | some t => if dealState s = 3 then some (1, t, 65536 - keyBlock k) else none
  | none =>
    match (keySeq k).bind (fun q => tabFind s.dealer.seqs q) with
    | none => none
    | some x =>
      match x.state with
      | .parked => some (2, x.parkAt, 65536 - keyBlock k)
      | .carry => if ctxMbCurrent s < x.mbs.1 then some (3, 0, 65536 - keyBlock k) else none
      | .live => if x.inHand then none else some (4, x.lastHand, 65536 - keyBlock k)

/-- HBM pages of the generation and evaluation partitions: pages of live and parked sequences. -/
def heldHbm (s : State) : Nat :=
  (s.ctx.pages.filter (fun e => pageInHbm e.1 && (mappersOf s e.1).any (fun k =>
    match (keySeq k).bind (fun q => tabFind s.dealer.seqs q) with
    | some x => decide (x.state ≠ SeqState.carry)
    | none => false))).length

/-- The page to demote next: in the order of R347, or for the shrink of R17 in its second row. -/
def demoteChoice (s : State) (shrink : Bool) : Option (Nat × CtxEnt) :=
  let cs := s.ctx.ents.filter (fun e => decide (e.2.tier = 0) && movable s e.2.ppn &&
    (match demoteRank s e.1 with
     | some r => !shrink || decide (r.1 = 2)
     | none => false))
  leastBy (fun e => match demoteRank s e.1 with
    | some r => (r.1, r.2.1 * 131072 + r.2.2)
    | none => (9, 0)) cs

/-- A commit of CTX_CFG or DEAL_CFG holds new page moves once no hand is being published (R515). -/
def movesHeld (s : State) : Bool := frontStages s isStoreReg && publishedAll s

/-- Start the move of the page of an entry to another tier; the page it takes is kept for it. -/
def startMove (s : State) (e : Nat × CtxEnt) (down : Bool) : State :=
  if quarterTested s (keyQuad e.1) || movesHeld s then s else
  match pickTier s (keyQuad e.1) down with
  | none => s
  | some dst =>
    match findPage s e.2.ppn with
    | none => s
    | some p =>
      let s := setPage s dst { p with state := 2, idx := false }
      let go (x : CtxEnt) : CtxEnt := if x.ppn = e.2.ppn then { x with tier := 2 } else x
      { s with ctx := { s.ctx with
          ents := s.ctx.ents.map (fun x => (x.1, go x.2))
          moves := s.ctx.moves ++ [{ key := e.1, src := e.2.ppn, dst := dst, down := down }] } }

/-- The shrink of R17 has pages left to move. -/
def shrinkDue (s : State) : Bool :=
  s.dealer.shrinking && decide (rfield s (jobOff 0x50) 0 32 < heldHbm s)

/-- TIER_DEMOTE (R347, R17): demotion below HBM_LOW goes on up to HBM_HIGH. -/
def execTierDemote (s : State) : Host.Outcome State Fault Refusal :=
  let free := freeTier s false
  let low := rfield s (dealOff 0x1010) 0 28
  let high := rfield s (dealOff 0x1010) 28 28
  let on := if s.ctx.demoting then decide (free < high) else decide (free < low)
  let s := { s with ctx := { s.ctx with demoting := on } }
  .next (match (if on then demoteChoice s false else none) with
    | some e => startMove s e true
    | none =>
      if shrinkDue s then
        match demoteChoice s true with
        | some e => startMove s e true
        | none => s
      else { s with ctx := { s.ctx with demoting := false } })

/-- Candidates to return to HBM (R349): blocks of sequences due for a hand, and in PACKED the stash
and carry pages of the micro-batches that follow CTX_MB.CURRENT going back through the list. -/
def fetchRank (s : State) (k : Nat) : Option (Nat × Nat) :=
  let cur := ctxMbCurrent s
  let near (m : Nat) : Bool := decide (m < cur ∧ cur ≤ m + rfield s (dealOff 0x1010) 60 4)
  match stashSlot k with
  | some t => if dealState s = 3 && near t then some (cur - t, keyBlock k) else none
  | none =>
    match (keySeq k).bind (fun q => tabFind s.dealer.seqs q) with
    | none => none
    | some x =>
      match x.state with
      | .parked => none
      | .carry => if dealState s = 3 && (List.range (x.mbs.2 + 1 - x.mbs.1)).any (fun j => near (x.mbs.1 + j))
          then some (cur - x.mbs.1, keyBlock k) else none
      | .live => if dealState s = 1 && !x.inHand then some (x.lastHand, keyBlock k) else none

/-- TIER_FETCH (R349, R18). -/
def execTierFetch (s : State) : Host.Outcome State Fault Refusal :=
  let cs := s.ctx.ents.filter (fun e => decide (e.2.tier = 1) && movable s e.2.ppn &&
    (fetchRank s e.1).isSome)
  .next (match leastBy (fun e => (fetchRank s e.1).getD (0, 0)) cs with
    | some e => startMove s e false
    | none => s)

/-- Release the writers whose move is over: their entry is no longer in motion, or is gone (R350). -/
def freeMoved (s : State) : State :=
  (s.ctx.held.filter (fun h => match h.need with
    | .move k => (match findEnt s k with
      | some e => decide (e.tier ≠ 2)
      | none => true)
    | _ => false)).foldl releaseHeld s

/-- The entries of a page name another page. -/
def remap (s : State) (src dst : Nat) : State :=
  let tier := if pageInHbm dst then 0 else 1
  let go (x : CtxEnt) : CtxEnt := if x.ppn = src then { tier := tier, ppn := dst } else x
  { s with ctx := { s.ctx with
      ents := s.ctx.ents.map (fun x => (x.1, go x.2))
      index := s.ctx.index.map (fun e => if e.ppn = src then { e with ppn := dst } else e) } }

/-- End a move: the page is copied, its entries name the new page and the old one is free. A page
that cannot be read stays where it was (R463); one that nothing maps any more is not moved. -/
def finishMove (s : State) (m : CtxMove) : State :=
  match findPage s m.src with
  | none => freeMoved (freePage s m.dst)
  | some p =>
    if p.ref = 0 then freeMoved (freePage (freePage s m.src) m.dst) else
    match copyPage s m.src m.dst with
    | (s, false) => freeMoved (remap (freePage s m.dst) m.src m.src)
    | (s, true) =>
      let s := remap s m.src m.dst
      let s := { s with ctx := { s.ctx with pages := tabDel s.ctx.pages m.src } }
      freeMoved (ctxCount (setPage s m.dst p) (if m.down then 4 else 5) 1)

/-- TIER_MOVE_DONE (R350). -/
def execTierMoveDone (s : State) : Host.Outcome State Fault Refusal :=
  .next (match s.ctx.moves with
    | [] => s
    | m :: t => if quarterTested s (keyQuad m.key) then s else finishMove { s with ctx := { s.ctx with moves := t } } m)

/-- CTX_MB_WRITE (R349). -/
def execCtxMbWrite (src : Sender) (val : BitVec 64) (s : State) : Host.Outcome State Fault Refusal :=
  .next (if mayWrite s src 3 then rset s (jobOff 0x58) (val &&& 0xFFF) else s)

/-- A write of CTX_STASH_FREE. -/
def stashFreeWrite (s : State) (val : Word) : State :=
  freeStash s (if bit val 8 then none else some (field val 0 8))

def execCtxStashFree (src : Sender) (val : BitVec 64) (s : State) : Host.Outcome State Fault Refusal :=
  .next (if mayWrite s src 3 then stashFreeWrite s val else s)

end Sys2Proof.Machine
end

