-- ==== Sys2Proof/Machine/Deal.lean ====
section
/-! DEFINITION. The dealer: admission (R351 to R355, R335, R337), hands (R356 to R359, R336, R340),
phase commands (R12 to R16, R21, R30), packing (R364 to R366) and the pool (R360 to R363). -/

namespace Sys2Proof.Machine

open Sys2Proof

/-! ### Publication (R358, R366) -/

/-- Source queue number of the dealer's packets, and its agent number. Bit 31 of a tag tells them from the
packets of threads (DESIGN CHOICE, log entry 40). -/
def dealSq : Nat := 0xFE
def dealTag (tag : BitVec 32) : BitVec 32 := 0x80000000 ||| tag
def dealerAgent : Nat := 4099

/-- The devices of DEAL_GROUP. -/
def groupDevices (s : State) : List (BitVec 20) :=
  (List.range 16).filterMap fun k =>
    let w := rget s (dealOff (0x10100 + 8 * k))
    if bit w 63 then some (w.truncate 20) else none

/-- Signal an object on a device of the group. -/
def dealSignal (s : State) (dev : BitVec 20) (obj : Nat) : State :=
  if dev = s.devId then unitSignal s obj 1
  else (emitPacket s 6 dealerAgent none (sigFrom s dev dealSq 0xFFFFFFFF obj 1 0)).1

/-- Send words to an address of another device in PUT packets of at most 4,096 bytes: the tags to be
acknowledged with the port each left by; none where no port serves the device. -/
def sendWords (dev : BitVec 20) : Nat → List Word → Nat → State → State × Option (List (BitVec 32 × Nat))
  | 0, _, _, s => (s, some [])
  | n + 1, ws, va, s =>
    if ws.isEmpty then (s, some []) else
    let now := ws.take 512
    let tag := dealTag s.nextTag
    let p := { packetTo s .put dev dealSq tag with
      len := BitVec.ofNat 16 (8 * now.length), addr := BitVec.ofNat 48 va
      data := now.flatMap (fun w => bytesOf 8 w.toNat) }
    match emitPacket { s with nextTag := s.nextTag + 1 } 6 dealerAgent none p with
    | (s, none) => (s, none)
    | (s, some port) =>
      match sendWords dev n (ws.drop 512) (va + 4096) s with
      | (s, some ts) => (s, some ((tag, port) :: ts))
      | x => x

/-- Send runs of words to one device: the tags to be acknowledged; none where no port serves it. -/
def sendRuns (dev : BitVec 20) : List (Nat × List Word) → State → State × Option (List (BitVec 32 × Nat))
  | [], s => (s, some [])
  | (va, ws) :: t, s =>
    match sendWords dev (ws.length + 1) ws va s with
    | (s, none) => (s, none)
    | (s, some us) =>
      match sendRuns dev t s with
      | (s, some vs) => (s, some (us ++ vs))
      | x => x

/-- Send the signals of the publications whose writes are done on every device, oldest first. -/
def signalPubs : List DealPub → State → State
  | [], s => modDealer s fun d => { d with pubs := [] }
  | p :: t, s =>
    if p.tags.isEmpty then signalPubs t (p.devs.foldl (fun s dev => dealSignal s dev p.obj) s)
    else modDealer s fun d => { d with pubs := p :: t }

/-- The dealer's own writes are done too, none of them held. -/
def sendPubs (s : State) : State :=
  if s.dealer.out.isEmpty && s.writes.all (fun w => decide (otherAgent ∉ w.agents))
  then signalPubs s.dealer.pubs s else s

/-- Write runs of words on every device of the group, and signal each once all those writes are done, as
after f.sys (R358). A device that no port serves is left out (DESIGN CHOICE, log entry 40). -/
def publish (s : State) (obj : Nat) (runs : List (Nat × List Word)) : State :=
  let all := groupDevices s
  let own := all.filter (fun dev => decide (dev = s.devId))
  let s := if own.isEmpty then s else runs.foldl (fun s r => dealWriteWords r.2 r.1 s) s
  let r := (all.filter (fun dev => decide (dev ≠ s.devId))).foldl
    (fun (r : State × List (BitVec 20) × List (BitVec 32 × BitVec 20 × Nat)) dev =>
      match sendRuns dev runs r.1 with
      | (s, some ts) => (s, r.2.1 ++ [dev], r.2.2 ++ ts.map (fun t => (t.1, dev, t.2)))
      | (s, none) => (s, r.2)) (s, [], [])
  sendPubs (modDealer r.1 fun d =>
    { d with pubs := d.pubs ++ [{ devs := own ++ r.2.1, obj := obj, tags := r.2.2 }] })

/-- A publication without a device: its writes are lost, and it gets no signal. -/
def dropDevice (p : DealPub) (dev : BitVec 20) : DealPub :=
  { p with devs := p.devs.filter (fun d => decide (d ≠ dev))
           tags := p.tags.filter (fun t => decide (t.2.1 ≠ dev)) }

/-- An acknowledgement of a dealer's write; one that failed drops its device. -/
def pubAcked (s : State) (tag : BitVec 32) (good : Bool) : State :=
  let ack (p : DealPub) : DealPub :=
    match p.tags.find? (fun t => decide (t.1 = tag)) with
    | none => p
    | some t => if good then { p with tags := p.tags.filter (fun x => decide (x.1 ≠ tag)) }
      else dropDevice p t.2.1
  sendPubs (modDealer s fun d => { d with pubs := d.pubs.map ack })

/-! ### Forwarded commands (R16, R30) -/

def isLead (s : State) : Bool := bit (rget s (dealOff 0x10000)) 48

/-- The lead forwards a phase command to the other devices of the group, in a MGMT packet with OBJ =
0x100 + CMD and VALUE = VERSION (DESIGN CHOICE, log entry 43). -/
def forwardCmd (s : State) (cmd : Nat) (version : BitVec 32) : State :=
  if !isLead s then s else
  ((groupDevices s).filter (fun dev => decide (dev ≠ s.devId))).foldl (fun s dev =>
    (emitPacket s 6 dealerAgent none { packetTo s .mgmt dev dealSq 0xFFFFFFFF with
      obj := BitVec.ofNat 16 (0x100 + cmd), value := version }).1) s

/-! ### The prompt queue (R351, R352) -/

def pqNext (s : State) : Nat := rfield s (jobOff 0x40) 0 32

/-- What stands at the head of the prompt queue: an entry, nothing, or one that cannot be read. -/
def headEntry (s : State) : State × Option (List Word) × Bool :=
  match s.dealer.requeued with
  | e :: _ => (s, some e, false)
  | [] =>
    let n := dealCount s 0
    let k := pqNext s
    if n = 0 then (s, none, false) else
    match readWords (dealAgent s) 8 s (wd (dealBase s 0 + 64 * (k % n))) with
    | (s, .inl ws) =>
      let ready := field ((ws.drop 7).headD 0) 0 32
      (s, if ready = (k / n + 1) % 2 ^ 32 then some ws else none, false)
    | (s, .inr e) => (s, none, decide (0x40 ≤ e.1.toNat))

/-- Consume the entry at the head. -/
def consumeEntry (s : State) : State :=
  match s.dealer.requeued with
  | _ :: t => modDealer s fun d => { d with requeued := t }
  | [] => rsetField s (jobOff 0x40) 0 32 (pqNext s + 1)

/-- Fields of a prompt entry. -/
def entWord (e : List Word) (k : Nat) : Word := (e.drop k).headD 0
def entPlen (e : List Word) : Nat := field (entWord e 1) 0 32
def entCopies (e : List Word) : Nat := field (entWord e 1) 32 8 + 1
def entPart (e : List Word) : Bool := bit (entWord e 1) 40
def entLimit (s : State) (e : List Word) : Nat := min (entPlen e + field (entWord e 2) 0 32) (maxTokens s)

/-- Read tokens of 32 bits from an address up. -/
def readTokens (s : State) : Nat → Nat → State × Option (List Nat)
  | 0, _ => (s, some [])
  | n + 1, va =>
    match readVa (dealAgent s) s (wd va) 4 with
    | (s, .inr _) => (s, none)
    | (s, .inl v) =>
      match readTokens s n (va + 4) with
      | (s, some vs) => (s, some (v :: vs))
      | x => x

/-- A sequence as admission makes it. -/
def entSequence (s : State) (e : List Word) (grp c slot : Nat) : Sequence :=
  { state := .live, part := entPart e, grp := grp, copy := c, slot := slot, plen := entPlen e
    len := entPlen e, limit := entLimit s e, promptId := (entWord e 2 >>> 32).truncate 32
    user := entWord e 5 ++ entWord e 4
    skey := (entWord e 3).truncate 32 + BitVec.ofNat 32 c, changes := [], lastHand := 0
    inHand := false, prefilled := false, ending := none, pinned := 0, parkAt := 0
    h64 := hashStart.1, h32 := hashStart.2, tag := some (weightTag s (entPart e)), mbs := (0, 0) }

/-- Reject the entry at the head (R352); false where its pool has no room. -/
def rejectEntry (s : State) (e : List Word) : State × Bool :=
  if poolFull s (entPart e) then (s, false) else
  let x := { entSequence s e 0 0 0 with len := 0 }
  (dealEvent (consumeEntry (writeRecord s (entPart e) x 6 none)) 5, true)

/-! ### Prefix lookup and admission (R335, R337, R353 to R355) -/

/-- The hashes after each whole block of tokens, and after all of them. -/
def blockHashes (bt : Nat) : List Nat → Nat → Word × BitVec 32 →
    List (Word × BitVec 32) × (Word × BitVec 32)
  | [], _, h => ([], h)
  | t :: ts, k, h =>
    let h := hashStep h t
    let r := blockHashes bt ts (k + 1) h
    if (k + 1) % bt = 0 then (h :: r.1, r.2) else r

/-- The indexed page of a key, if n more mappings fit. -/
def indexHit (s : State) (tag : BitVec 32) (h : Word × BitVec 32) (n shard : Nat) : Option Nat :=
  match s.ctx.index.find? (fun e =>
      decide (e.tag = tag ∧ e.shard = shard ∧ e.h64 = h.1 ∧ e.h32 = h.2)) with
  | none => none
  | some e =>
    match findPage s e.ppn with
    | some p => if p.ref + n ≤ 65535 then some e.ppn else none
    | none => none

/-- Blocks from the first whose every shard hits, with their pages. -/
def prefixHits (s : State) (tag : BitVec 32) (n : Nat) : List (Word × BitVec 32) → List (List Nat)
  | [] => []
  | h :: t =>
    let ps := (List.range (ctxShards s)).map (indexHit s tag h n)
    if ps.all (·.isSome) then ps.map (·.getD 0) :: prefixHits s tag n t else []

/-- Map a page into block b, shard sh of each sequence. -/
def mapAll (s : State) (ids : List Nat) (sh b ppn : Nat) : State :=
  let tier := if s.ctx.moves.any (fun m => decide (m.src = ppn)) then 2
    else if pageInHbm ppn then 0 else 1
  { s with ctx := { s.ctx with
      ents := ids.foldl (fun t q => tabPut t (seqKey q sh b) { tier := tier, ppn := ppn }) s.ctx.ents } }

/-- Map a page that hit and add to its REF. -/
def mapHit (ids : List Nat) (b : Nat) (s : State) (x : Nat × Nat) : State :=
  match findPage s x.2 with
  | some p => mapAll (setPage s x.2 { p with ref := p.ref + ids.length }) ids x.1 b x.2
  | none => s

/-- Allocate a prefill page. -/
def mapFilling (ids : List Nat) (tag : BitVec 32) (b : Nat) (h : Option (Word × BitVec 32)) (s : State)
    (sh : Nat) : State :=
  match pickPage s ((sh + b) % 4) with
  | none => s
  | some ppn =>
    let k := h.getD (0, 0)
    mapAll (setPage s ppn { PageRec.plain ids.length 2 with
      h64 := k.1, h32 := k.2, tag := if h.isSome then tag else 0, shard := sh }) ids sh b ppn

/-- Write a prompt's tokens into a slot. -/
def writeTokens (slot : Nat) : List Nat → Nat → State → State
  | [], _, s => s
  | t :: ts, p, s => writeTokens slot ts (p + 1) (dealWrite s (tokenAddr s slot p) 4 t)

/-- Admit a group (R337, R355). -/
def admitGroup (s : State) (e : List Word) (toks : List Nat) (hs : List (Word × BitVec 32))
    (last : Word × BitVec 32) (hits : List (List Nat)) : State :=
  let n := entCopies e
  let part := entPart e
  let l := entPlen e
  let bt := blockTokens s
  let tag := weightTag s part
  let ids := (freeIds s part).take n
  let slots := (freeSlots s).take n
  let s := consumeEntry s
  let id := s.dealer.nextGroup
  let ready := decide (l ≤ hits.length * bt + 1)
  let s := ((List.range n).zip (ids.zip slots)).foldl (fun s x =>
    setSeq (writeTokens x.2.2 toks 0 s) x.2.1
      { entSequence s e id x.1 x.2.2 with h64 := last.1, h32 := last.2, prefilled := ready }) s
  let s := ((List.range hits.length).zip hits).foldl (fun s x =>
    ((List.range x.2.length).zip x.2).foldl (mapHit ids x.1) s) s
  let s := ctxCount s 2 (hits.length * ctxShards s)
  let s := ((List.range ((l - 1) / bt + 1)).drop hits.length).foldl (fun s b =>
    (List.range (ctxShards s)).foldl (mapFilling ids tag b (hs[b]?)) s) s
  let s := if ready then { s with ctx := { s.ctx with pages := s.ctx.pages.map (fun x =>
      if x.2.state = 2 ∧ s.ctx.moves.all (fun m => decide (m.dst ≠ x.1)) ∧
          (mappersOf s x.1).any (fun k => decide (keySeq k = ids.head?))
      then (x.1, { x.2 with state := 1 }) else x) } } else s
  modDealer s fun d => { d with
    nextGroup := id + 1
    groups := d.groups ++ [{ id := id, part := part, first := ids.headD 0, copies := n, plen := l
                             pos := hits.length * bt, skey := (entWord e 3).truncate 32
                             entry := e, started := ready, filled := ready }] }

/-- The general free pages that an entry's group needs (R354). -/
def pageNeed (s : State) (e : List Word) (hits : Nat) : Nat :=
  rfield s (dealOff 0x1008) 32 32 +
    ((entPlen e - 1) / blockTokens s + 1 - hits) * ctxShards s + entCopies e * ctxShards s

/-- The condition of R354 that fails first, as its bit of DEAL_STATUS.STOP. -/
def admitStop (s : State) (e : List Word) (hits admitted : Nat) : Option Nat :=
  let n := entCopies e
  let part := entPart e
  if partLimit s part < liveOf s part + n then some 0
  else if (freeIds s part).length < n then some 1
  else if (freeSlots s).length < n then some 2
  else if generalFree s < pageNeed s e hits then some 3
  else if rfield s (jobOff 0x10) 0 8 ≤ admitted then some 4
  else none

/-- Show the condition that ended admission; a failure of the page condition raises KITTY_LOW once
until it clears. -/
def stopAdmission (s : State) (k : Nat) : State :=
  let s := rsetField s (jobOff 8) 48 8 (2 ^ k)
  if k = 3 then
    if s.ctx.lowRaised then s else ctxEvent { s with ctx := { s.ctx with lowRaised := true } } 1
  else s

/-- Admit from the head of the queue, in order (R353). -/
def admitLoop : Nat → Nat → State → State
  | 0, _, s => s
  | fuel + 1, admitted, s =>
    match headEntry s with
    | (s, none, false) => stopAdmission s 5
    | (s, none, true) =>
      match rejectEntry s [] with
      | (s, true) => admitLoop fuel admitted s
      | (s, false) => s
    | (s, some e, _) =>
      let l := entPlen e
      let reject (s : State) : State := match rejectEntry s e with
        | (s, true) => admitLoop fuel admitted s
        | (s, false) => s
      if l = 0 ∨ entLimit s e ≤ l ∨ partLimit s (entPart e) < entCopies e then reject s else
      match readTokens s l (entWord e 0).toNat with
      | (s, none) => reject s
      | (s, some toks) =>
        let bt := blockTokens s
        let r := blockHashes bt toks 0 hashStart
        let hits := prefixHits s (weightTag s (entPart e)) (entCopies e) (r.1.take ((l - 1) / bt))
        let s := if generalFree s < pageNeed s e hits.length then s
          else { s with ctx := { s.ctx with lowRaised := false } }
        match admitStop s e hits.length admitted with
        | some k => stopAdmission s k
        | none =>
          admitLoop fuel (admitted + 1) (admitGroup s e toks r.1 r.2 hits)

/-- Version policy of a partition (R21): 0 CONTINUE, 1 RETIRE, 2 HOLD; the reserved value acts as
HOLD (DESIGN CHOICE, log entry 41). -/
def partPolicy (s : State) (part : Bool) : Nat := rfield s (dealOff 0x10008) (if part then 34 else 32) 2

/-- Parked sequences that may run return (R353). -/
def returnParked (s : State) : State :=
  modDealer s fun d => { d with seqs := d.seqs.map (fun e =>
    if e.2.state = .parked ∧ e.2.ending = none ∧
        (partPolicy s e.2.part = 0 ∨ e.2.pinned = d.version)
    then (e.1, { e.2 with state := .live }) else e) }

/-! ### Hands (R356 to R359) -/

/-- A test of the dealer is in progress, and its work is held (R469). -/
def dealerTested (s : State) : Bool := (List.range 4).any (fun q => unitTested s q 6)

/-- The dealer publishes nothing: its test is in progress, or a commit of CTX_CFG or DEAL_CFG holds it (R469,
R515). -/
def dealerHeld (s : State) : Bool := dealerTested s || frontStages s isStoreReg

/-- Slots that no hand in flight holds. -/
def handSlots (s : State) : List Nat :=
  (List.range (rfield s (dealOff 0x10000) 12 4 + 1)).filter (fun k =>
    s.dealer.hands.all (fun h => decide (h.slot ≠ k)))

/-- All pages of a sequence are in HBM. -/
def inHbmAll (s : State) (q : Nat) : Bool := (seqKeys s q).all (fun e => decide (e.2.tier = 0))

/-- A sequence is ready (R357). -/
def seqReady (s : State) (q : Nat) (x : Sequence) : Bool :=
  decide (x.state = .live) && !x.inHand && x.prefilled && x.ending.isNone && inHbmAll s q

/-- The pages of a group that was parked have returned to HBM (R18). Its FILLING pages hold nothing yet
and stay where they are (R348). -/
def groupHome (s : State) (g : PromptGroup) : Bool :=
  (groupSeqs s g).all (fun x => decide (x.2.parkAt = 0) || (seqKeys s x.1).all (fun e =>
    decide (e.2.tier = 0) || (match findPage s e.2.ppn with
      | some p => decide (p.state = 2)
      | none => false)))

/-- Groups that await their prefill hand, in admission order: their sequences are live (R21). -/
def waitingGroups (s : State) (part : Bool) : List PromptGroup :=
  (s.dealer.groups.filter (fun g => g.part == part && !g.started && !(groupSeqs s g).isEmpty &&
    (groupSeqs s g).all (fun e => decide (e.2.state = SeqState.live)))).takeWhile (groupHome s)

/-- Rows of a group's prefill: positions POS to L - 2. -/
def prefillRows (g : PromptGroup) : Nat := g.plen - 1 - g.pos

/-- Groups of a prefill hand, while the rows total no more than the limit. -/
def takeGroups (limit : Nat) : List PromptGroup → Nat → List PromptGroup
  | [], _ => []
  | g :: t, rows =>
    if rows = 0 ∨ rows + prefillRows g ≤ limit then
      if limit < prefillRows g then [g] else g :: takeGroups limit t (rows + prefillRows g)
    else []

/-- Insert a ready sequence in ascending order of its last hand, with the ID breaking ties. -/
def insertReady (x : Nat × Sequence) : List (Nat × Sequence) → List (Nat × Sequence)
  | [] => [x]
  | y :: t => if x.2.lastHand < y.2.lastHand ∨ (x.2.lastHand = y.2.lastHand ∧ x.1 < y.1)
      then x :: y :: t else y :: insertReady x t

/-- The words of a hand. -/
def handWords (s : State) (h : HandRec) (ents : List (Word × Word)) (rows : Nat) : List Word :=
  [wd (h.id % 2 ^ 32 + b2n h.prefill * 2 ^ 32 + b2n h.part * 2 ^ 33 + (ents.length - 1) % 256 * 2 ^ 40),
   h.version ++ BitVec.ofNat 32 rows,
   if h.part then wd (rfield s (dealOff 0x10070) 0 48) else 0, 0, 0, 0, 0, 0] ++
  ents.flatMap (fun e => [e.1, e.2])

def entryWords (seq copies pos rows : Nat) (skey : BitVec 32) : Word × Word :=
  (wd (seq % 4096 + (copies - 1) % 256 * 2 ^ 12 + pos % 2 ^ 32 * 2 ^ 32), skey ++ BitVec.ofNat 32 rows)

/-- Publish a hand in a slot and count it in flight. -/
def putHand (s : State) (slot : Nat) (pre part : Bool) (entries : List (Nat × Nat × Nat))
    (ents : List (Word × Word)) : State :=
  let id := s.dealer.nextHand
  let h : HandRec := { id := id, slot := slot, prefill := pre, part := part
                       version := weightTag s part, entries := entries }
  let rows := (entries.map (fun e => e.2.2)).sum
  let s := modDealer s fun d => { d with
    hands := d.hands ++ [h], nextHand := id + 1, turn := !part }
  publish s (rfield s (dealOff 0x10010) 0 16)
    [(dealBase s 3 + 8192 * slot, handWords s h ents rows)]

/-- Sequences join a hand. -/
def joinHand (s : State) (p : Sequence → Bool) (q? : List Nat) : State :=
  modDealer s fun d => { d with seqs := d.seqs.map (fun e =>
    if p e.2 || decide (e.1 ∈ q?)
    then (e.1, { e.2 with inHand := true, lastHand := d.nextHand + 1 }) else e) }

/-- The entry of a group in a prefill hand: its first copy that is left, and how many are. -/
def groupEntry (s : State) (g : PromptGroup) : Word × Word :=
  let mine := groupSeqs s g
  entryWords ((mine.head?.map Prod.fst).getD g.first) mine.length g.pos (prefillRows g) g.skey

/-- A prefill hand of a partition. -/
def formPrefill (s : State) (part : Bool) (slot : Nat) (gs : List PromptGroup) : State :=
  let ids := gs.map (·.id)
  let ents := gs.map (groupEntry s)
  let s := joinHand s (fun x => decide (x.state ≠ .carry ∧ x.grp ∈ ids) && x.ending.isNone) []
  let s := modDealer s fun d => { d with groups := d.groups.map (fun g =>
    if g.id ∈ ids then { g with started := true } else g) }
  putHand s slot true part (gs.map (fun g => (g.id, g.pos, prefillRows g))) ents

/-- A decode hand of a partition. -/
def formDecode (s : State) (part : Bool) (slot : Nat) (xs : List (Nat × Sequence)) : State :=
  let s := joinHand s (fun _ => false) (xs.map Prod.fst)
  putHand s slot false part (xs.map (fun e => (e.1, e.2.len - 1, 1)))
    (xs.map (fun e => entryWords e.1 1 (e.2.len - 1) 1 e.2.skey))

/-- Form a hand of one partition; none where it has nothing ready. -/
def formPart (s : State) (part : Bool) : Option State :=
  match handSlots s with
  | [] => none
  | slot :: more =>
    match takeGroups (rfield s (dealOff 0x10000) 16 32) ((waitingGroups s part).take 256) 0 with
    | g :: gs => some (formPrefill s part slot (g :: gs))
    | [] =>
      let ready := (s.dealer.seqs.filter (fun e => e.2.part == part && seqReady s e.1 e.2)).foldl
        (fun a e => insertReady e a) []
      let free := more.length + 1
      let n := min (rfield s (dealOff 0x10000) 0 9) ((ready.length + free - 1) / free)
      if n = 0 then none else some (formDecode s part slot (ready.take n))

/-- FORM_HAND (R353, R357, R358), by the lead of the group alone (R30). After an empty start the dealer
forms no hand (R12). -/
def execFormHand (s : State) : Host.Outcome State Fault Refusal :=
  .next (if !isLead s ∨ dealerHeld s = true ∨ dealState s ≠ 1 ∨ bit (rget s (jobOff 8)) 10 = true ∨ (handSlots s).isEmpty = true
    then s else
    let s := rsetField (returnParked s) (jobOff 8) 48 8 0
    let s := admitLoop (dealCount s 0 + s.dealer.requeued.length + 1) 0 s
    match formPart s s.dealer.turn with
    | some s => s
    | none => (formPart s (!s.dealer.turn)).getD s)

/-! ### The prefix index (R336) -/

def bucketOf (s : State) (e : IdxEnt) : Nat :=
  Config.indexBucket (e.h64.toNat + 2 ^ 64 * (e.h32.toNat + 2 ^ 32 * (e.tag.toNat + 2 ^ 32 * e.shard))) %
    2 ^ (field (ctxCfg s) 51 5 - 2)

/-- Enter a key; a full bucket of 4 drops its oldest entry. -/
def indexAdd (s : State) (e : IdxEnt) : State :=
  if s.ctx.index.any (fun x => decide (x.tag = e.tag ∧ x.shard = e.shard ∧ x.h64 = e.h64 ∧ x.h32 = e.h32))
  then s else
  let b := bucketOf s e
  let mine := s.ctx.index.filter (fun x => decide (bucketOf s x = b))
  let s := match (if mine.length < 4 then none else mine.head?) with
    | some o =>
      let s := { s with ctx := { s.ctx with index := s.ctx.index.filter (fun x => decide (x ≠ o)) } }
      match findPage s o.ppn with
      | some p => setPage s o.ppn { p with idx := false }
      | none => s
    | none => s
  let s := { s with ctx := { s.ctx with index := s.ctx.index ++ [e] } }
  let s := ctxCount s 3 1
  match findPage s e.ppn with
  | some p => setPage s e.ppn { p with idx := true, h64 := e.h64, h32 := e.h32, tag := e.tag, shard := e.shard }
  | none => s

/-- Enter block b of a sequence, every shard, under a key. -/
def indexBlock (s : State) (q b : Nat) (tag : BitVec 32) (h : Word × BitVec 32) : State :=
  (List.range (ctxShards s)).foldl (fun s sh =>
    match findEnt s (seqKey q sh b) with
    | some e => indexAdd s { tag := tag, shard := sh, h64 := h.1, h32 := h.2, ppn := e.ppn }
    | none => s) s

/-! ### Completion of a hand (R359, R360, R362) -/

/-- Add a change point where the sampling version differs from the one before; none where a ninth
would be needed. -/
def addChange (x : Sequence) (v : BitVec 32) : Option Sequence :=
  if (x.changes.getLast?.map Prod.snd) = some v then some x
  else if x.changes.length < 8
  then some { x with changes := x.changes ++ [(BitVec.ofNat 32 x.len, v)] } else none

/-- Token is one of the end tokens. -/
def isEndToken (s : State) (tok : Nat) : Bool :=
  (List.range 4).any (fun k =>
    let w := rget s (dealOff (0x10080 + 8 * k))
    bit w 32 && decide (field w 0 32 = tok))

/-- Park a sequence that is live (R14). Its pinned version is the working version at that moment, at RESET too
(DESIGN CHOICE, log entry 148). -/
def parkSeq (s : State) (q : Nat) : State :=
  match tabFind s.dealer.seqs q with
  | some x =>
    if x.state = .live then
      modDealer (setSeq s q { x with state := .parked, inHand := false, pinned := s.dealer.version
                                     parkAt := s.dealer.parks + 1 })
        fun d => { d with parks := d.parks + 1 }
    else s
  | none => s

/-- The weight tag of a sequence once a decode hand has filled its last position: that of the hand, where every
position so far has it (R336). -/
def tagAfter (h : HandRec) (y : Sequence) : Option (BitVec 32) :=
  if y.len = 1 ∨ y.tag = some h.version then some h.version else none

/-- A sequence whose token cannot be read leaves the hand without it and is dealt again (R463; log entry
36). -/
def missToken (s : State) (q : Nat) (y : Sequence) (wanted : Option (BitVec 4)) : State :=
  let s := setSeq s q { y with inHand := false, ending := none }
  match wanted with
  | some st => retireSeq s q st.toNat
  | none => if dealState s = 2 then parkSeq s q else s

/-- A sequence of a completed decode hand takes its token. -/
def takeToken (h : HandRec) (s : State) (x : (Nat × Nat × Nat) × Option Nat) : State :=
  let q := x.1.1
  match tabFind s.dealer.seqs q with
  | none => s
  | some y =>
    if !y.inHand || decide (y.lastHand ≠ h.id + 1) then s else
    let wanted := y.ending
    match x.2 with
    | none => missToken s q y wanted
    | some tok =>
    let y := { y with inHand := false, ending := none, tag := tagAfter h y }
    let bt := blockTokens s
    let s := setSeq s q y
    let s := match y.tag with
      | some t => if y.len % bt = 0 then indexBlock s q (y.len / bt - 1) t (y.h64, y.h32) else s
      | none => s
    match addChange y h.version with
    | none => retireSeq s q ((wanted.getD 3).toNat)
    | some y =>
      let s := dealWrite s (tokenAddr s y.slot y.len) 4 tok
      let g := hashStep (y.h64, y.h32) tok
      let y := { y with len := y.len + 1, h64 := g.1, h32 := g.2 }
      let s := setSeq s q y
      match wanted with
      | some st => retireSeq s q st.toNat
      | none =>
        if isEndToken s tok then retireSeq s q 1
        else if y.limit ≤ y.len then retireSeq s q 2
        else if dealState s = 2 then parkSeq s q else s

/-- Read the sampled tokens of a decode hand; none for one that cannot be read. -/
def readOuts (slot : Nat) : Nat → Nat → State → State × List (Option Nat)
  | 0, _, s => (s, [])
  | n + 1, k, s =>
    let r := readVa (dealAgent s) s (wd (dealBase s 3 + 8192 * slot + 0x1040 + 4 * k)) 4
    let v := match r.2 with
      | .inl v => some v
      | .inr _ => none
    let t := readOuts slot n (k + 1) r.1
    (t.1, v :: t.2)

/-- The FILLING pages of a sequence become normal, and its whole blocks enter the index under a weight tag,
if it has one (R336, R340). -/
def fillSeq (g : PromptGroup) (tag : Option (BitVec 32)) (s : State) (q : Nat) : State :=
  let bt := blockTokens s
  (List.range ((g.plen - 1) / bt + 1)).foldl (fun s b =>
    (List.range (ctxShards s)).foldl (fun s sh =>
      match findEnt s (seqKey q sh b) with
      | none => s
      | some e =>
        match findPage s e.ppn with
        | none => s
        | some p =>
          if p.state ≠ 2 then s else
          let s := setPage s e.ppn { p with state := 1 }
          match tag with
          | none => s
          | some t => if (b + 1) * bt ≤ g.plen - 1
            then indexAdd s { tag := t, shard := sh, h64 := p.h64, h32 := p.h32, ppn := e.ppn } else s) s) s

/-- The weight tag of a sequence after its prefill: the blocks that its admission found keep their tag. -/
def filledTag (h : HandRec) (g : PromptGroup) (x : Sequence) : Option (BitVec 32) :=
  if g.pos = 0 ∨ x.tag = some h.version then some h.version else none

/-- A sequence of a completed prefill hand retires or is parked, if either is due. -/
def afterPrefill (s : State) (q : Nat) : State :=
  match tabFind s.dealer.seqs q with
  | none => s
  | some x =>
    match x.ending with
    | some st => retireSeq (setSeq s q { x with ending := none }) q st.toNat
    | none => if dealState s = 2 then parkSeq s q else s

/-- A group of a completed prefill hand is filled, by whichever of its sequences are left. -/
def donePrefill (h : HandRec) (s : State) (id : Nat) : State :=
  match s.dealer.groups.find? (fun g => decide (g.id = id)) with
  | none => s
  | some g =>
    let mine := s.dealer.seqs.filter (fun e => decide (e.2.grp = id ∧ e.2.state ≠ .carry))
    let s := mine.foldl (fun s e => fillSeq g (filledTag h g e.2) s e.1) s
    let s := modDealer s fun d => { d with
      groups := d.groups.map (fun x => if x.id = id then { x with filled := true } else x)
      seqs := d.seqs.map (fun e => if e.2.grp = id ∧ e.2.state ≠ .carry
        then (e.1, { e.2 with prefilled := true, inHand := false, tag := filledTag h g e.2 }) else e) }
    (mine.map Prod.fst).foldl afterPrefill s

/-- Page records age at each hand completion: pages of the hand's sequences are newest (DESIGN CHOICE,
log entry 42). -/
def agePages (s : State) (h : HandRec) : State :=
  let mine (ppn : Nat) : Bool := (mappersOf s ppn).any (fun k =>
    match (keySeq k).bind (fun q => tabFind s.dealer.seqs q) with
    | some x => decide (x.lastHand = h.id + 1)
    | none => false)
  { s with ctx := { s.ctx with pages := s.ctx.pages.map (fun e =>
      (e.1, { e.2 with age := if mine e.1 then 0 else min 3 (e.2.age + 1) })) } }

/-- The object that counts completed hands. -/
def doneObject (s : State) : Nat := rfield s (dealOff 0x10010) 16 16

/-- HAND_DONE (R359): one unit of DONE completes the oldest hand. -/
def execHandDone (s : State) : Host.Outcome State Fault Refusal :=
  let o := getObj s (doneObject s)
  .next (match s.dealer.hands with
    | [] => s
    | h :: t =>
      if o.value = 0 ∨ dealerTested s = true then s else
      let s := agePages (setObj s (doneObject s) { o with value := o.value - 1 }) h
      let s := modDealer s fun d => { d with hands := t }
      let s := if h.prefill then (h.entries.map Prod.fst).foldl (donePrefill h) s else
        let r := readOuts h.slot h.entries.length 0 s
        (h.entries.zip r.2).foldl (takeToken h) r.1
      retirePending s)

/-! ### Packing (R364 to R366) -/

/-- The part of the state a packing builds: micro-batch, room, and chunks as (micro-batch, record,
start, length, carry ID, last). -/
def chunksOf (cs : List (Nat × Nat × Nat × Nat × Option Nat × Bool)) (mb : Nat) : Nat :=
  (cs.filter (fun c => decide (c.1 = mb))).length

/-- Place one rollout of n tokens from position pos on. -/
def placeChunks (budget r n0 : Nat) (carry : Option Nat) :
    Nat → Nat → Nat → Nat → List (Nat × Nat × Nat × Nat × Option Nat × Bool) →
      Nat × Nat × List (Nat × Nat × Nat × Nat × Option Nat × Bool)
  | 0, mb, room, _, cs => (mb, room, cs)
  | fuel + 1, mb, room, pos, cs =>
    if n0 ≤ pos then (mb, room, cs) else
    let next := decide (room = 0 ∨ chunksOf cs mb = 256)
    let mb := if next then mb + 1 else mb
    let room := if next then budget else room
    let take := min (n0 - pos) room
    placeChunks budget r n0 carry fuel mb (room - take) (pos + take)
      (cs ++ [(mb, r, pos, take, carry, decide (n0 ≤ pos + take))])

/-- A carry ID: a generation sequence ID that holds only context (R365). -/
def carrySeq (first last : Nat) : Sequence :=
  { state := .carry, part := false, grp := 0, copy := 0, slot := 0, plen := 0, len := 0, limit := 0
    promptId := 0, user := 0, skey := 0, changes := [], lastHand := 0, inHand := false
    prefilled := false, ending := none, pinned := 0, parkAt := 0, h64 := 0, h32 := 0, tag := none
    mbs := (first, last) }

/-- A record takes part in packing (R364). -/
def takesPart (s : State) (w : Word) : Bool :=
  let st := field w 40 4
  decide (st = 1 ∨ st = 2) || (bit w 44 && bit (rget s (jobOff 0x18)) 0)

/-- Pack records from the pack pointer on. A record that cannot be read ends packing there (DESIGN CHOICE,
log entry 36). -/
def packLoop (budget : Nat) (mmax : Int) : Nat → Nat → Nat →
    List (Nat × Nat × Nat × Nat × Option Nat × Bool) → State →
      State × List (Nat × Nat × Nat × Nat × Option Nat × Bool)
  | 0, _, _, cs, s => (s, cs)
  | fuel + 1, mb, room, cs, s =>
    let r := rfield s (jobOff 0x30) 0 32
    if r = poolTail s then (s, cs) else
    match dealRead s 2 (recordAddr s false r) with
    | (s, none) => (s, cs)
    | (s, some ws) =>
      let pass (s : State) : State := rsetField s (jobOff 0x30) 0 32 (r + 1)
      if !takesPart s (ws.headD 0) then packLoop budget mmax fuel mb room cs (pass s) else
      let n := field ((ws.drop 1).headD 0) 32 32
      let fresh := (decide (n ≤ budget ∧ room < n)) || decide (chunksOf cs mb = 256)
      if fresh && decide ((mb : Int) + 1 = mmax) then (s, cs) else
      let mb := if fresh then mb + 1 else mb
      let room := if fresh then budget else room
      if (room : Int) + (mmax - 1 - mb) * budget < n then (s, cs) else
      let id := (freeIds s false).head?
      if decide (room < n) && id.isNone then (s, cs) else
      let carry := if room < n then id else none
      let p := placeChunks budget r n carry (n + 1) mb room 0 cs
      let s := match carry with
        | some q => setSeq s q (carrySeq (if room = 0 then mb + 1 else mb) p.1)
        | none => s
      packLoop budget mmax fuel p.1 p.2.1 p.2.2 (pass s)

/-- The words of a micro-batch descriptor. -/
def mbWords (budget mb : Nat) (cs : List (Nat × Nat × Nat × Nat × Option Nat × Bool)) : List Word :=
  let mine := cs.filter (fun c => decide (c.1 = mb))
  let toks := (mine.map (fun c => c.2.2.2.1)).sum
  [wd (toks % 2 ^ 32 + mine.length % 512 * 2 ^ 32), wd ((budget - toks) % 2 ^ 32), 0, 0, 0, 0, 0, 0] ++
  mine.flatMap (fun c =>
    let start := c.2.2.1
    [wd (c.2.1 % 2 ^ 32 + (c.2.2.2.2.1.getD 0) % 4096 * 2 ^ 32 + b2n (decide (start = 0)) * 2 ^ 44 +
       b2n c.2.2.2.2.2 * 2 ^ 45 + b2n c.2.2.2.2.1.isSome * 2 ^ 46),
     wd (start % 2 ^ 32 + c.2.2.2.1 % 2 ^ 32 * 2 ^ 32)])

/-- The lead packs and publishes the list (R28, R364, R366). -/
def packList (s : State) : State :=
  let budget := rfield s (jobOff 0x18) 32 32
  let mmax := rfield s (jobOff 0x18) 16 13
  let r := packLoop budget mmax ((poolTail s + 2 ^ 32 - rfield s (jobOff 0x30) 0 32) % 2 ^ 32) 0 budget [] s
  let cs := r.2
  let m := match cs.getLast? with
    | some c => c.1 + 1
    | none => 0
  let s := r.1
  let list := dealBase s 4
  let runs := (list, [wd (m % 2 ^ 32 + budget * 2 ^ 32), s.dealer.version.zeroExtend 64, 0, 0, 0, 0, 0, 0]) ::
    (List.range m).map (fun k => (list + 0x2000 * (k + 1), mbWords budget k cs))
  publish s (rfield s (dealOff 0x10010) 32 16) runs

/-- Enter PACKED: the lead packs and publishes the list, and the shrink starts (R17, R30). LIST_READY is raised
here by every dealer, before the list's writes are acknowledged, and by one that publishes no list (DESIGN
CHOICE, log entry 146). -/
def enterPacked (s : State) : State :=
  let s := setDealState s 3
  let s := if isLead s then packList s else s
  dealEvent (modDealer s fun d => { d with shrinking := true }) 2

/-! ### Phase commands (R13 to R16, R21) -/

/-- Record the result of a command. -/
def dealResult (s : State) (r : Nat) : State := rsetField s (jobOff 8) 4 4 r

/-- A phase command: refused unless this dealer leads, or the lead has forwarded it, and its state is
listed. The lead forwards one that it accepts (R30). -/
def phaseCommand (s : State) (forwarded : Bool) (cmd : Nat) (version : BitVec 32) (states : List Nat)
    (go : State → State) : State :=
  if !forwarded && !isLead s then dealResult s 2
  else if dealState s ∉ states then dealResult s 1
  else go (forwardCmd (rsetField (dealResult s 0) (jobOff 8) 10 1 0) cmd version)

/-- Free carry IDs with their pages (R365). -/
def freeCarries (s : State) : State :=
  ((s.dealer.seqs.filter (fun e => decide (e.2.state = .carry))).map Prod.fst).foldl (fun s q =>
    modDealer (freeSeqPages s q) fun d => { d with seqs := tabDel d.seqs q }) s

/-- Parked sequences whose policy retires them on a new version (R21). -/
def retireOld (s : State) : State :=
  ((s.dealer.seqs.filter (fun e => decide (e.2.state = .parked ∧ partPolicy s e.2.part = 1 ∧
      e.2.pinned ≠ s.dealer.version) && e.2.ending.isNone)).map Prod.fst).foldl (fun s q => retireSeq s q 3) s

/-- START_G. -/
def startGen (s : State) (forwarded : Bool) (version : BitVec 32) : State :=
  phaseCommand s forwarded 1 version [0, 3] fun s =>
    let s := modDealer s fun d => { d with version := version, shrinking := false }
    let s := setDealState (retireOld (freeCarries s)) 1
    let r := headEntry s
    let parked := s.dealer.seqs.any (fun e => decide (e.2.state = .parked))
    if r.2.1.isNone && !r.2.2 && !parked then dealEvent (rsetField r.1 (jobOff 8) 10 1 1) 1 else r.1

/-- A group that has been admitted, whose prefill has not started and which no policy holds back. -/
def unstarted (s : State) (g : PromptGroup) : Bool :=
  !g.started && !(groupSeqs s g).isEmpty && (groupSeqs s g).all (fun e => decide (e.2.state = SeqState.live))

/-- END_G (R14, R15): groups whose prefill has not started go back to the queue in order. A group that stays
parked (R21) is none of them. A dealer that is not the lead has no hand of its own, and so enters PACKED at once
(DESIGN CHOICE, log entry 147). -/
def endGen (s : State) (forwarded : Bool) : State :=
  phaseCommand s forwarded 2 0 [1] fun s =>
    let s := setDealState s 2
    let s := (s.dealer.groups.filter (unstarted s)).reverse.foldl requeueGroup s
    let s := ((s.dealer.seqs.filter (fun e => decide (e.2.state = .live) && !e.2.inHand)).map
      Prod.fst).foldl parkSeq s
    if s.dealer.hands.isEmpty && !dealerHeld s then enterPacked s else s

/-- STOP. -/
def stopGen (s : State) (forwarded : Bool) : State :=
  phaseCommand s forwarded 3 0 [3] fun s => setDealState (modDealer s fun d => { d with shrinking := false }) 0

/-- Mark pool records that name a version above the restart version DISCARDED (R16). One that cannot be read
is passed over (DESIGN CHOICE, log entry 36). -/
def discardRecords (version : BitVec 32) : Nat → Nat → State → State
  | 0, _, s => s
  | n + 1, k, s =>
    match dealRead s 16 (recordAddr s false k) with
    | (s, none) => discardRecords version n (k + 1) s
    | (s, some ws) =>
      let w := ws.headD 0
      let used := field w 45 3 + 1
      let over' := ((ws.drop 8).take used).any (fun c => decide (version.toNat < field c 32 32))
      let s := if over' then dealWrite s (recordAddr s false k) 8
        (setField (setField w 40 4 7) 44 1 0).toNat else s
      discardRecords version n (k + 1) s

/-- RESET (R16), accepted in every state and by every dealer; the lead forwards it first. A sequence of an
abandoned hand that a write of DEAL_RETIRE named retires once it is parked (R360; log entry 44). -/
def resetDeal (s : State) (version : BitVec 32) : State :=
  let s := forwardCmd (rsetField (dealResult s 0) (jobOff 8) 10 1 0) 4 version
  let o := getObj s (doneObject s)
  let s := setObj s (doneObject s) { o with value := 0 }
  let due := s.dealer.seqs.filter (fun e => e.2.inHand && e.2.ending.isSome)
  let s := modDealer s fun d => { d with
    hands := [], shrinking := false
    groups := d.groups.map (fun g => { g with started := g.filled })
    seqs := d.seqs.map (fun e => (e.1,
      { e.2 with inHand := false, ending := if e.2.inHand then none else e.2.ending })) }
  let s := ((s.dealer.seqs.filter (fun e => decide (e.2.state ≠ .carry) && !e.2.part &&
    e.2.changes.any (fun c => decide (version < c.2)))).map Prod.fst).foldl dropSeq s
  let s := ((s.dealer.seqs.filter (fun e => decide (e.2.state = .live))).map Prod.fst).foldl parkSeq s
  let s := due.foldl (fun s e => retireSeq s e.1 ((e.2.ending.getD 0).toNat)) s
  let s := discardRecords version ((poolTail s + 2 ^ 32 - poolHead s) % 2 ^ 32) (poolHead s) s
  setDealState (freeStash (freeCarries s) none) 0

/-- A phase command by its code. -/
def dealPhase (s : State) (forwarded : Bool) (cmd : Nat) (version : BitVec 32) : State :=
  match cmd with
  | 1 => startGen s forwarded version
  | 2 => endGen s forwarded
  | 3 => stopGen s forwarded
  | 4 => resetDeal s version
  | _ => s

/-- A write of DEAL_CMD. -/
def dealCommand (s : State) (val : Word) : State :=
  dealPhase s false (field val 0 4) ((val >>> 32).truncate 32)

def execStartG (src : Sender) (version : BitVec 32) (s : State) : Host.Outcome State Fault Refusal :=
  .next (if mayWrite s src 3 then startGen s false version else s)
def execEndG (src : Sender) (s : State) : Host.Outcome State Fault Refusal :=
  .next (if mayWrite s src 3 then endGen s false else s)
def execStop (src : Sender) (s : State) : Host.Outcome State Fault Refusal :=
  .next (if mayWrite s src 3 then stopGen s false else s)
def execReset (src : Sender) (version : BitVec 32) (s : State) : Host.Outcome State Fault Refusal :=
  .next (if mayWrite s src 3 then resetDeal s version else s)

/-- LAST_HAND_DRAINED (R14). -/
def execLastHandDrained (s : State) : Host.Outcome State Fault Refusal :=
  .next (if dealState s = 2 ∧ s.dealer.hands.isEmpty = true ∧ dealerHeld s = false then enterPacked s else s)

/-! ### The pool (R360, R363) -/

/-- A write of DEAL_RETIRE: an ID that is neither live nor parked has no effect; one in a hand in
flight retires when the hand completes (DESIGN CHOICE, log entry 44). -/
def retireWrite (s : State) (q : Nat) : State :=
  match tabFind s.dealer.seqs q with
  | none => s
  | some x =>
    if x.state = .carry ∨ x.ending.isSome = true then s
    else if x.inHand then setSeq s q { x with ending := some 5 }
    else retireSeq s q 5

def execDealRetire (src : Sender) (id : BitVec 12) (s : State) : Host.Outcome State Fault Refusal :=
  .next (if mayWrite s src 3 then retireWrite s id.toNat else s)

/-- A write of DEAL_POOL_HEAD: records before it are free, with their token slots. -/
def poolHeadWrite (s : State) (val : Word) : State :=
  let s := rset s (jobOff 0x28) (val &&& 0xFFFFFFFF)
  let held := (poolTail s + 2 ^ 32 - poolHead s) % 2 ^ 32
  let s := modDealer s fun d => { d with heldSlots := d.heldSlots.filter (fun h =>
    decide (h.1 % 2 = 1 ∨ (h.1 / 2 + 2 ^ 32 - poolHead s) % 2 ^ 32 < held)) }
  retirePending s

def execPoolHeadAdvance (src : Sender) (val : BitVec 64) (s : State) : Host.Outcome State Fault Refusal :=
  .next (if mayWrite s src 3 then poolHeadWrite s val else s)

end Sys2Proof.Machine
end

