-- ==== Sys2Proof/Machine/Links.lean ====
section
/-! DEFINITION. Groups and retry (R397, R398), what is lost when a port leaves UP (R406), and the
packets that arrive: remote accesses, acknowledgements, signals and reductions (R387, R388, R423,
R424, R430, R436). -/

namespace Sys2Proof.Machine

open Sys2Proof

/-! ### A port leaves UP (R406) -/

/-- The received packets that a port holds, complete or not (R406). -/
def portHolds (t : Port) : List Packet :=
  t.rx.flatMap (·.2) ++ heldPackets t ++ t.rxPart.map (·.2)

/-- A held packet is the answer that a descriptor in flight on queue n awaits. -/
def answersFlight (n : Nat) (f : Flight) (x : Packet) : Bool :=
  decide (x.sq.toNat = n) && (match x.type with
    | .getResp => f.awaits.any (fun t => decide (t.1 = x.tag))
    | .writeAck => f.awaits.any (fun t => decide (t.1 = x.tag))
    | .sigAck => f.signalled && decide (x.tag.toNat = 2 ^ 31 + f.id)
    | _ => false)

/-- A descriptor in flight depends on port p: a request or signal of it left by the port and is not answered, or
the port holds an answer (R406; DESIGN CHOICE, log entry 152). -/
def flightUses (s : State) (p n : Nat) (f : Flight) : Bool :=
  f.awaits.any (fun t => decide (t.2 = p)) || (f.signalled && decide (f.sigPort = some p)) ||
    (portHolds (getPort s p)).any (answersFlight n f)

/-- The object of a signal is lost: SYNC_LOST at the next f.sys, unless an error came before. -/
def signalLost (obj : BitVec 16) (t : Thread) : Thread :=
  { t with sigErr := some (t.sigErr.getD (0x12, obj)) }

/-- The acknowledgement of a remote signal of a thread is lost with the port that holds it. -/
def loseAck (i : Nat) (t : Thread) (x : Packet) : Thread :=
  if x.type = .sigAck ∧ x.sq = 0xFE ∧ x.tag < 0x80000000 ∧ threadOfQueue x.tag.toNat = i then
    match takeFirst (fun y => decide (y.1 = x.src ∧ y.2.1 = x.obj)) t.sigOut with
    | some (_, rest) => signalLost x.obj { t with sigOut := rest }
    | none => t
  else t

/-- Remote signals of a thread that left by port p, or whose acknowledgements it holds, are lost. -/
def loseSignals (s : State) (p i : Nat) (t : Thread) : Thread :=
  let t := match t.sigOut.find? (fun y => decide (y.2.2 = p)) with
    | none => t
    | some y => signalLost y.2.1 { t with sigOut := t.sigOut.filter (fun y => decide (y.2.2 ≠ p)) }
  (portHolds (getPort s p)).foldl (loseAck i) t

/-- The devices whose writes of a publication are lost with port p. -/
def lostDevices (s : State) (p : Nat) (x : DealPub) : List (BitVec 20) :=
  let held (tag : BitVec 32) : Bool := (portHolds (getPort s p)).any (fun y =>
    decide (y.type = .writeAck ∧ y.sq = 0xFE ∧ y.tag = tag))
  (x.tags.filter (fun t => decide (t.2.2 = p) || held t.1)).map (·.2.1)

/-- A commit message of this device is held by a port. -/
def holdsCommit (s : State) (t : Port) : Bool :=
  let own (x : Packet) : Bool := decide (x.type = .mgmt ∧ x.src = s.devId) && commitCode x
  t.egress.waiting.any (fun w => own w.item.pkt) ||
    t.txHeld.any (fun g => g.packets.any (fun x => own x.2))

/-- What depends on port p: engine descriptors, by queue. -/
def lostFlights (s : State) (p : Nat) : List (Nat × Flight) :=
  s.queues.flatMap (fun e => ((begunFlights e.2).filter (flightUses s p e.1)).map (fun f => (e.1, f)))

/-- A port leaves UP: what it held is lost, and what depended on it is aborted. -/
def leaveUp (s : State) (p : Nat) : State :=
  let flights := lostFlights s p
  let slots := (s.potSlots.filter (fun e => decide (e.2.state = 1))).map Prod.fst
  let commits := holdsCommit s (getPort s p)
  let threads := s.threads.map (fun e => (e.1, loseSignals s p e.1 e.2))
  let pubs := s.dealer.pubs.map (fun x => (lostDevices s p x).foldl dropDevice x)
  let s := linkState (setPort s p Port.down) p 0 0 0
  let s := modDealer { s with threads := threads } (fun d => { d with pubs := pubs })
  let s := flights.foldl (fun s x =>
    if (findFlight s x.1 (fun f => decide (f.id = x.2.id))).isSome
    then abortFlight s x.1 x.2 8 x.2.desc.addr else s) s
  let s := slots.foldl (fun s r => potAbort s r 9 none) s
  if commits then commitAbort s 2 none else s

/-- An hour, in configuration cycles. -/
def hourCycles : Nat := 360000000000

/-- A port in UP retrains, and the retrain is counted (R398, R405). -/
def retrainUp (s : State) (p reason : Nat) : State :=
  let long := decide (hourCycles ≤ (getPort s p).upTime)
  let s := leaveUp s p
  let s := if long then rsetField s (portOff p 8) 12 4 0 else s
  countTry s p reason

/-- A write of LINK_CTL.RETRAIN. -/
def retrainWrite (s : State) (p : Nat) : State :=
  let s := if portUp s p then leaveUp s p else s
  let s := if portState s p = 7 then rsetField s (portOff p 8) 12 4 0 else s
  releasePort s p 0

/-- LINK_CTL.DISABLE set to 1. -/
def disablePort (s : State) (p : Nat) : State :=
  let s := rset s (portOff p 0x10) 1
  let s := if portUp s p then leaveUp s p else setPort s p Port.down
  if portRetired s p then linkState s p 7 9 0 else linkState s p 0 7 0

def execRetrain (src : Sender) (port : BitVec 4) (s : State) : Host.Outcome State Fault Refusal :=
  .next (if mayWrite s src 1 then retrainWrite s port.toNat else s)

def execDisable (src : Sender) (port : BitVec 4) (s : State) : Host.Outcome State Fault Refusal :=
  .next (if mayWrite s src 1 then disablePort s port.toNat else s)

/-- PORT_LEAVES_UP (R406). -/
def execPortLeavesUp (port : BitVec 4) (reason : BitVec 4) (s : State) :
    Host.Outcome State Fault Refusal :=
  .next (if portUp s port.toNat then retrainUp s port.toNat reason.toNat else s)

/-! ### Acknowledgement and replay (R398) -/

/-- Groups left after an acknowledgement of group `ack`. -/
def ackGroups (ack : BitVec 16) (gs : List SentGroup) : List SentGroup :=
  match gs with
  | [] => []
  | g :: t =>
    if g.gseq = ack then t
    else if t.any (fun x => decide (x.gseq = ack)) then ackGroups ack t else g :: t

/-- Take an acknowledgement. -/
def takeAck (s : State) (p : Nat) (ack : BitVec 16) : State :=
  let t := getPort s p
  let left := ackGroups ack t.txHeld
  setPort s p { t with txHeld := left
                       resends := if left.length < t.txHeld.length then 0 else t.resends }

/-- A NAK: what was acknowledged is dropped, and the rest is sent again as it was. A group that has been
resent 8 times in a row makes the port retrain. -/
def takeNak (s : State) (p : Nat) (ack : BitVec 16) : State :=
  let s := takeAck s p ack
  let t := getPort s p
  if t.txHeld.isEmpty then s
  else if 8 ≤ t.resends then retrainUp s p 4
  else setPort s p { resendGroups t with resends := t.resends + 1 }

/-- NAK (R398). -/
def execNak (port : BitVec 4) (ack : BitVec 16) (s : State) : Host.Outcome State Fault Refusal :=
  .next (if portUp s port.toNat then takeNak s port.toNat ack else s)

/-! ### GROUP_RECEIVE (R397) -/

/-- A packet that a responder or a home sends as an answer; its SQ and TAG are the requester's. -/
def isAnswer (x : Packet) : Bool :=
  match x.type with
  | .getResp => true
  | .writeAck => true
  | .sigAck => true
  | _ => false

/-- The agent number under which a packet in transit is routed: its flow (R411). Answers are of their source's
responder, and a tag below 2^31 with SQ = 0xFE names a thread. -/
def transitAgent (x : Packet) : Nat :=
  x.src.toNat * 2 ^ 41 + (if isAnswer x then 2 ^ 40 else
    x.sq.toNat * 2 ^ 32 + (if x.sq = 0xFE ∧ x.tag < 0x80000000 then x.tag.toNat else 0))

/-- Deliver one packet: to its channel, which then holds it (true), to the dealer, or on its way. A MGMT
packet with another code is dropped (DESIGN CHOICE, log entry 43). -/
def deliverPacket (p vc : Nat) (s : State) (x : Packet) : State × Bool :=
  if x.dst = s.devId then
    if x.type = .mgmt ∧ dealForward x = true then
      (dealPhase s true (x.obj.toNat - 0x100) x.value, false)
    else if x.type = .mgmt ∧ commitCode x = false then (s, false)
    else (setRx s p vc (rxQueue s p vc ++ [x]), true)
  else ((emitPacket s (32 + p) (transitAgent x) (some (p, decide (vc % 2 = 1))) x).1, false)

/-- Deliver packets in order and count those that their channel holds. -/
def deliverAll (p vc : Nat) : List Packet → State → State × Nat
  | [], s => (s, 0)
  | x :: t, s =>
    let r := deliverPacket p vc s x
    let q := deliverAll p vc t r.1
    (q.1, q.2 + b2n r.2)

/-- Deliver what a payload flit completes. The credits of packets that the channel does not hold return at
once. -/
def deliverFlit (p : Nat) (s : State) (r : Nat × Option (List Packet)) : State :=
  match r.2 with
  | none => oweCredits s p r.1 1
  | some ps =>
    let d := deliverAll p r.1 ps s
    match ps with
    | [] => s
    | x :: _ =>
      if !inCell x then
        (if d.2 = 0 then oweCredits d.1 p r.1 ((x.data.length + 255) / 256) else d.1)
      else if d.2 = 0 then oweCredits d.1 p r.1 1
      else
        let t := getPort d.1 p
        let cells := tabGet (fun _ => []) t.rxCells r.1 ++ [d.2]
        setPort d.1 p { t with rxCells := tabSet (fun _ => []) t.rxCells r.1 cells }

/-- Deliver a group that has been verified. -/
def deliverGroup (s : State) (p : Nat) (g : Group) : State :=
  let t := getPort s p
  let r := readGroup g t.rxPart
  r.1.foldl (deliverFlit p) (setPort s p { t with rxPart := r.2 })

/-- Take the credits that a link flit returns; a sender never holds more than 256. -/
def takeCredits (s : State) (p : Nat) (cs : List Nat) : State :=
  let t := getPort s p
  setPort s p { t with credits := ((List.range 8).zip cs).foldl (fun m c =>
    tabSet (fun _ => 0) m c.1 (min 256 (tabGet (fun _ => 0) m c.1 + c.2))) t.credits }

/-- A check failed: the group held and this one are discarded, and NAK is due. -/
def groupFailed (s : State) (p : Nat) : State :=
  let t := getPort s p
  let next := match t.rxHeld with
    | some h => linkSeq h
    | none => t.rxNext
  raddSat (setPort s p { t with rxNext := next, rxHeld := none, nakOut := true }) (portOff p 0x18) 32 16 1

/-- The group held is verified: its packets are delivered, its link flit's credits are taken, and the new link
flit is taken. A link flit with NPF = 0 carries no group, and its credits are taken at once (log entry 45). -/
def groupVerified (s : State) (p : Nat) (g : Group) : State :=
  let t := getPort s p
  let s := setPort s p { t with
    rxHeld := if linkNpf g = 0 then none else some g
    rxNext := if linkNpf g = 0 then t.rxNext else t.rxNext + 1
    nakOut := false }
  let s := match t.rxHeld with
    | some h => takeCredits (deliverGroup s p h) p (linkCredits h)
    | none => s
  let s := if linkNpf g = 0 then takeCredits s p (linkCredits g) else s
  if linkNak g then takeNak s p (linkAck g) else takeAck s p (linkAck g)

/-- The checks of the group that a port holds match (R397). -/
def heldGood (t : Port) (g : Group) : Bool :=
  match t.rxHeld with
  | some h => fcrcGood g h
  | none => true

/-- Count corrected symbols and codewords that could not be corrected (R394). -/
def countFec (s : State) (p : Nat) (g : Group) : State :=
  let s := raddSat s (portOff p 0x18) 48 16 g.fecu.toNat
  raddSat s (portOff p 0x18) 0 32 g.fecc.toNat

/-- A group has arrived at a port in UP. -/
def takeGroup (s : State) (p : Nat) (g : Group) : State :=
  let t := getPort s p
  if t.nakOut && lcrcGood g && decide (linkSeq g ≠ t.rxNext) then s
  else if lcrcGood g && decide (linkSeq g = t.rxNext) && heldGood t g then groupVerified s p g
  else groupFailed s p

/-- GROUP_RECEIVE (R394, R397). -/
def execGroupReceive (port : BitVec 4) (g : Group) (s : State) : Host.Outcome State Fault Refusal :=
  let p := port.toNat
  .next (if portUp s p then takeGroup (countFec s p g) p g else s)

/-! ### Remote accesses (R423) -/

/-- The responder as it makes accesses for one channel of a port. -/
def rxAgent (s : State) (p vc : Nat) : Agent :=
  { who := 4200 + 8 * p + vc, core := none, thr := none, aspace := rget s (linkOff 0 0x410)
    ring := 2, cls := 3, age := 1 }

/-- Reason returned for a local fault: REMOTE_TRANSLATION, REMOTE_ACCESS, REMOTE_MEMORY. -/
def remoteReason (c : BitVec 8) : Nat := reasonOf c + 3

/-- Acknowledge a packet. -/
def ackPacket (s : State) (x : Packet) (status : Nat) : State :=
  (emitPacket s 6 responderAgent none
    { packetTo s .writeAck x.src x.sq.toNat x.tag with
      addr := x.addr, status := BitVec.ofNat 8 status }).1

/-- Perform the writes of the packet at the head; it is acknowledged once they are performed. The
packet stays, marked as written, while they are not, and unmarked while the context manager holds them. -/
def respondWrite (s : State) (p vc : Nat) (x : Packet) (ws : List Wr) : State :=
  let a := rxAgent s p vc
  let finish (s : State) : State :=
    let s := flushAgent s a.who
    if agentDone s a.who then ackPacket (popRx s p vc) x 0 else setWritten s p vc true
  if headWritten s p vc then finish s else
  match engWrite a ws s with
  | (s, .ok) => finish s
  | (s, .held need) => holdWrite s none need
  | (s, .fault c _) => ackPacket (popRx s p vc) x (remoteReason c)

/-- The write of a PUT. One with FMT = I4 writes one half of its byte, which VALUE names (DESIGN CHOICE, log
entry 71). -/
def putWrites (x : Packet) : List Wr :=
  let va : Word := x.addr.zeroExtend 64
  if x.fmt = 5 then [.nib va (decide (x.value = 2)) (ofBytes x.data % 16)]
  else [.put va x.data.length (ofBytes x.data)]

/-- PUT (R423). -/
def execPut (port : BitVec 4) (vc : BitVec 3) (s : State) : Host.Outcome State Fault Refusal :=
  let p := port.toNat
  .next (match rxHead s p vc.toNat .put with
    | none => s
    | some x => respondWrite s p vc.toNat x (putWrites x))

/-- The writes of a PUT_ACC: one for each element. -/
def accWrites (op fmt : Nat) : Nat → Word → List Byte → List Wr
  | 0, _, _ => []
  | n + 1, va, bs =>
    let w := fmtBytes fmt
    .acc va op fmt (ofBytes (bs.take w)) :: accWrites op fmt n (va + wd w) (bs.drop w)

/-- Formats that accumulate, and the operations (R250, R251). -/
def accLegal (x : Packet) : Bool :=
  let f := x.fmt.toNat
  decide (1 ≤ x.acc.toNat ∧ x.acc.toNat ≤ 3 ∧ (f = 3 ∨ f = 4 ∨ f = 10 ∨ f = 11 ∨ f = 12))

/-- PUT_ACC (R423). One whose operation or format is not legal is refused (DESIGN CHOICE). -/
def execPutAcc (port : BitVec 4) (vc : BitVec 3) (s : State) : Host.Outcome State Fault Refusal :=
  let p := port.toNat
  .next (match rxHead s p vc.toNat .putAcc with
    | none => s
    | some x =>
      if !accLegal x then ackPacket (popRx s p vc.toNat) x 1 else
      respondWrite s p vc.toNat x (accWrites x.acc.toNat x.fmt.toNat
        (x.data.length / fmtBytes x.fmt.toNat) (x.addr.zeroExtend 64) x.data))

/-- GET_REQ (R423). -/
def execGetReq (port : BitVec 4) (vc : BitVec 3) (s : State) : Host.Outcome State Fault Refusal :=
  let p := port.toNat
  .next (match rxHead s p vc.toNat .getReq with
    | none => s
    | some x =>
      let n := x.len.toNat
      let s := popRx s p vc.toNat
      let r := readSpan (rxAgent s p vc.toNat) n n s (x.addr.zeroExtend 64)
      let reply : Packet := { packetTo r.1 .getResp x.src x.sq.toNat x.tag with addr := x.addr }
      (emitPacket r.1 6 responderAgent none (match r.2 with
        | .inl v => { reply with len := x.len, data := bytesOf n v }
        | .inr e => { reply with status := BitVec.ofNat 8 (remoteReason e.1) })).1)

/-! ### Responses and acknowledgements (R424) -/

/-- The descriptor of a queue that awaits a tag. -/
def flightOf (s : State) (n : Nat) (tag : BitVec 32) : Option Flight :=
  findFlight s n (fun f => f.awaits.any (fun t => decide (t.1 = tag)))

/-- A tag has been answered. -/
def answeredTag (s : State) (n : Nat) (f : Flight) (tag : BitVec 32) : State :=
  modFlight s n f.id (fun f => { f with
    awaits := f.awaits.filter (fun t => decide (t.1 ≠ tag))
    places := f.places.filter (fun x => decide (x.tag ≠ tag)) })

/-- Half-bytes that a write takes. -/
def wrHalves : Wr → Nat
  | .put _ n _ => 2 * n
  | .nib _ _ _ => 1
  | .acc _ _ f _ => 2 * fmtBytes f

/-- The writes of a response's data, each with the G4 block it belongs to. -/
def placedWrites (f : Flight) (tag : BitVec 32) (v : Nat) : List (Option Nat × Wr) :=
  (f.places.filter (fun x => decide (x.tag = tag))).map (fun x =>
    (x.block, x.wr.withVal (v / 2 ^ (4 * x.half) % 2 ^ (4 * wrHalves x.wr))))

/-- Writes of four bits, the element codes of a G4 block. -/
def isNib : Wr → Bool
  | .nib _ _ _ => true
  | _ => false

/-- A response waits for others before block k of its descriptor is written (R553). -/
def blockOpen (f : Flight) (tag : BitVec 32) (k : Nat) : Bool :=
  f.places.any (fun x => decide (x.tag ≠ tag ∧ x.block = some k))

/-- The writes that a response makes possible: those of its data that belong to no block, and those of each G4
block whose data are now complete, the element codes first and then the scale; and the writes of blocks that
are kept (R553). -/
def readyWrites (f : Flight) (tag : BitVec 32) (v : Nat) : List (List Wr) × List (Nat × Wr) :=
  let ws := placedWrites f tag v
  let held := f.ready ++ ws.filterMap (fun x => x.1.map (fun k => (k, x.2)))
  let whole := held.filter (fun x => !blockOpen f tag x.1)
  let block (k : Nat) : List Wr :=
    let ws := (whole.filter (fun x => decide (x.1 = k))).map Prod.snd
    ws.filter isNib ++ ws.filter (fun w => !isNib w)
  ((ws.filter (fun x => x.1.isNone)).map Prod.snd :: (whole.map Prod.fst).eraseDups.map block,
   held.filter (fun x => blockOpen f tag x.1))

/-- Perform groups of writes, each checked as a whole, until one fails. -/
def writeGroups (a : Agent) : List (List Wr) → State → State × Put
  | [], s => (s, .ok)
  | ws :: t, s =>
    match engWrite a ws s with
    | (s, .ok) => writeGroups a t s
    | r => r

/-- GET_RESP (R424, R553). -/
def execGetResp (port : BitVec 4) (vc : BitVec 3) (s : State) : Host.Outcome State Fault Refusal :=
  let p := port.toNat
  .next (match rxHead s p vc.toNat .getResp with
    | none => s
    | some x =>
      let n := x.sq.toNat
      match flightOf s n x.tag with
      | none => popRx s p vc.toNat
      | some f =>
        if x.status ≠ 0 then
          abortFlight (popRx s p vc.toNat) n f x.status.toNat (x.addr.zeroExtend 64)
        else
          let a := engAgent s n
          let r := readyWrites f x.tag (ofBytes x.data)
          match wouldHold a (r.1.flatMap (fun ws => ws)) s with
          | some need => holdWrite s none need
          | none =>
            match writeGroups a r.1 s with
            | (s, .held need) => holdWrite s none need
            | (s, .fault c info) => abortFlight (popRx s p vc.toNat) n f (reasonOf c) info
            | (s, .ok) =>
              answeredTag (modFlight (popRx s p vc.toNat) n f.id (fun f => { f with ready := r.2 })) n f x.tag)

/-- WRITE_ACK for a descriptor of a queue. -/
def flightAcked (s : State) (n : Nat) (x : Packet) : State :=
  match flightOf s n x.tag with
  | none => s
  | some f =>
    if x.status = 0 then answeredTag s n f x.tag
    else abortFlight s n f x.status.toNat (x.addr.zeroExtend 64)

/-- WRITE_ACK (R424, R433). SQ 0xFF serves the pots and queue 255, and 0xFE the dealer and queue 254: the
tag says which (DESIGN CHOICE, log entry 40). -/
def execWriteAck (port : BitVec 4) (vc : BitVec 3) (s : State) : Host.Outcome State Fault Refusal :=
  let p := port.toNat
  .next (match rxHead s p vc.toNat .writeAck with
    | none => s
    | some x =>
      let s := popRx s p vc.toNat
      match (if x.sq = 0xFF then slotOf s x.tag else none) with
      | some e => potAcked s e.1 e.2 x.tag
      | none =>
        if x.sq = 0xFE ∧ s.dealer.pubs.any (fun y => y.tags.any (fun t => decide (t.1 = x.tag)))
        then pubAcked s x.tag (decide (x.status = 0))
        else flightAcked s x.sq.toNat x)

/-! ### Signals (R387, R388) -/

/-- SIG (R387): it goes to the home of its object, which acknowledges it. -/
def execSig (port : BitVec 4) (vc : BitVec 3) (s : State) : Host.Outcome State Fault Refusal :=
  let p := port.toNat
  .next (match rxHead s p vc.toNat .sig with
    | none => s
    | some x =>
      sendSync (popRx s p vc.toNat)
        { seq := 0, kind := if x.status = 0 then .sig else .setErr, src := .remote x port, obj := x.obj
          arg := x.value })

/-- A thread's remote signal has been acknowledged: a dropped one is kept for its next f.sys. -/
def threadAcked (s : State) (x : Packet) : State :=
  let i := threadOfQueue x.tag.toNat
  let t := getThread s i
  match takeFirst (fun y => decide (y.1 = x.src ∧ y.2.1 = x.obj)) t.sigOut with
  | none => s
  | some (_, rest) =>
    let code : BitVec 8 := if x.value = 1 then 0x0F else 0x10
    setThread s i { t with
      sigOut := rest
      sigErr := if x.status = 0 then t.sigErr else some (t.sigErr.getD (code, x.obj)) }

/-- The completion signal of a descriptor has been acknowledged. -/
def engineAcked (s : State) (x : Packet) : State :=
  if x.tag < 0x80000000 then s
  else signalAnswered s x.sq.toNat (x.tag.toNat - 2 ^ 31) (decide (x.status = 0))

/-- SIG_ACK (R388). A thread's tag is below 2^31; one of the dealer finds no descriptor. -/
def execSigAck (port : BitVec 4) (vc : BitVec 3) (s : State) : Host.Outcome State Fault Refusal :=
  let p := port.toNat
  .next (match rxHead s p vc.toNat .sigAck with
    | none => s
    | some x =>
      let s := popRx s p vc.toNat
      if x.sq = 0xFE ∧ x.tag < 0x80000000 then threadAcked s x else engineAcked s x)

/-! ### Reductions (R430, R436) -/

/-- Index of a port at the pot of quadrant q (R434). -/
def potPort (q p : Nat) : Nat := if p / 4 = q then p % 4 else 4

/-- Take the first flit of the packet at the head. -/
def dropFlit (s : State) (p vc : Nat) (x : Packet) : State :=
  if x.data.length ≤ 256 then popRx s p vc
  else oweCredits (editRx s p vc { x with data := x.data.drop 256, value := x.value + 1 }) p vc 1

/-- RED (R430): the first flit is offered to its slot, or waits. -/
def execRed (port : BitVec 4) (vc : BitVec 3) (s : State) : Host.Outcome State Fault Refusal :=
  let p := port.toNat
  .next (match rxHead s p vc.toNat .red with
    | none => s
    | some x =>
      let r := x.obj.toNat
      let q := r / 2 ^ 14
      let k := x.value.toNat
      let f : PotFlit := { rid := x.obj, idx := k, vals := BitVec.ofNat 2048 (ofBytes (x.data.take 256))
                           from? := some x, abort := false }
      if unitTested s q 0 then s else
      let s := if (getSlot s r).state = 1 ∧ k < (getSlot s r).base then potAbort s r 9 none else s
      let y := getSlot s r
      if y.state = 0 ∨ (y.state = 1 ∧ y.base + slotBlocks y ≤ k) then s
      else
        let s := dropFlit s p vc.toNat x
        if y.state = 2 then discardFlit s f
        else setPot s q (arbEnqueue (getPot s q) (potPort q p) f))

/-- RED_ABORT (R436): it waits while its slot is idle, and an aborted slot discards it. -/
def execRedAbort (port : BitVec 4) (vc : BitVec 3) (s : State) : Host.Outcome State Fault Refusal :=
  let p := port.toNat
  .next (match rxHead s p vc.toNat .redAbort with
    | none => s
    | some x =>
      let r := x.obj.toNat
      let y := getSlot s r
      if y.state = 0 ∨ unitTested s (r / 2 ^ 14) 0 = true then s
      else
        let s := popRx s p vc.toNat
        if y.state = 2 then discardFlit s { ownFlit x with abort := true } else potAbort s r 9 none)

end Sys2Proof.Machine
end

