-- ==== Sys2Proof/Machine/Control.lean ====
section
/-! DEFINITION. The control class (major 0x32): control registers by number (R58), gates (R88), the
return from an exception or gate (R89, R104), c.isync, c.brk, c.nop and c.pf. -/

namespace Sys2Proof.Machine

open Sys2Proof

/-! ### Control registers (R58) -/

/-- Numbers listed in the table of control registers. -/
def crListed (n : Nat) : Bool :=
  decide (n ≤ 0x5 ∨ (0x8 ≤ n ∧ n ≤ 0xC) ∨ (0x10 ≤ n ∧ n ≤ 0x13) ∨ (0x18 ≤ n ∧ n ≤ 0x1A) ∨
    (0x20 ≤ n ∧ n ≤ 0x22) ∨ (0x28 ≤ n ∧ n ≤ 0x2A) ∨ (0x30 ≤ n ∧ n ≤ 0x32) ∨ n = 0x38 ∨ n = 0x40)

/-- Numerically highest ring that may read. -/
def crReadRing (n : Nat) : Nat := if (4 ≤ n ∧ n ≤ 5) ∨ (8 ≤ n ∧ n ≤ 0xC) then 1 else 3

/-- Numerically highest ring that may write; none where the table gives none. -/
def crWriteRing (n : Nat) : Option Nat :=
  if n = 0x20 ∨ n = 0x21 ∨ n = 0x2A ∨ n = 0x31 ∨ n = 0x32 then none
  else if n = 0x8 then some 0
  else if n ≤ 0xC then some 1
  else if n = 0x22 then some 2
  else some 3

/-- TCFG: owners and formats of the core's tiles (R180). -/
def tcfgWord (s : State) (ci : Nat) : Word :=
  if isControl ci then 0 else
  wd ((List.range 8).foldl (fun w t =>
    let x := getTile (getCore s ci) t
    match x.owner with
    | some o => w + x.fmt.toNat * 2 ^ (4 * t) + o % 16 * 2 ^ (4 * t + 32)
    | none => w) 0)

/-- TINUSE. -/
def tinuseWord (s : State) (ci : Nat) : Word :=
  if isControl ci then 0 else
  wd ((List.range 8).foldl (fun w t =>
    let x := getTile (getCore s ci) t
    w + b2n x.use * 2 ^ t + b2n x.owner.isSome * 2 ^ (t + 8)) 0)

/-- AINUSE. -/
def ainuseWord (s : State) (ci : Nat) : Word :=
  if isControl ci then 0 else
  let a := getArr s ci
  let pass := match a.pass with
    | none => 0
    | some p => match p.state with
      | .running => if arrayPaused s ci then 2 else 1
      | .stopped => 3
  wd (a.owner.getD 0 % 16 * 2 ^ 44 + b2n a.owner.isSome * 2 ^ 43 + pass * 2 ^ 40 +
    b2n a.ldw.isSome * 2 ^ 39 + a.back.fmt.toNat * 2 ^ 32 + a.front.fmt.toNat * 2 ^ 28 +
    b2n a.acc1.use * 8 + b2n a.acc0.use * 4 + b2n a.back.use * 2 + b2n a.front.use)

/-- ASTAT: it belongs to the owning thread and reads as 0 to every other; a thread that has lost the array
still reads REASON (R216, log entry 124). -/
def astatWord (s : State) (i : Nat) : Word :=
  let a := getArr s (i / 16)
  let t := getThread s i
  if isControl (i / 16) then 0
  else if a.owner = some (i % 16) then
    wd (t.astatCount.toNat * 2 ^ 48 + t.astatStop.toNat * 2 ^ 32 + t.astatReason.toNat)
  else if i % 16 ∈ a.lost then wd t.astatReason.toNat else 0

/-- What a c.rd of a listed number reads. -/
def readControl (s : State) (i n : Nat) : Word :=
  let t := getThread s i
  let core := i / 16
  match n with
  | 0x00 => statusWord t
  | 0x01 => t.cause
  | 0x02 => t.faultinfo
  | 0x03 => wd (ipendWord s i).toNat
  | 0x04 => t.tsb
  | 0x05 => t.aspace
  | 0x08 => getEntry t 0
  | 0x09 => getEntry t 1
  | 0x0A => getEntry t 2
  | 0x0B => getEntry t 3
  | 0x0C => t.gatebase
  | 0x10 => wd t.fflags.toNat
  | 0x11 => wd t.frm.toNat
  | 0x12 => t.seed
  | 0x13 => t.crcpoly
  | 0x18 => wd t.vl.toNat
  | 0x19 => wd t.vgrp.toNat
  | 0x1A => wd t.vstart.toNat
  | 0x20 => tidWord s i
  | 0x21 => rget s (coreReg core 0x18)
  | 0x22 => wd t.prio.toNat
  | 0x28 => if isControl core then 0 else wd t.tstart.toNat
  | 0x29 => tcfgWord s core
  | 0x2A => tinuseWord s core
  | 0x30 => if isControl core then 0 else wd t.apos.toNat
  | 0x31 => ainuseWord s core
  | 0x32 => astatWord s i
  | 0x38 => t.oob
  | 0x40 => wd t.pfctl.toNat
  | _ => 0

/-- A read or a write of a control register: the number is listed and the ring granted (R58). -/
def crChecked (n : Nat) (limit : Option Nat) (body : Nat → State → Body) (i : Nat) (s : State) : Body :=
  if !crListed n then illegal s i
  else match limit with
    | some r => if r < (getThread s i).ring.toNat then .trap s 0x04 (wd n) else body i s
    | none => .trap s 0x04 (wd n)

/-- Read a control register into d; FFLAGS waits for the thread's pass (R230, R245). -/
def crRead (n : Nat) (d : BitVec 5) : Nat → State → Body :=
  crChecked n (some (crReadRing n)) fun i s =>
    match if n = 0x10 then passGate s i anyPass else (s, none) with
    | (_, some b) => b
    | (s, none) => .done (writeG s i d (readControl s i n))

/-- Formats of a value for TCFG. -/
def tcfgFmt (v : Word) (t : Nat) : BitVec 4 := BitVec.ofNat 4 (field v (4 * t) 4)

/-- Tiles of the thread whose format a value for TCFG changes (R189). -/
def tcfgChanged (s : State) (i : Nat) (v : Word) : List Nat :=
  (List.range 8).filter (fun t =>
    let x := tileOf s i t
    decide (x.owner = some (i % 16) ∧ x.fmt ≠ tcfgFmt v t))

/-- Change the formats of affected tiles, all at once (R190, R191). -/
def tcfgSet (s : State) (i : Nat) (v : Word) : State :=
  (tcfgChanged s i v).foldl (fun s t => putTile s i t { tileOf s i t with fmt := tcfgFmt v t }) s

/-- No instruction of the core names an affected tile any more (R190). -/
def tcfgClear (s : State) (i : Nat) (v : Word) : Bool :=
  (tcfgChanged s i v).all (fun t =>
    !(tileOf s i t).zeroing && (tileOf s i t).resv.isNone && !ldwNames s i t && !passHas s (i / 16) t)

/-- A c.wr to TCFG (R180, R189, R190): it waits, or meets the fault of a stopped pass that streams
from an affected tile (R245). -/
def writeTcfg (v : Word) (i : Nat) (s : State) : Body :=
  if isControl (i / 16) then .done s else
  let ch := tcfgChanged s i v
  match ch.find? (fun t => !tileFmt (tcfgFmt v t).toNat) with
  | some t => tileState s t
  | none =>
    if tcfgClear s i v = false then .again (modThread s i (fun t => { t with hold := .tcfg v }))
    else match passGate s i (fun p => ch.any (fun t => fromTile t p)) with
      | (_, some b) => b
      | (s, none) => .done (tcfgSet s i v)

/-- A c.wr to VL (R153). -/
def writeVl (v : Word) (i : Nat) (s : State) : Body :=
  if 4096 < v.toNat then illegal s i
  else .done (modThread s i (fun t => { t with vl := BitVec.ofNat 13 v.toNat }))

/-- A c.wr to FRM (R118). -/
def writeFrm (v : Word) (i : Nat) (s : State) : Body :=
  if 4 < field v 0 3 then illegal s i
  else .done (modThread s i (fun t => { t with frm := BitVec.ofNat 3 (field v 0 3) }))

/-- A c.wr to FFLAGS (R121, R230, R245). -/
def writeFflags (v : Word) (i : Nat) (s : State) : Body :=
  match passGate s i anyPass with
  | (_, some b) => b
  | (s, none) => .done (modThread s i (fun t => { t with fflags := BitVec.ofNat 6 (field v 0 6) }))

/-- A c.wr to PFCTL (R302). -/
def writePfctl (v : Word) (i : Nat) (s : State) : Body :=
  if 16 < field v 0 5 then illegal s i
  else .done (modThread s i (fun t => { t with pfctl := BitVec.ofNat 5 (field v 0 5) }))

/-- A c.wr to IPEND: a written 1 clears a latched bit (R95). -/
def clearIpend (t : Thread) (v : Word) : Thread :=
  { t with
    ipend := t.ipend &&& ~~~(v.truncate 32)
    ipendInfo := t.ipendInfo.filter (fun e => decide (e.1 < 0x60 ∨ 0x80 ≤ e.1) || !bit v (e.1 - 0x60)) }

/-- A c.wr to a register of the thread that has no further effect; reserved bits are dropped. -/
def setControl (control : Bool) (t : Thread) (n : Nat) (v : Word) : Thread :=
  match n with
  | 0x00 => setStatus t v
  | 0x01 => { t with cause := v &&& 0xE0FF }
  | 0x02 => { t with faultinfo := v }
  | 0x03 => clearIpend t v
  | 0x04 => { t with tsb := v &&& 0xFFFFFFFFFFFFF000 }
  | 0x05 => { t with aspace := v &&& 0xFFFF3FFFFFFFF003 }
  | 0x08 => setEntry t 0 (v &&& 0xFFFFFFFFFFFFFFFC)
  | 0x09 => setEntry t 1 (v &&& 0xFFFFFFFFFFFFFFFC)
  | 0x0A => setEntry t 2 (v &&& 0xFFFFFFFFFFFFFFFC)
  | 0x0B => setEntry t 3 (v &&& 0xFFFFFFFFFFFFFFFC)
  | 0x0C => { t with gatebase := v &&& 0xFFFFFFFFFFFF1FFF }
  | 0x12 => { t with seed := v }
  | 0x13 => { t with crcpoly := v }
  | 0x19 => { t with vgrp := v.truncate 2 }
  | 0x1A => { t with vstart := v.truncate 13 }
  | 0x22 => { t with prio := v.truncate 2 }
  | 0x28 => if control then t else { t with tstart := v.truncate 8 }
  | 0x30 => if control then t else { t with apos := v.truncate 32 }
  | 0x38 => { t with oob := v }
  | _ => t

/-- Write a control register by number. -/
def writeControl (n : Nat) (v : Word) : Nat → State → Body :=
  match n with
  | 0x10 => writeFflags v
  | 0x11 => writeFrm v
  | 0x18 => writeVl v
  | 0x29 => writeTcfg v
  | 0x40 => writePfctl v
  | n => fun i s => .done (modThread s i (fun t => setControl (isControl (i / 16)) t n v))

/-- The body of a c.wr of number n from register a; field d is 0. -/
def crWrite (x : Iss) (d a : BitVec 5) (n : Nat) : Nat → State → Body :=
  shortOnly x (decide (d = 0)) (crChecked n (crWriteRing n) fun i s =>
    writeControl n (getG (getThread s i) a) i s)

def execCRd (x : Iss) (f : CtlForm) (s : State) : Host.Outcome State Fault Refusal :=
  .next (issue x (shortOnly x (decide (f.a = 0)) (crRead f.crn.toNat f.d)) s)

def execCWr (x : Iss) (f : CtlForm) (s : State) : Host.Outcome State Fault Refusal :=
  .next (issue x (crWrite x f.d f.a f.crn.toNat) s)

/-- VL_WRITE (R153). -/
def execVlWrite (x : Iss) (f : CwrForm) (s : State) : Host.Outcome State Fault Refusal :=
  .next (issue x (crWrite x f.d f.a 0x18) s)

/-- FRM_WRITE (R118). -/
def execFrmWrite (x : Iss) (f : CwrForm) (s : State) : Host.Outcome State Fault Refusal :=
  .next (issue x (crWrite x f.d f.a 0x11) s)

/-- FFLAGS_WRITE (R121). -/
def execFflagsWrite (x : Iss) (f : CwrForm) (s : State) : Host.Outcome State Fault Refusal :=
  .next (issue x (crWrite x f.d f.a 0x10) s)

/-- PFCTL_WRITE (R302). -/
def execPfctlWrite (x : Iss) (f : CwrForm) (s : State) : Host.Outcome State Fault Refusal :=
  .next (issue x (crWrite x f.d f.a 0x40) s)

/-- TCFG_WRITE (R189, R190). -/
def execTcfgWrite (x : Iss) (f : CwrForm) (s : State) : Host.Outcome State Fault Refusal :=
  .next (issue x (crWrite x f.d f.a 0x29) s)

/-- TCFG_APPLY (R190): the write that waits takes effect and completes, unless an interrupt has arrived; it
meets the fault of a pass that has stopped meanwhile, or restarts it (R245, R246). -/
def execTcfgApply (t : Thr) (s : State) : Host.Outcome State Fault Refusal :=
  let i := thrIx t
  let th := getThread s i
  match th.mode, th.hold with
  | .run, .tcfg v =>
    if coreIssues s (i / 16) && tcfgClear s i v && !th.stopping && (nextEvent s i).isNone then
      match passGate s i (fun p => (tcfgChanged s i v).any (fun t => fromTile t p)) with
      | (_, some (.trap s c info)) => .next (takeSync s i c info)
      | (s, some _) => .next s
      | (s, none) => .next (retire (tcfgSet s i v) i th.ring th.ss (th.pc + 4))
    else .next s
  | _, _ => .next s

/-! ### Gates (R88) -/

/-- The checks of c.gate on a descriptor: a cause code, or the entry. -/
def gateCheck (ring : BitVec 2) (lo hi : Word) : Option (BitVec 8) :=
  if bit hi 63 = false ∨ field hi 60 3 ≠ 0 ∨ field hi 0 55 ≠ 0 ∨ field lo 0 2 ≠ 0 then some 0x81
  else if field hi 56 2 < ring.toNat ∨ ring.toNat < field hi 58 2 then some 0x82
  else none

/-- Enter a gate: push a frame, change ring and continue at the target; `bad` says that an emergency save
meets a fault (R105). -/
def gateEnter (bad : Bool) (k lo hi : Word) (i : Nat) (s : State) : Body :=
  let t := getThread s i
  let cause := causeWord t.ring false 0x83
  match pushFrame s i (t.pc + 4) cause k with
  | (s, .held need) => holdThrough s i need
  | (s, .invalid fi) =>
    let s := invalidPush bad s i (t.pc + 4) cause k fi 0x83
    .goto s (getThread s i).pc
  | (s, .ok) =>
    let r := field hi 58 2
    let s := modThread s i (fun t => { t with
      ring := BitVec.ofNat 2 r, cause := cause, faultinfo := k
      em := t.em || (bit hi 55 && decide (r ≤ 1)) })
    .goto s lo

def gateBody (bad : Bool) (k : Nat) (i : Nat) (s : State) : Body :=
  let t := getThread s i
  if field t.gatebase 0 13 ≤ k then .trap s 0x80 (wd k) else
  match readWords (monitorAgent s i) 2 s (wd (field t.gatebase 16 48 * 0x10000 + 16 * k)) with
  | (s, .inr e) => .trap s e.1 e.2
  | (s, .inl ws) =>
    let lo := ws.headD 0
    let hi := (ws.drop 1).headD 0
    match gateCheck t.ring lo hi with
    | some c => .trap s c (wd k)
    | none => gateEnter bad (wd k) lo hi i s

def execCGate (x : Iss) (f : CtlForm) (s : State) : Host.Outcome State Fault Refusal :=
  .next (issue x (shortOnly x (decide (f.d = 0 ∧ f.a = 0)) 
    (gateBody (decide (x.ue = some .save)) f.crn.toNat)) s)

/-! ### c.ret (R89, R100, R104) -/

/-- Restore from words and continue at the frame's RETURN_PC. At ring 2 or 3 STATUS.EM keeps its
value. -/
def retFrom (ws : List Word) (n i : Nat) (s : State) : Body :=
  let t := getThread s i
  let t := restoreFrame (isControl (i / 16)) t ws n (decide (2 ≤ t.ring.toNat))
  .goto (setThread s i t) t.pc

/-- The pop of R89 and R100. Where the header line can be read and not written, c.ret raises the
fault of a store to it (DEDUCED, log entry 31). -/
def retPop (n i : Nat) (s : State) : Body :=
  let t := getThread s i
  let a := monitorAgent s i
  if t.tsb = 0 then .trap s 0x84 0 else
  match readWords a 2 s t.tsb with
  | (s, .inr e) => .trap s e.1 e.2
  | (s, .inl hs) =>
    let ptr := (hs.drop 1).headD 0
    if ptr.toNat < 0x400 ∨ ptr.toNat % 0x200 ≠ 0 then .trap s 0x84 ptr else
    match readWords a 64 s (t.tsb + ptr - 0x200) with
    | (s, .inr e) => .trap s e.1 e.2
    | (s, .inl ws) =>
      if !frameLegal t ws then .trap s 0x84 ptr else
      match xlat a .store s (t.tsb + 8) with
      | (s, .trap c info) => .trap s c info
      | (s, .held need) => holdThrough s i need
      | (s, .to pa) =>
        match writePa s a pa 8 (ptr.toNat - 0x200) with
        | (s, some c) =>
          let e := memError s a (pa / 128) (t.tsb + 8) c
          .trap e.1 e.2.1 e.2.2
        | (s, none) =>
          retFrom ws n i (modThread s i (fun t =>
            { t with depth := if t.depth = 0 ∨ t.depth = 0xFFFF then t.depth else t.depth - 1 }))

def retBody (n i : Nat) (s : State) : Body :=
  if 29 < n then illegal s i
  else if occBit s i then
    let ws := eframeWords s i
    if frameLegal (getThread s i) ws then retFrom ws n i (setOcc s i false) else .trap s 0x84 0
  else retPop n i s

def execCRet (x : Iss) (f : CtlForm) (s : State) : Host.Outcome State Fault Refusal :=
  .next (issue x (shortOnly x (decide (f.d = 0 ∧ f.a = 0 ∧ f.crn.toNat < 32))
    (retBody (f.crn.toNat % 32))) s)

/-! ### c.isync, c.brk, c.nop, c.pf -/

/-- d, a and CRN are 0. -/
def bareCtl (f : CtlForm) : Bool := decide (f.d = 0 ∧ f.a = 0 ∧ f.crn = 0)

/-- C_ISYNC (R70). -/
def execCIsync (x : Iss) (f : CtlForm) (s : State) : Host.Outcome State Fault Refusal :=
  .next (issue x (shortOnly x (bareCtl f) fun i s =>
    let s := dropFetches s (i / 16)
    .done (setCore s (i / 16) { getCore s (i / 16) with l1i := [], ucache := [] })) s)

/-- C_BRK (R92). -/
def execCBrk (x : Iss) (f : CtlForm) (s : State) : Host.Outcome State Fault Refusal :=
  .next (issue x (shortOnly x (bareCtl f) fun i s => .trap s 0x11 (getThread s i).pc) s)

/-- C_NOP (R71). -/
def execCNop (x : Iss) (f : CtlForm) (s : State) : Host.Outcome State Fault Refusal :=
  .next (issue x (shortOnly x (bareCtl f) fun _ s => .done s) s)

/-- The prefetch of c.pf: it never faults, and is dropped and counted where its translation or
rights would fault (R303). -/
def pfRun (f : CtlForm) (i : Nat) (s : State) : State :=
  let a := { threadAgent s i with cls := coreCls (i / 16) 5, age := 2 }
  let va := getG (getThread s i) f.a + f.crn.signExtend 64
  match xlat a .load s va with
  | (s, .to pa) =>
    prefetchLine i (coreCls (i / 16) 5) (if f.d.getLsbD 1 then 3 else 2) (f.d.getLsbD 0) s (pa / 128)
  | (s, _) => raddSat s (coreReg (i / 16) 0x88) 32 32 1

/-- C_PF (R304). -/
def execCPf (x : Iss) (f : CtlForm) (s : State) : Host.Outcome State Fault Refusal :=
  .next (issue x (shortOnly x (decide (f.d.toNat < 4)) fun i s => .done (pfRun f i s)) s)

end Sys2Proof.Machine
end

