-- ==== Sys2Proof/Machine/Threads.lean ====
section
/-! DEFINITION. Threads and timers as commands from outside change them (R37 to R46, R110, R112,
R218). -/

namespace Sys2Proof.Machine

open Sys2Proof

/-! ### Start (R38, R112) -/

/-- A thread at thread start: registers at reset, ring 1 at its ENTRY address, EM = 1, cause
THREAD_START. On a core that has stopped issuing it reads HALT (R473). -/
def startThread (s : State) (i : Nat) : State :=
  let t := { Thread.off with mode := if (getCore s (i / 16)).stopped then .halt else .run, pc := s.deckEntry1, ring := 1, cause := 0x60
                             faultinfo := tidWord s i, sigOut := (getThread s i).sigOut }
  setThread s i (setEntry (setEntry t 0 s.deckEntry0) 1 s.deckEntry1)

/-- A thread number of a core. -/
def hasThread (i : Nat) : Bool := decide (i % 16 < threadCount (i / 16))

/-- A self-test slice or a test holds the core: a write of CORE_THR_EN takes effect when it ends
(R478). -/
def underTest (s : State) (i : Nat) : Bool := (getCore s (i / 16)).testing

/-- A bit of CORE_THR_EN rises or stays 1 (R38): a rise starts a thread that is OFF. -/
def raiseEnable (s : State) (i : Nat) : State :=
  let o := coreReg (i / 16) 0x8
  if bit (rget s o) (i % 16) || !hasThread i then s else
  let s := rsetField s o (i % 16) 1 1
  if (getThread s i).mode = .off then startThread s i else s

/-- A bit of CORE_THR_EN falls or stays 0 (R39): the thread issues nothing further. -/
def clearEnable (s : State) (i : Nat) : State :=
  let o := coreReg (i / 16) 0x8
  if !bit (rget s o) (i % 16) then s else
  let s := rsetField s o (i % 16) 1 0
  if (getThread s i).mode = .off then s else modThread s i (fun t => { t with stopping := true })

/-- A write of a thread's bit of CORE_THR_EN. -/
def setEnable (s : State) (i : Nat) (b : Bool) : State := if b then raiseEnable s i else clearEnable s i

/-- A write of 1 to a thread's bit of CORE_EFRAME_CTL.RESUME: the emergency frame is restored as it stands,
without the checks of c.ret, each field cut to its width (log entry 125). -/
def resumeNow (s : State) (i : Nat) : State :=
  let t := getThread s i
  if t.mode = .halt ∧ occBit s i = true ∧ (getCore s (i / 16)).stopped = false then
    let t := restoreFrame (isControl (i / 16)) t (eframeWords s i) 0 false
    setOcc (setThread s i { t with mode := .run, hold := .none, partway := false }) i false
  else s

/-- What a write of CORE_THR_EN, or of RESUME where no bit is given, does to a thread. -/
def threadWrite (s : State) (i : Nat) : Option Bool → State
  | some b => setEnable s i b
  | none => resumeNow s i

/-- The same, held while a test has the core (R478). -/
def writeThread (s : State) (i : Nat) (b : Option Bool) : State :=
  if underTest s i then
    let k := getCore s (i / 16)
    setCore s (i / 16) { k with thrWrites := k.thrWrites ++ [(i % 16, b)] }
  else threadWrite s i b

def threadEnable (s : State) (i : Nat) : State := writeThread s i (some true)
def threadDisable (s : State) (i : Nat) : State := writeThread s i (some false)
def resumeThread (s : State) (i : Nat) : State := writeThread s i none

/-- An exception entry whose push was released while a test had the core goes on. -/
def resumePush (s : State) (i : Nat) : State :=
  match (getThread s i).hold with
  | .entry _ _ _ _ => if s.ctx.held.any (fun h => decide (h.thr = some i)) then s else resumeEntry s i
  | _ => s

/-- The slice or test of a core ends: what it held takes effect, the writes in their order. -/
def releaseCore (s : State) (ci : Nat) : State :=
  let ws := (getCore s ci).thrWrites
  let s := setCore s ci { getCore s ci with testing := false, thrWrites := [] }
  (coreThreads ci).foldl resumePush (ws.foldl (fun s w => threadWrite s (16 * ci + w.1) w.2) s)

/-- THREAD_START (R38). -/
def execThreadStart (src : Sender) (t : Thr) (s : State) : Host.Outcome State Fault Refusal :=
  .next (if mayWrite s src 1 && corePresent s (thrCore t) then threadEnable s (thrIx t) else s)

/-- THREAD_STOP (R39). -/
def execThreadStop (src : Sender) (t : Thr) (s : State) : Host.Outcome State Fault Refusal :=
  .next (if mayWrite s src 1 && corePresent s (thrCore t) then threadDisable s (thrIx t) else s)

/-! ### Off (R39, R40, R218) -/

/-- A pass of the thread can be abandoned: its rows inside can complete (R242, R247). -/
def passMayEnd (s : State) (i : Nat) : Bool :=
  decide ((getArr s (i / 16)).owner ≠ some (i % 16)) || (settlePass s (i / 16) (i % 16)).2

/-- A stopping thread stands where it can enter OFF: at an instruction or resumable boundary, halted
or under the debugger, with no grant on its way (R40) and no row held in its pass. -/
def mayTurnOff (s : State) (i : Nat) : Bool :=
  let t := getThread s i
  t.stopping && passMayEnd s i && !underTest s i && !grantInFlight s (queueOf i) &&
    (atBoundary t || decide (t.mode = .halt) || decide (t.mode = .debug))

/-- A thread gives up the claims and frees of tiles and of the array that it has under way. -/
def yieldClaims (s : State) (i : Nat) : State :=
  let mine (o : Option Nat) : Bool := decide (o = some (i % 16))
  let s := (List.range 8).foldl (fun s t =>
    if mine (tileOf s i t).resv then putTile s i t { tileOf s i t with resv := none } else s) s
  let a := getArr s (i / 16)
  if mine a.resv then setArr s (i / 16) { a with resv := none } else s

/-- Zero and free the tiles a thread owns. -/
def freeTiles (s : State) (i : Nat) : State :=
  (List.range 8).foldl (fun s t =>
    if (tileOf s i t).owner = some (i % 16)
    then putTile s i t { Tile.free with zeroing := true, resv := (tileOf s i t).resv } else s) s

/-- Free the array if the thread owns it: a pass is abandoned at its next row boundary, an a.ldw
completes, nothing is saved (R218). -/
def freeArray (s : State) (i : Nat) : State :=
  let ci := i / 16
  let keep (l : List Nat) := l.filter (fun t => decide (t ≠ i % 16))
  if (getArr s ci).owner = some (i % 16) then
    let s := (settleArray s ci (i % 16)).1
    setArr s ci { Arr.free with zeroing := true, lost := keep (getArr s ci).lost, resv := (getArr s ci).resv }
  else setArr s ci { getArr s ci with lost := keep (getArr s ci).lost }

/-- The thread enters OFF. The count of its signals still on the links is the sender's, and stays. -/
def turnOff (s : State) (i : Nat) : State :=
  let s := yieldClaims (withdrawWaiter s (queueOf i)) i
  let s := freeArray s i
  let s := freeTiles s i
  setThread s i { Thread.off with sigOut := (getThread s i).sigOut }

/-- THREAD_OFF (R39). -/
def execThreadOff (t : Thr) (s : State) : Host.Outcome State Fault Refusal :=
  .next (if mayTurnOff s (thrIx t) then turnOff s (thrIx t) else s)

/-! ### RESUME (R106, R110) -/

/-- RESUME: ring 0, the host or the debug port (R106, R110). -/
def execResume (src : Sender) (t : Thr) (s : State) : Host.Outcome State Fault Refusal :=
  .next (if mayWrite s src 0 && corePresent s (thrCore t) then resumeThread s (thrIx t) else s)

/-! ### Timers (R44 to R46) -/

/-- The running timer takes the cycles that it is owed, down to 1. -/
def timerRun (s : State) (ci : Nat) : State :=
  let k := getCore s ci
  let v := (rget s (coreReg ci 0x28)).toNat
  if v = 0 then setCore s ci { k with timerOwed := 0 } else
  let d := min (v - 1) k.timerOwed.toNat
  setCore (rset s (coreReg ci 0x28) (wd (v - d))) ci { k with timerOwed := k.timerOwed - d }

/-- The timer steps from 1 to 0: PEND is set, and it reloads or stops at 0. -/
def timerStep (s : State) (ci : Nat) : State :=
  let s := rsetField s (coreReg ci 0x20) 8 1 1
  let s := rset s (coreReg ci 0x28) (if bit (rget s (coreReg ci 0x20)) 30
    then rget s (coreReg ci 0x30) else 0)
  let k := getCore s ci
  timerRun (setCore s ci { k with timerOwed := k.timerOwed - 1 }) ci

/-- The timer runs and stands at 1. -/
def timerDue (s : State) (ci : Nat) : Bool :=
  corePresent s ci && bit (rget s (coreReg ci 0x20)) 31 && decide (rget s (coreReg ci 0x28) = 1)

/-- TIMER_EXPIRE (R44). -/
def execTimerExpire (c : CoreRef) (s : State) : Host.Outcome State Fault Refusal :=
  .next (if timerDue s (cix c) then timerStep s (cix c) else s)

/-- A write gives the timer a count, from which it counts on. -/
def timerWrite (s : State) (ci : Nat) (v : Word) : State :=
  setCore (rset s (coreReg ci 0x28) (v &&& 0xFFFFFFFF)) ci { getCore s ci with timerOwed := 0 }

/-- After a write of CORE_TIMER_CTL: a timer that EN stops is owed no cycles. -/
def timerCtlWrite (s : State) (ci : Nat) : State :=
  if bit (rget s (coreReg ci 0x20)) 31 then s else setCore s ci { getCore s ci with timerOwed := 0 }

/-- CORE_TIMER_WRITE (R46): where the write falls in the cycle of the step to 0, PEND is set and the
written value replaces both the reloaded value and the stopped value. -/
def execCoreTimerWrite (src : Sender) (c : CoreRef) (val : BitVec 64) (atZero : Bool) (s : State) :
    Host.Outcome State Fault Refusal :=
  .next (if mayWrite s src 1 && corePresent s (cix c) then
    let s := if atZero && timerDue s (cix c) then timerStep s (cix c) else s
    timerWrite s (cix c) val
  else s)

end Sys2Proof.Machine
end

