-- ==== Sys2Proof/Machine/Safe.lean ====
section
/-! DEFINITION. The safety controller (R465 to R474): classification of reports, the device log,
targeted tests, retirement, recovery, and the scrubs (R462). -/

namespace Sys2Proof.Machine

open Sys2Proof

/-! ### SAFE_STATUS -/

def safeBit (s : State) (b : Nat) (v : Bool) : State := rsetField s (safeOff 0) b 1 (b2n v)

/-- Latch bits of the I3C ALERT register (R538). -/
def raiseAlert (s : State) (b : Nat) : State :=
  { s with power := { s.power with alert := s.power.alert ||| BitVec.ofNat 16 (2 ^ b) } }

/-- The device, or a DIMM, must be replaced (R472). -/
def setReplace (s : State) : State := raiseAlert (safeBit s 1 true) 4
def setDimm (s : State) : State := raiseAlert (safeBit s 2 true) 4

/-- LAPSE follows the PENDING events. -/
def lapseBit (s : State) : State :=
  safeBit s 3 (!s.safety.lapses.isEmpty || !s.safety.overdue.isEmpty)

/-! ### The device log (R49, R467, R468) -/

/-- Words of a log entry. -/
def logWords (s : State) (r : Report) (cls : Nat) : List Word :=
  [rget s (safeOff 8),
   wd (s.devId.toNat + cls * 2 ^ 20 + r.code.toNat * 2 ^ 32 + r.unit.toNat * 2 ^ 48), r.loc, r.info]

/-- What follows an entry of the commit unit (R452, R453, R455, R534): SAFETY_NOTICE on the thread that
COMMIT_IRQ names, and HOST_EVT for SECURED and COMMIT_ABORT. -/
def commitNotice (s : State) (code : Nat) (seq : Word) : State :=
  if 0x21 ≤ code ∧ code ≤ 0x23 then
    let s := raiseIrq s (rget s (commitOff 0x50)) 0x68 seq
    if code = 0x21 then s else hostEvent s 19
  else s

/-- Write a log entry: it takes a sequence number, and is dropped where the ring is full. What the host and a
thread are told of follows an entry that was written (R468, R534). -/
def logEvent (s : State) (r : Report) (cls : Nat) : State :=
  let seq := rget s (safeOff 8)
  let ws := logWords s r cls
  let s := rset s (safeOff 8) (seq + 1)
  let log := rget s (safeOff 0x10)
  let tail := rfield s (safeOff 0x18) 0 32
  let head := rfield s (safeOff 0x20) 0 32
  let count := field log 48 16
  if (tail + 2 ^ 32 - head) % 2 ^ 32 = count then raddSat s (safeOff 0) 32 16 1 else
    let pa := field log 0 48 + 32 * (tail % max 1 count)
    let s := if inMemory s pa then putPa s (unitAgent 7) pa 32 (ofWords ws) else s
    let s := rset s (safeOff 0x18) (wd ((tail + 1) % 2 ^ 32))
    let s := if bit (rget s (safeOff 0x28)) (16 + cls)
      then raiseIrq s (rget s (safeOff 0x28)) 0x68 seq else s
    commitNotice (hostEvent s 17) r.code.toNat seq

/-! ### Regions (R469, R470) -/

/-- The part that INFO of a report names (log entry 136); `row` is the row of memory at WHERE. -/
def partOf (r : Report) (row : Option Region) : Option Region :=
  let x := r.info.toNat
  match x / 2 ^ 60 with
  | 0 => row
  | 1 => some (.core (coreIx (r.unit.toNat / 2 ^ 14) (r.unit.toNat % 2 ^ 14)))
  | 2 => some (.l2way (x / 32 % 128) (x % 32))
  | 3 => some (.sram (r.unit.toNat * 2 ^ 32 + r.loc.toNat % 2 ^ 32))
  | _ => none

/-- The region that a report concerns. -/
def regionOf (s : State) (r : Report) : Option Region :=
  let q := r.unit.toNat / 2 ^ 14
  let n := r.unit.toNat % 2 ^ 14
  let row : Option Region :=
    if inHbm r.loc.toNat then some (.hbmRow (r.loc.toNat / 128 * 128))
    else if inMemory s r.loc.toNat then some (.ddrRow (r.loc.toNat / 128 * 128)) else none
  match r.code.toNat with
  | 0x1 => row
  | 0x2 => partOf r (some (.sram (r.unit.toNat * 2 ^ 32 + r.loc.toNat % 2 ^ 32)))
  | 0x3 => partOf r row
  | 0x4 => partOf r row
  | 0x5 => some (.l2way (32 * q + n % 32) (r.info.toNat % 32 % 24))
  | 0x6 => some (.core (coreIx q n))
  | 0x7 => some (.core (coreIx q n))
  | 0x8 => some (.unit r.unit.toNat)
  | 0x9 => some (.unit r.unit.toNat)
  | 0xA =>
    if n < 36 then
      (((List.range 34).map (coreIx q)).find? (fun c => decide (physCore s c = n))).map Region.core
    else if n = 36 then some (.unit (16384 * q))
    else if 44 ≤ n ∧ n < 48 then some (.port (4 * q + n - 44))
    else some (.unit (r.unit.toNat + 64))
  | _ => none

/-- Quadrant whose test queue a region takes. -/
def regionQuad : Region → Nat
  | .hbmRow a => homeQuad a
  | .ddrRow a => homeQuad a
  | .l2way b _ => b / 32
  | .core c => c / 34
  | .sram i => i / 2 ^ 46 % 4
  | .port p => p / 4
  | .unit i => i / 2 ^ 14 % 4

/-- Put a region in line for a test. -/
def queueTest (s : State) (r : Region) : State :=
  let q := regionQuad r
  { s with safety := { s.safety with
    tests := tabSet (fun _ => []) s.safety.tests q (tabGet (fun _ => []) s.safety.tests q ++ [r]) } }

/-! ### Retirement (R470 to R473) -/

/-- KIND and REGION of a retirement entry; none for units that are not retired. -/
def retireEnt (s : State) : Region → Option RetireEnt
  | .hbmRow a => some { kind := 0, region := BitVec.ofNat 48 a }
  | .ddrRow a => some { kind := 1, region := BitVec.ofNat 48 a }
  | .l2way b w => some { kind := 2, region := BitVec.ofNat 48 (b / 32 * 256 + physWay s (b / 32) w) }
  | .core c => some { kind := 3, region := BitVec.ofNat 48 (coreIsland s c) }
  | .sram i => some { kind := 4, region := BitVec.ofNat 48 i }
  | .port p => some { kind := 5, region := BitVec.ofNat 48 p }
  | .unit _ => none

/-- Entries of one kind that a test picks. -/
def retiredCount (s : State) (kind : Nat) (p : Nat → Bool) : Nat :=
  (s.kept.retire.filter (fun e => decide (e.kind.toNat = kind) && p e.region.toNat)).length

/-- Spare resources for a region are spent: 64 rows per channel, 4 ways per quadrant, 8 rows per
macro. -/
def sparesSpent (s : State) : Region → Bool
  | .hbmRow a => decide (64 ≤ retiredCount s 0 (fun x => decide (lineChannel (x / 128) = lineChannel (a / 128))))
  | .ddrRow a => decide (64 ≤ retiredCount s 1 (fun x => decide (lineChannel (x / 128) = lineChannel (a / 128))))
  | .l2way b _ => decide (4 ≤ retiredCount s 2 (fun x => decide (x / 256 = b / 32)))
  | .sram i => decide (8 ≤ retiredCount s 4 (fun x => decide (x / 2 ^ 32 = i / 2 ^ 32)))
  | _ => false

/-- Word of a retirement entry, as SAFE_RETIRE gives it. -/
def retireWord (e : RetireEnt) : Word := wd (2 ^ 63 + e.kind.toNat * 2 ^ 60 + e.region.toNat)

/-- A wait or take of a thread of core c, on its way to its home. -/
def waitsFrom (c : Nat) (op : SyncOp) : Bool :=
  match op.src with
  | .thread t _ => decide (thrCore t = c) && (match op.kind with
    | .wait => true
    | .take => true
    | _ => false)
  | _ => false

/-- A thread of a core that stops issuing reads HALT and leaves every waiter list. -/
def stopThread (s : State) (i : Nat) : State :=
  if (getThread s i).mode = .off then s
  else modThread (yieldClaims (withdrawWaiter s (queueOf i)) i) i (fun t =>
    { t.quiet with mode := .halt, custom := none, loads := [], stalled := 0 })

/-- A core stops issuing (R54, R386, R473). Writes of CORE_THR_EN that a test held take effect (R478). -/
def stopCore (s : State) (c : Nat) : State :=
  let s := setCore s c { getCore s c with stopped := true }
  let s := { s with syncQ := s.syncQ.map (fun e => (e.1, e.2.filter (fun op => !waitsFrom c op))) }
  releaseCore ((coreThreads c).foldl stopThread s) c

/-- SPARE of the stack of an HBM row: rows left in its most-used channel. -/
def spareUpdate (s : State) (a : Nat) : State :=
  let ch := lineChannel (a / 128)
  let left := 64 - retiredCount s 0 (fun x => decide (lineChannel (x / 128) = ch))
  let o := mcOff (ch / 64) (0x100 + 8 * (ch % 64 / 32))
  rsetField s o 16 8 (min left (rfield s o 16 8))

/-- What retirement does to the region at once. -/
def applyRetire (s : State) : Region → State
  | .hbmRow a => spareUpdate s a
  | .l2way b _ => nextTransition s (b / 32)
  | .core c => stopCore s c
  | .port p => linkState (if portUp s p then leaveUp s p else setPort s p Port.down) p 7 9 0
  | _ => s

/-- A unit code for the RETIRE report: the quadrant of the region. -/
def retireUnit (r : Region) : Nat := unitOf (regionQuad r) 0

/-- Rows are retired one spare after another; any other region once. -/
def isRow : Region → Bool
  | .hbmRow _ => true
  | .ddrRow _ => true
  | .sram _ => true
  | _ => false

/-- A lasting fault that nothing can retire: a core stops issuing all the same (R54), and the device or the
DIMM is to be replaced (R471, R472). -/
def notRetired (s : State) (r : Region) : State :=
  match r with
  | .core c => setReplace (stopCore s c)
  | .ddrRow _ => setDimm s
  | _ => setReplace s

/-- The report of a retirement. -/
def reportRetire (s : State) (r : Region) (e : RetireEnt) : State :=
  report s 0x000F (retireUnit r) (retireWord e) 0

/-- Retire a region that has a lasting fault. Where its spares are spent RETIRE is logged too, and names the
DIMM (R470, R472). With the store full nothing is retired (R471). -/
def retireRegion (s : State) (r : Region) : State :=
  match retireEnt s r with
  | none => setReplace s
  | some e =>
    if e ∈ s.kept.retire ∧ isRow r = false then applyRetire s r
    else if sparesSpent s r then notRetired (reportRetire s r e) r
    else if 256 ≤ s.kept.retire.length then
      (match r with
       | .core c => setReplace (stopCore s c)
       | _ => setReplace s)
    else applyRetire (reportRetire
      { s with kept := { s.kept with retire := s.kept.retire ++ [e] } } r e) r

/-! ### Classes (R466, R467) -/

/-- Class of an event: 0 NOTICE, 1 CORRECTED, 2 STEP, 3 DEVICE, 4 PENDING. An ANALOGUE report names
its part in UNIT, by the order of the analogue table. -/
def classOf (r : Report) : Nat :=
  match r.code.toNat with
  | 0x1 => 1
  | 0x2 => 1
  | 0x3 => 2
  | 0x5 => 2
  | 0x6 => 2
  | 0x7 => 2
  | 0x8 => 2
  | 0x9 => 2
  | 0xA => if r.loc.msb then 2 else 1
  | 0xB => if r.unit = 2 ∨ r.unit = 5 then 3 else if r.unit = 4 then 2 else 0
  | 0xC => 4
  | 0x10 => 3
  | 0x11 => 3
  | 0x12 => 3
  | _ => 0

/-- Count a corrected error or a checksum mismatch of a region; a region with as many as the thresholds
allow within the window has a lasting fault (R470). -/
def countRegion (s : State) (r : Region) (checksum : Bool) : State :=
  let now := s.kept.hours.toNat
  let w := rfield s (safeOff 0x30) 48 16
  let all := s.safety.counts ++ [(r, checksum, now)]
  let n := (all.filter (fun e => decide (e.1 = r ∧ e.2.1 = checksum ∧ now ≤ e.2.2 + w))).length
  let limit := max 1 (if checksum then rfield s (safeOff 0x30) 8 8 else rfield s (safeOff 0x30) 0 8)
  let s := { s with safety := { s.safety with counts := all } }
  if limit ≤ n then retireRegion s r else s

/-- Test the region of an event, and count it. -/
def testEvent (s : State) (r : Report) : State :=
  match regionOf s r with
  | none => s
  | some g =>
    let s := queueTest s g
    if r.code = 6 then countRegion s g true
    else if classOf r = 1 then countRegion s g false else s

/-- A DEVICE event: SAFE_N goes low, SAFE_LASTDEV records it, and a device reset is due. -/
def deviceEvent (s : State) (r : Report) : State :=
  let w := wd (r.code.toNat * 2 ^ 48 + (rget s (safeOff 8)).toNat % 2 ^ 48)
  let s := raiseAlert (safeBit s 0 false) 3
  let s := rset s (safeOff 0x48) w
  { s with kept := { s.kept with lastDev := w }, safety := { s.safety with resetDue := true } }

/-- An ST_LAPSE is PENDING until a slice of its core passes (R479). -/
def notePending (s : State) (r : Report) : State :=
  if r.code = 0xC then
    let c := coreIx (r.unit.toNat / 2 ^ 14) (r.unit.toNat % 2 ^ 14)
    lapseBit { s with safety := { s.safety with lapses := insertNat c s.safety.lapses } }
  else s

/-- Act on a report of a class. -/
def actOn (s : State) (r : Report) (cls : Nat) : State :=
  match cls with
  | 1 => testEvent (logEvent s r 1) r
  | 2 => testEvent (commitAbort (logEvent s r 2) 1 none) r
  | 3 => logEvent (deviceEvent s r) r 3
  | 4 => logEvent (notePending s r) r 4
  | _ => let s := logEvent s r 0
         if r.code = 4 then testEvent s r else s

/-- SAFETY_EVENT (R466): the oldest report that waits, or one from outside the model's units. -/
def execSafetyEvent (outside : Option Report) (s : State) : Host.Outcome State Fault Refusal :=
  .next (match outside with
    | some r => actOn s r (classOf r)
    | none =>
      match s.safety.reports with
      | [] => s
      | r :: t => actOn { s with safety := { s.safety with reports := t } } r (classOf r))

/-- LOCKSTEP_MISMATCH (R465). -/
def execLockstepMismatch (s : State) : Host.Outcome State Fault Refusal :=
  .next (actOn s { code := 0x10, unit := 0, loc := 0, info := 0 } 3)

/-! ### Targeted tests (R469) -/

def setTesting (s : State) (q : Nat) (v : Bool) : State :=
  { s with safety := { s.safety with testing := tabSet (fun _ => false) s.safety.testing q v } }

def dropTest (s : State) (q : Nat) : State :=
  { s with safety := { s.safety with
    tests := tabSet (fun _ => []) s.safety.tests q ((tabGet (fun _ => []) s.safety.tests q).drop 1) }
           selfTest := { s.selfTest with
    due := tabSet (fun _ => []) s.selfTest.due q
      ((tabGet (fun _ => []) s.selfTest.due q).map (fun d => (d.1, d.2.1, d.2.2 - 1))) } }

/-- ST_STATUS.STATE of a quadrant. -/
def stState (s : State) (q v : Nat) : State := rsetField s (stOff (0x100 + 8 * q)) 0 3 v

/-- A core stops for a test: its caches complete what is pending and are then invalidated with its
translation cache (R301, R476). -/
def enterTest (s : State) (c : Nat) : State :=
  let s := blockL1 s c
  let s := setCore s c { getCore s c with testing := true, l1d := [], l1i := [], ucache := [] }
  setTlb s c []

/-- Write back and invalidate the lines of one way of a bank. -/
def cleanBankWay (s : State) (b w : Nat) : State :=
  ((s.l2.filter (fun e => decide (e.2.way = w ∧ lineBank e.1 = b))).map Prod.fst).foldl evictLine s

/-- The rows inside the array complete and no row enters. -/
def completeRows (s : State) (ci : Nat) : State :=
  match (getArr s ci).owner, (getArr s ci).pass with
  | some o, some p => if p.state = .stopped then s else drainInside ci o p.inside.length s
  | _, _ => s

/-- The core's state is saved in its quadrant's area ST_SAVE, 2 MiB of memory, through the home banks
(R284): each of its bytes is free (log entry 86). -/
def saveCore (s : State) (q : Nat) : State :=
  let a := rfield s (stOff (0x300 + 8 * q)) 21 25 * 2 ^ 21
  let byte (k : Nat) : Byte := Config.saveByte s.fresh k
  (List.range 16384).foldl (fun s k => (writePa s (unitAgent 7) (a + 128 * k) 128
    (ofBytes ((List.range 128).map (fun j => byte (128 * k + j))))).1) { s with fresh := s.fresh + 1 }

/-- A core stops at its next boundaries, its state is saved and its caches are invalidated (R476). -/
def holdCore (s : State) (q c : Nat) : State :=
  let s := enterTest (saveCore (completeRows s c) q) c
  stState (rsetField s (stOff (0x100 + 8 * q)) 8 6 (c % 34)) q 3

/-- What the start of a test does. -/
def beginTest (s : State) (q : Nat) : Region → State
  | .l2way b w => stState (cleanBankWay (blockBank s b) b w) q 5
  | .hbmRow _ => stState (blockBanks s q) q 5
  | .ddrRow _ => stState (blockBanks s q) q 5
  | .core c => holdCore s q c
  | .port p =>
    let s := if portUp s p then leaveUp s p else setPort s p Port.down
    stState (linkState s p 0 0 0) q 5
  | _ => stState s q 5

/-- No test and no slice of a quadrant is in progress. -/
def quadFree (s : State) (q : Nat) : Bool :=
  !tabGet (fun _ => false) s.safety.testing q && (tabGet (fun _ => none) s.selfTest.running q).isNone

/-- Self-test slices run (R479). -/
def slicesRun (s : State) : Bool := bit (rget s (stOff 0)) 63

/-- A slice of a quadrant was due before any test that waits (R469). -/
def sliceNext (s : State) (q : Nat) : Bool :=
  slicesRun s && (match tabGet (fun _ => []) s.selfTest.due q with
    | [] => false
    | d :: _ => decide (d.2.2 = 0))

/-- TARGETED_TEST: the oldest of a quadrant starts. -/
def execTargetedTest (q : BitVec 2) (s : State) : Host.Outcome State Fault Refusal :=
  let q := q.toNat
  .next (match tabGet (fun _ => []) s.safety.tests q with
    | [] => s
    | r :: _ => if quadFree s q && !sliceNext s q then beginTest (setTesting s q true) q r else s)

/-- The core's slice has passed. -/
def passSlice (s : State) (c : Nat) : State :=
  let others := s.selfTest.passed.filter (fun e => decide (e.1 ≠ c))
  let s := { s with
    selfTest := { s.selfTest with passed := others ++ [(c, 0)] }
    safety := { s.safety with lapses := s.safety.lapses.filter (fun x => decide (x ≠ c)) } }
  releaseCore (lapseBit s) c

/-- What the end of a test does: a region that fails has a lasting fault. A core's test is a slice (R469,
R479), and a port that the full store cannot retire comes up again (R471). -/
def finishTest (s : State) (pass : Bool) : Region → State
  | .core c => if pass then passSlice s c else retireRegion s (.core c)
  | .port p =>
    let s := if pass then s else retireRegion s (.port p)
    if portRetired s p then s else releasePort s p 0
  | r => if pass then s else retireRegion s r

/-- TARGETED_TEST_DONE (R470). -/
def execTargetedTestDone (q : BitVec 2) (pass : Bool) (s : State) : Host.Outcome State Fault Refusal :=
  let q := q.toNat
  .next (match testedRegion s q with
    | none => s
    | some r => finishTest (stState (dropTest (setTesting s q false) q) q 0) pass r)

/-! ### Recovery (R474) -/

/-- A quadrant's compute-core threads are OFF, and its engine queues OFF or empty. -/
def mayRecover (s : State) (q : Nat) : Bool :=
  s.threads.all (fun e => decide (e.1 / 16 / 34 ≠ q ∨ 32 ≤ e.1 / 16 % 34 ∨ e.2.mode = .off)) &&
  s.queues.all (fun e => decide (e.1 / 64 ≠ q) || decide (queueState s e.1 = 0) ||
    (e.2.descs.isEmpty && e.2.run.isNone && e.2.flight.isEmpty))

/-- Start recovery: every line is cleaned and invalidated, the lost marks are cleared, and the banks
that had a lost set are tested. -/
def recoverWrite (s : State) (q : Nat) : State :=
  if s.safety.recover.isSome || !mayRecover s q then rsetField s (safeOff 0x50) 61 1 1
  else
    let banks := ((s.lost.filter (fun e => decide (e / 32768 = q))).map (· / 1024)).dedup
    let s := rsetField (rsetField s (safeOff 0x50) 62 1 1) (safeOff 0x50) 0 2 q
    let s := (List.range 34).foldl (fun s k => blockL1 s (coreIx q k)) (blockBanks s q)
    let s := { s with safety := { s.safety with recover := some q } }
    let s := ((s.l2.filter (fun e => decide (homeQuad (128 * e.1) = q))).map Prod.fst).foldl evictLine s
    let s := clearLost s q
    (banks.flatMap (fun b => (List.range 24).map (Region.l2way b))).foldl queueTest s

/-- SAFE_RECOVER.GO, written by ring 0 or the host. -/
def execSafeRecover (src : Sender) (q : BitVec 2) (s : State) : Host.Outcome State Fault Refusal :=
  .next (if mayWrite s src 0 then recoverWrite s q.toNat else s)

/-- RECOVERY_DONE: the tests of the quadrant have ended. -/
def execRecoveryDone (s : State) : Host.Outcome State Fault Refusal :=
  .next (match s.safety.recover with
    | none => s
    | some q =>
      if (tabGet (fun _ => []) s.safety.tests q).isEmpty then
        rsetField { s with safety := { s.safety with recover := none } } (safeOff 0x50) 62 1 0
      else s)

/-! ### Scrubbing (R462) -/

/-- DRAM_SCRUB: the maintenance requester reads the line; corrected words are written back; words found
uncorrectable, now or before, stay as they are and are logged. -/
def execDramScrub (line : BitVec 39) (corrected bad : BitVec 16) (s : State) :
    Host.Outcome State Fault Refusal :=
  let l := line.toNat
  let pa := 128 * l
  let unit := unitOf (homeQuad pa) (lineChannel l % 64)
  .next (if !inMemory s pa then s else
    let s := passChannel s (lineChannel l) 32
    let s := if corrected = 0 then s else report s 0x0001 unit (wd pa) (corrected.zeroExtend 64)
    let bad := badWords s l ||| bad
    if bad = 0 then s else
    report { s with memBad := tabSet (fun _ => 0) s.memBad l bad } 0x0004 unit (wd pa) 0)

/-- The lowest bit that is set. -/
def lowestBit (w : BitVec 16) : Nat := ((List.range 16).find? (fun k => w.getLsbD k)).getD 0

/-- L2_SCRUB: a word of a bank has the index 16 × (24 × set + way) + word (log entry 133). -/
def execL2Scrub (line : BitVec 39) (corrected bad : BitVec 16) (s : State) :
    Host.Outcome State Fault Refusal :=
  let l := line.toNat
  let unit := unitOf (homeQuad (128 * l)) (l % 32)
  .next (match tabFind s.l2 l with
    | none => s
    | some ln =>
      let part := inWay (lineBank l) ln.way
      let s := if corrected = 0 then s
        else report s 0x0002 unit (wd (16 * (24 * lineSet l + ln.way) + lowestBit corrected)) part
      let bad := ln.bad ||| bad
      if bad = 0 then s else
      report { s with l2 := tabPut s.l2 l { ln with bad := bad } } 0x0004 unit (wd (128 * l)) part)

end Sys2Proof.Machine
end

