-- ==== Sys2Proof/Machine/Power.lean ====
section
/-! DEFINITION. Power, brown-out and temperature (R528, R541 to R549). -/

namespace Sys2Proof.Machine

open Sys2Proof

/-! ### Duty (R541, R542, R548) -/

/-- d in force, the lowest over the dies. -/
def dutyLow (s : State) : Nat := (List.range 5).foldl (fun d k => min d (dieDuty s k)) 8

/-- A thermal duty is below 8. -/
def thermLow (s : State) : Bool :=
  (List.range 5).any (fun k => decide (tabGet (fun _ => 8) s.power.dt k < 8))

/-- PWR_STATUS follows the duties; the POWER events THROTTLE and THROTTLE_END are raised where d leaves
8 and returns to it. -/
def showDuty (s : State) : State :=
  let was := rfield s (pwrOff 0) 8 4
  let now := dutyLow s
  let s := rsetField s (pwrOff 0) 8 4 now
  let s := rsetField s (pwrOff 0) 1 1 (b2n (decide (s.power.dp < 8)))
  let s := rsetField s (pwrOff 0) 2 1 (b2n (thermLow s))
  let s := if thermLow s then raiseAlert s 1 else s
  if was = 8 ∧ now < 8 then powerEvent s 3
  else if was < 8 ∧ now = 8 then powerEvent s 4 else s

/-- The sustained limit in watts; values above 2,800 act as 2,800. -/
def sustained (s : State) : Nat := min 2800 (rfield s (pwrOff 8) 0 16)

/-- POWER_SAMPLE (R541): the input power over 10 µs, its means over 1 ms and 1 s, and the input voltage
in mV. -/
def execPowerSample (watts mean1ms mean1s vin : BitVec 16) (s : State) :
    Host.Outcome State Fault Refusal :=
  .next (if !s.power.stages then s else
    let run := if 2800 < watts.toNat then s.power.runOver + 10 else 0
    let above := decide (sustained s < mean1s.toNat) || decide (4000 ≤ run)
    let clear := if vin.toNat ≤ 43000 then 0 else s.power.sagClear + 10
    let s := rsetField (rsetField s (pwrOff 0) 48 16 vin.toNat) (pwrOff 0) 32 16 mean1ms.toNat
    showDuty { s with power := { s.power with
      runOver := run, capped := s.power.capped || above, sagClear := clear
      dp := if 3400 < watts.toNat then 4 else s.power.dp } })

/-- A thermal duty after a period. -/
def nextThermal (d : Nat) (hot cool : Bool) : Nat :=
  if hot then max 1 (d - 1) else if cool then min 8 (d + 1) else d

/-- DUTY_WINDOW (R542): the next of the 8 windows of the period begins. -/
def execDutyWindow (s : State) : Host.Outcome State Fault Refusal :=
  .next (if !s.power.stages then s else
    { s with power := { s.power with window := min 7 (s.power.window + 1) } })

/-! ### Temperature (R482, R547 to R549) -/

/-- Sensors of a die. -/
def dieSensors (k : Nat) : List Nat := (List.range 32).map (fun j => 32 * k + j)

/-- The higher of two readings. -/
def hotter (a b : Option Int) : Option Int :=
  match a, b with
  | some x, some y => some (max x y)
  | some x, none => some x
  | none, b => b

/-- The reading of a sensor that is not excluded. -/
def soundTemp (s : State) (n : Nat) : Option Int :=
  if n ∈ s.safety.excluded then none else (tabFind s.power.temps n).map BitVec.toInt

/-- The reading that stands for a sensor: its own, or for an excluded one the higher of its neighbours', the
sensors of the die with the numbers next to its own (R482; DESIGN CHOICE, log entry 153). -/
def usedTemp (s : State) (n : Nat) : Option Int :=
  if n ∈ s.safety.excluded then
    hotter (if n % 32 = 0 then none else soundTemp s (n - 1)) (if n % 32 = 31 then none else soundTemp s (n + 1))
  else soundTemp s n

/-- The readings of a die. -/
def dieTemps (s : State) (k : Nat) : List Int := (dieSensors k).filterMap (usedTemp s)

/-- The hottest junction and its die; none before the first reading. -/
def hottest (s : State) : Option (Int × Nat) :=
  (List.range 5).foldl (fun m k => (dieTemps s k).foldl (fun m v =>
    match m with
    | none => some (v, k)
    | some x => if x.1 < v then some (v, k) else m) m) none

/-- TJMAX and DIE follow the readings. -/
def showTemps (s : State) : State :=
  match hottest s with
  | none => s
  | some x => rsetField (rsetField s (pwrOff 0x20) 16 16 (BitVec.ofInt 16 x.1).toNat) (pwrOff 0x20) 0 3 x.2

/-- Readings are taken. -/
def takeTemps (s : State) (ts : List SensorTemp) : State :=
  showTemps { s with power := { s.power with
    temps := ts.foldl (fun m x => tabPut m x.sensor.toNat x.temp) s.power.temps } }

/-- A sensor of a die reads 100 °C or more; every one reads below 97 °C. -/
def dieHot (s : State) (k : Nat) : Bool := (dieTemps s k).any (fun v => decide (800 ≤ v))
def dieCool (s : State) (k : Nat) : Bool := (dieTemps s k).all (fun v => decide (v < 776))

/-- INLET of THERM_STATUS. -/
def inletTemp (s : State) : Int := (BitVec.ofNat 16 (rfield s (pwrOff 0x20) 48 16)).toInt

/-- The coolant is measured; an inlet that rises above 40 °C is a POWER event. -/
def takeCoolant (s : State) (c : Coolant) : State :=
  let was := inletTemp s
  let s := rsetField (rsetField s (pwrOff 0x20) 48 16 c.inlet.toNat) (pwrOff 0x20) 32 16 c.outlet.toNat
  if was ≤ 320 ∧ 320 < c.inlet.toInt then raiseAlert (powerEvent s 5) 2 else s

/-- DUTY_PERIOD (R541, R542, R548): an 800 µs period ends. `temps` are the highest readings of sensors in it,
and `coolant` is the coolant's. -/
def execDutyPeriod (temps : List SensorTemp) (coolant : Coolant) (s : State) :
    Host.Outcome State Fault Refusal :=
  .next (if !s.power.stages then s else
    let s := takeCoolant (takeTemps s temps) coolant
    let dp := if s.power.capped then max 1 (s.power.dp - 1) else min 8 (s.power.dp + 1)
    let dt := (List.range 5).foldl (fun t k =>
      tabSet (fun _ => 8) t k (nextThermal (tabGet (fun _ => 8) t k) (dieHot s k) (dieCool s k))) s.power.dt
    showDuty { s with power := { s.power with dp := dp, dt := dt, window := 0, capped := false } })

/-- THERMAL_TRIP: a junction reads 110 °C or more (units of 0.125 °C). -/
def execThermalTrip (sensor : BitVec 8) (temp : BitVec 16) (s : State) :
    Host.Outcome State Fault Refusal :=
  .next (if s.power.stages && decide (880 ≤ temp.toInt) &&
      decide (sensor.toNat ∉ s.safety.excluded) then
    let s := takeTemps { s with power := { s.power with tripped := true } } [{ sensor := sensor, temp := temp }]
    report s 0x11 sensor.toNat (temp.signExtend 64) 0
  else s)

/-- THERMAL_BOOT_RELEASE: every sensor reads below 95 °C. -/
def execThermalBootRelease (s : State) : Host.Outcome State Fault Refusal :=
  .next { s with power := { s.power with tripped := false } }

/-- INLET_HIGH (R547): the coolant inlet rises above 40 °C. -/
def execInletHigh (coolant : Coolant) (s : State) : Host.Outcome State Fault Refusal :=
  .next (if s.power.stages && decide (320 < coolant.inlet.toInt) then takeCoolant s coolant else s)

/-! ### Pins (R528, R538, R548, R549) -/

/-- THERM_N is released: no thermal duty is below 8, and no thermal trip holds the boot. -/
def thermN (s : State) : Bool := !(thermLow s || s.power.tripped)

/-- ALERT_N is released: no bit of ALERT is 1. -/
def alertN (s : State) : Bool := decide (s.power.alert = 0)

/-- An in-band interrupt is raised on the board-management bus. -/
def inBandIrq (s : State) : Bool := !alertN s

/-! ### Brown-out (R543 to R546) -/

/-- The input-sag throttle is in force (R244). -/
def sagging (s : State) : Bool := bit (rget s (pwrOff 0)) 0

/-- INPUT_SAG: VIN, in mV, has fallen below 42.0 V. While the throttle is in force the reading restarts the 1 ms
of its end (R544). -/
def execInputSag (vin : BitVec 16) (s : State) : Host.Outcome State Fault Refusal :=
  .next (if s.power.stages && decide (vin.toNat < 42000) then
    let was := sagging s
    let s := rsetField (rsetField s (pwrOff 0) 0 1 1) (pwrOff 0) 48 16 vin.toNat
    let s := { s with power := { s.power with sagClear := 0 } }
    if was then s else raiseAlert (powerEvent (report s 0x30 0 (wd vin.toNat) 0) 1) 0
  else s)

/-- SAG_END: VIN has stayed above 43.0 V for 1 ms. -/
def execSagEnd (s : State) : Host.Outcome State Fault Refusal :=
  .next (if sagging s && decide (1000 ≤ s.power.sagClear) then
    powerEvent (rsetField s (pwrOff 0) 0 1 0) 2
  else s)

/-- SUPPLY_RESET: VIN has fallen below 38.0 V; the power stages hold the device in reset. -/
def execSupplyReset (vin : BitVec 16) (s : State) : Host.Outcome State Fault Refusal :=
  .next (if s.power.stages && decide (vin.toNat < 38000) && !s.power.supplyHeld then
    report { s with power := { s.power with supplyHeld := true } } 0x12 0 (wd vin.toNat) 0
  else s)

/-- SUPPLY_RECOVER: VIN has been at or above 44.0 V for 10 ms. -/
def execSupplyRecover (s : State) : Host.Outcome State Fault Refusal :=
  .next { s with power := { s.power with supplyHeld := false } }

end Sys2Proof.Machine
end

