-- ==== Sys2Proof/Machine/SelfTest.lean ====
section
/-! DEFINITION. Periodic self-test (R475 to R480), analogue checks (R482), ageing and the margin
re-planner (R486 to R489). -/

namespace Sys2Proof.Machine

open Sys2Proof

/-! ### Slots (R475) -/

def setDue (s : State) (q : Nat) (l : List (Nat × Nat × Nat)) : State :=
  { s with selfTest := { s.selfTest with due := tabSet (fun _ => []) s.selfTest.due q l } }

def setRunning (s : State) (q : Nat) (c : Option Nat) : State :=
  { s with selfTest := { s.selfTest with running := tabSet (fun _ => none) s.selfTest.running q c } }

/-- In one quadrant the slot of a number begins: its core's slice is due, where the core is present
and issues. -/
def openSlot (s : State) (slot q : Nat) : State :=
  let c := coreIx q slot
  if slicesRun s && corePresent s c && !(getCore s c).stopped then
    let ahead := (tabGet (fun _ => []) s.safety.tests q).length
    setDue s q (tabGet (fun _ => []) s.selfTest.due q ++ [(c, 0, ahead)])
  else s

/-- The rotations of a quadrant. -/
def countRotation (s : State) (q : Nat) : State := raddSat s (stOff (0x100 + 8 * q)) 32 32 1

/-- SELF_TEST_SLOT: 750,000 configuration cycles after the last slot began, the next number's slot
begins in every quadrant. -/
def execSelfTestSlot (s : State) : Host.Outcome State Fault Refusal :=
  .next (if isReady s && decide (750000 ≤ s.selfTest.elapsed) then
    let last := s.selfTest.slot
    let slot := if 33 ≤ last then 0 else last + 1
    let s := if last = 33 then (List.range 4).foldl countRotation s else s
    let s := { s with selfTest := { s.selfTest with slot := slot, elapsed := 0 } }
    (List.range 4).foldl (fun s q => openSlot s slot q) s
  else s)

/-! ### Slices (R476 to R480) -/

/-- A slice of a core begins. -/
def beginSlice (s : State) (q c : Nat) : State := setRunning (holdCore s q c) q (some c)

/-- SLICE_START: the oldest slice that is due starts when no other slice or test of its quadrant runs
and no test was in line before it. -/
def execSliceStart (q : BitVec 2) (s : State) : Host.Outcome State Fault Refusal :=
  let q := q.toNat
  .next (match tabGet (fun _ => []) s.selfTest.due q with
    | [] => s
    | d :: rest =>
      if quadFree s q && sliceNext s q then
        let s := setDue s q rest
        if (getCore s d.1).stopped then s else beginSlice s q d.1
      else s)

/-- The core's slice has failed: it is reported, and the core is retired at once (R480). Which word an
uncorrectable error of the save or the restore lies in is free (log entry 157). -/
def failSlice (s : State) (c : Nat) (signature : Word) (ue : Bool) : State :=
  let s := { s with
    safety := { s.safety with lapses := s.safety.lapses.filter (fun x => decide (x ≠ c)) } }
  let s := lapseBit s
  let unit := unitOf (c / 34) (c % 34)
  let f := drawFree s
  let s := if ue then ueIn f.2 unit f.1 inCore else report s 7 unit signature 0
  retireRegion s (.core c)

/-- SLICE_END: the signature is compared with ST_SIG for the core's kind (R476, R478, R480). -/
def execSliceEnd (q : BitVec 2) (signature : BitVec 64) (ue : Bool) (s : State) :
    Host.Outcome State Fault Refusal :=
  let q := q.toNat
  .next (match tabGet (fun _ => none) s.selfTest.running q with
    | none => s
    | some c =>
      let s := stState (setRunning s q none) q 0
      let want := rget s (stOff (0x400 + 8 * b2n (isControl c)))
      if ue = false ∧ signature = want then passSlice s c else failSlice s c signature ue)

/-- ST_CFG.LATE in configuration cycles. -/
def lateCycles (s : State) : Nat := 100000 * min 40 (rfield s (stOff 0) 16 6)

/-- ST_LAPSE (R479): the first slice due is too late, and no lapse of its core is PENDING. -/
def execStLapse (q : BitVec 2) (s : State) : Host.Outcome State Fault Refusal :=
  let q := q.toNat
  let late (d : Nat × Nat × Nat) : Bool :=
    slicesRun s && decide (lateCycles s < d.2.1) && decide (d.1 ∉ s.safety.lapses)
  .next (match (tabGet (fun _ => []) s.selfTest.due q).find? late with
    | none => s
    | some d =>
      let start := 4 * s.ticks - d.2.1
      actOn s { code := 0xC, unit := BitVec.ofNat 16 (unitOf q (d.1 % 34)), loc := wd start
                info := 0 } 4)

/-! ### Ageing store -/

def getIsland (s : State) (n : Nat) : Island := tabGet (fun _ => Island.new) s.kept.ages n

def setIsland (s : State) (n : Nat) (v : Island) : State :=
  { s with kept := { s.kept with ages := tabSet (fun _ => Island.new) s.kept.ages n v } }

/-- UNIT of a report that concerns an island. -/
def islandUnit (n : Nat) : Nat := unitOf (n / 64) (n % 64)

/-- Present voltage of an island, in mV. -/
def islandVolt (s : State) (n : Nat) : Nat :=
  (Config.startVolt n).toNat + 5 * (getIsland s n).steps.toNat

/-- The logical core on the physical core of an island. -/
def islandCore (s : State) (n : Nat) : Option Nat :=
  if n % 64 < 36 then
    ((List.range 34).map (coreIx (n / 64))).find? (fun c => decide (coreIsland s c = n))
  else none

/-- An island pauses for a clock change. -/
def pauseIsland (s : State) (n : Nat) : State :=
  { s with power := { s.power with changing := insertNat n s.power.changing } }

/-! ### Analogue checks (R482) -/

def anaUnit : AnaPart → Nat
  | .serdes => 0
  | .phy => 1
  | .vref => 2
  | .temp => 3
  | .osc => 4
  | .bref => 5

/-- Class of a check that fails; one that was overdue becomes STEP where it was no worse (R466). -/
def anaClass (part : AnaPart) (wasDue : Bool) : Nat :=
  match part with
  | .vref => 3
  | .bref => 3
  | .osc => 2
  | _ => if wasDue then 2 else 0

/-- A temperature sensor is excluded, and its neighbours' readings stand for it; two of one die ask for
replacement. -/
def excludeSensor (s : State) (n : Nat) : State :=
  let l := insertNat n s.safety.excluded
  let s := showTemps { s with safety := { s.safety with excluded := l } }
  if 2 ≤ (l.filter (fun x => decide (x / 32 = n / 32))).length then setReplace s else s

/-- A spare core that holds no number is retired by its physical index. -/
def retirePhysical (s : State) (n : Nat) : State :=
  let e : RetireEnt := { kind := 3, region := BitVec.ofNat 48 n }
  if e ∈ s.kept.retire then s
  else if 256 ≤ s.kept.retire.length then setReplace s
  else report { s with kept := { s.kept with retire := s.kept.retire ++ [e] } } 0xF
    (unitOf (n / 64) 0) (retireWord e) 0

/-- The port of a lane that fails retrains: one that is UP leaves it, and one in bring-up starts again
(R482). -/
def retrainLane (s : State) (p : Nat) : State :=
  if portUp s p then retrainUp s p 4
  else if 1 ≤ portState s p ∧ portState s p ≤ 5 then countTry s p 4 else s

/-- What a check that fails does beside its event. -/
def anaAction (s : State) (part : AnaPart) (n : Nat) : State :=
  match part with
  | .serdes =>
    let p := n / 4 % 16
    queueTest (retrainLane s p) (.port p)
  | .phy => { s with safety := { s.safety with retrain := insertNat n s.safety.retrain } }
  | .temp => excludeSensor s n
  | .osc =>
    let s := { s with power := { s.power with halted := insertNat n s.power.halted } }
    if n % 64 < 36 then
      match islandCore s n with
      | some c => retireRegion s (.core c)
      | none => retirePhysical s n
    else s
  | _ => s

/-- ANALOGUE_CHECK: a check runs; one that passes ends an overdue one. -/
def execAnalogueCheck (part : AnaPart) (index : BitVec 14) (measured : BitVec 64) (fails : Bool)
    (s : State) : Host.Outcome State Fault Refusal :=
  let n := index.toNat
  let wasDue := decide ((part, n) ∈ s.safety.overdue)
  let rest := s.safety.overdue.filter (fun x => decide (x ≠ (part, n)))
  let s := lapseBit { s with safety := { s.safety with overdue := rest } }
  .next (if fails then
    let r : Report := { code := 0xB, unit := BitVec.ofNat 16 (anaUnit part), loc := measured
                        info := wd n }
    anaAction (actOn s r (anaClass part wasDue)) part n
  else s)

/-- ANALOGUE_OVERDUE: a check has not run within twice its interval. -/
def execAnalogueOverdue (part : AnaPart) (index : BitVec 14) (s : State) :
    Host.Outcome State Fault Refusal :=
  let n := index.toNat
  .next (if (part, n) ∈ s.safety.overdue then s else
    let s := lapseBit { s with safety := { s.safety with overdue := s.safety.overdue ++ [(part, n)] } }
    actOn s { code := 0xB, unit := BitVec.ofNat 16 (anaUnit part), loc := 0, info := wd n } 4)

/-- CHANNEL_RETRAIN_DONE: the accesses that the channel held are served again. -/
def execChannelRetrainDone (ch : BitVec 9) (s : State) : Host.Outcome State Fault Refusal :=
  .next { s with safety := { s.safety with
    retrain := s.safety.retrain.filter (fun x => decide (x ≠ ch.toNat)) } }

/-! ### Margins (R486 to R488) -/

/-- An island's clock can be lowered: a core or the pot of a quadrant. -/
def islandMoves (n : Nat) : Bool := decide (n % 64 ≤ 36) && decide (n < 256)

/-- The island stands at its voltage ceiling. -/
def atCeiling (s : State) (n : Nat) : Bool :=
  decide (rfield s (ageOff 0) 56 8 ≤ (getIsland s n).steps.toNat)

/-- One 5 mV step. -/
def stepVolt (s : State) (n : Nat) : State :=
  let v := getIsland s n
  setIsland s n { v with steps := BitVec.ofNat 8 (min 255 (v.steps.toNat + 1)) }

/-- Frequency of an island that moves, in MHz. -/
def islandMHz (s : State) (n : Nat) : Nat :=
  match islandCore s n with
  | some c => 25 * rfield s (coreReg c 0x38) 0 8
  | none => 600 - 25 * (getIsland s n).lowered.toNat

/-- The island's clock is lowered by 25 MHz, and the island pauses for the change; an island whose
clock is fixed asks for replacement (R488). -/
def lowerClock (s : State) (n : Nat) : State :=
  if !islandMoves n then setReplace s else
  let v := getIsland s n
  let s := setIsland s n { v with lowered := BitVec.ofNat 8 (min 255 (v.lowered.toNat + 1))
                                  limit := true }
  let s := match islandCore s n with
    | some c => rsetField s (coreReg c 0x38) 0 8 (rfield s (coreReg c 0x38) 0 8 - 1)
    | none => s
  powerEvent (report (pauseIsland s n) 0x32 (islandUnit n) (wd (islandMHz s n)) 0) 6

/-- MONITOR_SAMPLE (R486): the lowest slack of the island's four monitors. -/
def execMonitorSample (island : BitVec 8) (slack : BitVec 16) (s : State) :
    Host.Outcome State Fault Refusal :=
  let n := island.toNat
  let s := { s with power := { s.power with slack := tabSet (fun _ => 0) s.power.slack n slack } }
  let s := if slack.toInt < 0 then report s 0xA (islandUnit n) (slack.signExtend 64) 0 else s
  .next (if slack.toInt < (rfield s (ageOff 0) 32 8 : Nat) then
    (if atCeiling s n then lowerClock s n else
      let s := stepVolt s n
      report s 0x31 (islandUnit n) (wd (islandVolt s n)) 0)
  else s)

/-- RE_PLAN (R487): the lowest slack of the last 64 hours. How many steps bring it to the target is
the silicon's, within the ceiling. -/
def execRePlan (island : BitVec 8) (slack : BitVec 16) (s : State) : Host.Outcome State Fault Refusal :=
  let n := island.toNat
  let left := rfield s (ageOff 0) 56 8 - (getIsland s n).steps.toNat
  .next (if slack.toInt < (rfield s (ageOff 0) 40 8 : Nat) then
    (if left = 0 then lowerClock s n else
      let x := drawFree s
      { x.2 with power := { x.2.power with
        raising := tabSet (fun _ => 0) x.2.power.raising n (1 + x.1.toNat % left) } })
  else s)

/-- VOLTAGE_STEP (R487): one step of a plan in progress. -/
def execVoltageStep (island : BitVec 8) (s : State) : Host.Outcome State Fault Refusal :=
  let n := island.toNat
  let k := tabGet (fun _ => 0) s.power.raising n
  .next (if k = 0 then s else
    let s := { s with power := { s.power with raising := tabSet (fun _ => 0) s.power.raising n (k - 1) } }
    if atCeiling s n then s else stepVolt s n)

/-- CLOCK_CHANGE_END (R488): the island resumes. -/
def execClockChangeEnd (island : BitVec 8) (s : State) : Host.Outcome State Fault Refusal :=
  .next { s with power := { s.power with
    changing := s.power.changing.filter (fun x => decide (x ≠ island.toNat)) } }

end Sys2Proof.Machine
end

