-- ==== Sys2Proof/Machine/Boot.lean ====
section
/-! DEFINITION. Resets (R491 to R493), the reading and the checks of the deck (R506 to R510) and the boot
sequence (R494 to R503) but for its step 4, which is in Machine/Deck.lean. -/

namespace Sys2Proof.Machine

open Sys2Proof

/-! ### Resets -/

/-- What is kept over a device reset of a kind (R492, R522). Device resets are counted from
provisioning on. -/
def keptOver (k : Kept) (kind : Nat) : Kept :=
  { k with resets := if k.lc = 0 then 0 else k.resets + 1
           diag := k.diag && decide (kind = 4)
           lastDev := if kind = 0 then 0 else k.lastDev }

/-- Power and supply conditions that outlast a reset (R528, R546, R549). -/
def powerOver (p : Power) : Power :=
  { Power.reset with tripped := p.tripped, supplyHeld := p.supplyHeld, stages := p.stages, pgood := p.pgood }

/-- A device reset of a kind: 0 power-on, 1 module, 2 safety, 3 software, 4 life-cycle. Every unit
stops, and every other field takes its reset value. -/
def deviceReset (s : State) (kind : Nat) : State :=
  let k := keptOver s.kept kind
  let r := { State.reset with
    pending := s.pending, fresh := s.fresh + 2, wayZero := waysZero k, kept := k, power := powerOver s.power
    security := { Security.idle with nonceDraw := some s.fresh } }
  rset (rsetField r 0x18 24 4 kind) (safeOff 0x48) k.lastDev

/-- A device reset is in progress: boot step 1 has not ended. -/
def inReset (s : State) : Bool := decide (rfield s 0x18 0 4 = 1)

/-- A device reset that merges into one in progress (R493). -/
def requestReset (s : State) (kind : Nat) : State :=
  if inReset s then { s with safety := { s.safety with resetDue := false } } else deviceReset s kind

/-- POWER_ON_RESET: PGOOD rises. Where the power stages have not stopped, it merges into a reset in progress
(R493). -/
def execPowerOnReset (s : State) : Host.Outcome State Fault Refusal :=
  .next (if !s.power.stages then s
    else if s.power.pgood then requestReset s 0
    else deviceReset { s with power := { s.power with pgood := true } } 0)

/-- MODULE_RESET: MRST_N has been low for 1 µs. -/
def execModuleReset (s : State) : Host.Outcome State Fault Refusal :=
  .next (if s.power.stages then requestReset s 1 else s)

/-- SAFETY_RESET: a DEVICE event has asked for it (R467). -/
def execSafetyReset (s : State) : Host.Outcome State Fault Refusal :=
  .next (if s.safety.resetDue then requestReset s 2 else s)

/-- A write of ID_RESET. -/
def resetWrite (s : State) (val : Word) : State :=
  if field val 0 8 = 0xA5 then requestReset s 3 else s

/-- SOFTWARE_RESET: ring 0, the host or the debug port; the identity block answers from the end of
step 1 (R495), and a host write waits for earlier ones (R532). -/
def execSoftwareReset (src : Sender) (val : BitVec 64) (s : State) : Host.Outcome State Fault Refusal :=
  .next (if senderRing s src = 0 ∧ inReset s = false ∧ hostClear s src = true then resetWrite s val else s)

/-- The MSI-X table and its pending bits at their reset values. -/
def clearMsix (s : State) : State :=
  { s with regs := s.regs.filter (fun e => decide (e.1 < hostOff 0x8000 ∨ hostOff 0x10100 ≤ e.1)) }

/-- PCIE_RESET (R533): the configuration space and the BAR assignments, the MSI-X table and PBA, HOST_EVT and the
host's transaction. -/
def execPcieReset (s : State) : Host.Outcome State Fault Refusal :=
  let s := clearMsix (rset s (hostOff 0) 0)
  .next { s with
    txn := { s.txn with txns := s.txn.txns.filter (fun t => decide (t.who ≠ 0) || t.committed) }
    host := { s.host with reply := none, config := [], bar0 := 0, bar2 := 0 } }

/-- POWER_STAGES_START (R528). -/
def execPowerStagesStart (s : State) : Host.Outcome State Fault Refusal :=
  .next { s with power := { s.power with stages := true } }

/-- PWR_EN_FALL (R528): the stages stop, PGOOD falls, and everything volatile is lost. -/
def execPwrEnFall (s : State) : Host.Outcome State Fault Refusal :=
  .next { State.reset with
    pending := s.pending, fresh := s.fresh
    kept := { s.kept with lastDev := 0, diag := false }
    power := { Power.reset with stages := false, pgood := false }
    security := { Security.idle with nonceDraw := s.security.nonceDraw } }

/-! ### The flash and the deck -/

/-- Bytes of the flash. -/
def flashBytes (s : State) (a n : Nat) : List Byte :=
  (List.range n).map (fun i => tabGet zeroByte s.kept.flash (a + i))

def writeFlash (s : State) (a : Nat) (l : List Byte) : State :=
  { s with kept := { s.kept with flash := writeBytes s.kept.flash a l } }

/-- Flash offset of a copy: 1 A, 2 B. -/
def copyBase (c : Nat) : Nat := if c = 2 then 0x10000000 else 0

/-- A field of the header of a copy. -/
def headerField (s : State) (c off len : Nat) : Nat := ofBytes (flashBytes s (copyBase c + off) len)

def deckSvn (s : State) (c : Nat) : Nat := headerField s c 6 1
def deckGen (s : State) (c : Nat) : Nat := headerField s c 8 4
def deckSize (s : State) (c : Nat) : Nat := headerField s c 12 4
def deckCount (s : State) (c : Nat) : Nat := headerField s c 0x18 2

/-- Outcome of the header checks of a copy (R506); 0xF makes it a candidate. -/
def headerCode (s : State) (c : Nat) (err : Bool) : Nat :=
  let serial := headerField s c 0x10 8
  let size := deckSize s c
  if err then 9
  else if headerField s c 0 4 ≠ 0x4B434544 ∨ headerField s c 4 2 ≠ 3 then 1
  else if size = 0 ∨ size % 4096 ≠ 0 ∨ 0x0FF00000 < size ∨ deckCount s c = 0 ∨ 252 < deckCount s c
    then 2
  else if serial ≠ 0 ∧ serial ≠ Config.serial.toNat then 3
  else if deckSvn s c < s.kept.svnMin.toNat then 4
  else 0xF

/-- The section table of a copy: type, quadrant, offset and length. -/
def deckSections (s : State) (c : Nat) : List (Nat × Nat × Nat × Nat) :=
  (List.range (deckCount s c)).map (fun e =>
    let o := 0x40 + 16 * e
    (headerField s c o 1, headerField s c (o + 1) 1 % 4, headerField s c (o + 4) 4,
      headerField s c (o + 8) 4))

/-- ID_BOOT.ERRA or ERRB. -/
def setOutcome (s : State) (c code : Nat) : State := rsetField s 0x18 (if c = 2 then 12 else 8) 4 code

def setStage (s : State) (n : Nat) : State := rsetField s 0x18 0 4 n

/-- The boot may go on from a stage: power is on, PGOOD has risen, the supply is good, and no thermal trip holds
it. -/
def bootAt (s : State) (n : Nat) : Bool :=
  s.power.stages && s.power.pgood && !s.power.supplyHeld && !s.power.tripped && decide (rfield s 0x18 0 4 = n)

/-- No copy can be applied (R503). -/
def noDeck (s : State) : State := hostEvent (setStage s 0xB) 22

/-- Bytes of the training record of a copy: identities of stacks and channels, 8 bytes each, then training
results, and last the CRC-32 of what comes before it (R502; DESIGN CHOICE, log entry 155). -/
def recordSize : Nat := 0x100000
def recordBase (c : Nat) : Nat := copyBase c + 0x0FF00000

/-- The CRC-32 of a record is good. -/
def recordGood (b : List Byte) : Bool :=
  decide (ofBytes (b.drop (recordSize - 4)) = (linkCrc (b.take (recordSize - 4))).toNat)

/-- Read a copy: what its checks and its application use is what was read here (R506). -/
def takeCopy (s : State) (c : Nat) (rest : List Nat) : State :=
  setStage { s with boot := { s.boot with
    todo := rest, copy := c, svn := BitVec.ofNat 8 (deckSvn s c), gen := BitVec.ofNat 32 (deckGen s c)
    flags := BitVec.ofNat 8 (headerField s c 7 1), size := deckSize s c
    sections := deckSections s c, image := flashBytes s (copyBase c) (deckSize s c)
    record := flashBytes s (recordBase c) recordSize } } 3

/-- Go on with the next candidate, which is read in step 2, or with none. -/
def nextCopy (s : State) : State :=
  match s.boot.todo with
  | [] => noDeck s
  | c :: rest => setStage { s with boot := { s.boot with todo := rest, copy := c } } 2

/-- BOOT_ROM: step 1 ends; retired ways are held off (R470, R494). -/
def execBootRom (s : State) : Host.Outcome State Fault Refusal :=
  .next (if bootAt s 1 then
    let s := (List.range 4).foldl (fun s q => (List.range 24).foldl (fun s w =>
      if wayRetired s q w then rsetField s (l2Off q 0x100) (24 + w) 1 0 else s) s) s
    setStage s 2
  else s)

/-- The candidates in the order they are tried: descending GEN, A first when the two are equal. -/
def candidates (s : State) (a b : Nat) : List Nat :=
  let l := (if a = 0xF then [1] else []) ++ (if b = 0xF then [2] else [])
  if deckGen s 1 < deckGen s 2 then l.reverse else l

/-- BOOT_READ: step 2 ends. The operands say which copy met a flash read error. In RETIRED no deck is
read. -/
def execBootRead (errA errB : Bool) (s : State) : Host.Outcome State Fault Refusal :=
  .next (if !bootAt s 2 then s
    else if lcState s = 4 then noDeck s
    else if s.boot.copy = 0 then
      let a := headerCode s 1 errA
      let b := headerCode s 2 errB
      let s := setOutcome (setOutcome s 1 a) 2 b
      match candidates s a b with
      | [] => noDeck s
      | c :: rest => takeCopy s c rest
    else
      let c := s.boot.copy
      let code := headerCode s c (if c = 2 then errB else errA)
      if code = 0xF then takeCopy s c s.boot.todo else nextCopy (setOutcome s c code))

/-! ### Verification (R507 to R509) -/

/-- The signature block of signed bytes: their last 256. -/
def sigBlock (l : List Byte) : List Byte := l.drop (l.length - 256)

/-- The signer's key has the hash. -/
def keyFits (hash : BitVec 384) (l : List Byte) : Bool :=
  decide (sha384 ((sigBlock l).take 96) = hash)

/-- The signature verifies. -/
def sigFits (l : List Byte) : Bool :=
  p384Verify (BitVec.ofNat 768 (ofBytesBig ((sigBlock l).take 96)))
    (sha384 (l.take (l.length - 256)))
    (BitVec.ofNat 768 (ofBytesBig (((sigBlock l).drop 96).take 96)))

/-- The key hash that a state names for a deck. -/
def deckKey (s : State) : BitVec 384 := if lcState s = 0 then Config.releaseKeyHash else s.kept.owner

/-- Bytes of a section of the copy read. -/
def sectionBytes (s : State) (x : Nat × Nat × Nat × Nat) : List Byte := (s.boot.image.drop x.2.2.1).take x.2.2.2

/-- A firmware section verifies under the release key (R508). -/
def firmwareGood (s : State) (x : Nat × Nat × Nat × Nat) : Bool :=
  let b := sectionBytes s x
  !decide (2 ≤ x.1 ∧ x.1 ≤ 5) ||
    (decide (256 ≤ b.length) && keyFits Config.releaseKeyHash b && sigFits b)

/-- Two sections overlap. -/
def sectionsMeet (x y : Nat × Nat × Nat × Nat) : Bool :=
  decide (x.2.2.1 < y.2.2.1 + y.2.2.2 ∧ y.2.2.1 < x.2.2.1 + x.2.2.2)

/-- Two sections that may not stand together. -/
def sectionsClash (x y : Nat × Nat × Nat × Nat) : Bool :=
  sectionsMeet x y || decide (x.1 = y.1 ∧ (x.1 ≠ 6 ∨ x.2.1 = y.2.1))

def allPairs {α : Type} (p : α → α → Bool) : List α → Bool
  | [] => true
  | x :: t => t.all (p x) && allPairs p t

/-- Entries of a REGS section: offset and value. -/
def regsEntries (b : List Byte) : List (Nat × Word) :=
  (List.range (b.length / 16)).map (fun k =>
    let e := (b.drop (16 * k)).take 16
    (ofBytes (e.take 4), wd (ofBytes (e.drop 8))))

/-- A section by itself has a good structure (R509). -/
def sectionGood (s : State) (x : Nat × Nat × Nat × Nat) : Bool :=
  decide (x.2.2.1 + x.2.2.2 ≤ s.boot.size ∧ 2 ≤ x.1 ∧ x.1 ≤ 0xC) &&
  (match x.1 with
    | 5 => decide (x.2.2.2 ≤ 0x2000000)
    | 7 => !Config.selfTestLong (sectionBytes s x)
    | 0xB => (regsEntries (sectionBytes s x)).all (fun e => regDefined e.1)
    | _ => true)

/-- Outcome of the checks of R507 to R509. -/
def verifyCode (s : State) : Nat :=
  let image := s.boot.image
  if !keyFits (deckKey s) image then 5
  else if !sigFits image then 6
  else if !s.boot.sections.all (firmwareGood s) then 7
  else if !(s.boot.sections.all (sectionGood s) &&
    allPairs (fun x y => !sectionsClash x y) s.boot.sections) then 8
  else 0

/-- BOOT_VERIFY: step 3 ends. -/
def execBootVerify (s : State) : Host.Outcome State Fault Refusal :=
  .next (if bootAt s 3 then
    let code := verifyCode s
    let s := setOutcome s s.boot.copy code
    if code = 0 then setStage s 4 else nextCopy s
  else s)

/-! ### Cores (R51, R52, R55, R497) -/

/-- A physical core of a quadrant is retired. -/
def physRetired (s : State) (q n : Nat) : Bool :=
  s.kept.retire.any (fun e => decide (e.kind = 3 ∧ e.region.toNat = 64 * q + n))

/-- A physical core holds a compute number. -/
def physHeld (s : State) (q n : Nat) : Bool :=
  (List.range 32).any (fun c => decide (physCore s (coreIx q c) = n))

def setPresent (s : State) (ci : Nat) (v : Bool) : State :=
  { s with present := tabSet (fun _ => false) s.present ci v }

/-- One logical compute number: its physical core, a spare, or none. -/
def placeNumber (s : State) (q c : Nat) : State :=
  let ci := coreIx q c
  if !physRetired s q (physCore s ci) then setPresent s ci true else
  match [32, 33].find? (fun n => !physRetired s q n && !physHeld s q n) with
  | some n =>
    let d : Nat → Nat := fun k => if k % 34 < 32 then k % 34 else k % 34 + 2
    setPresent { s with kept := { s.kept with coreMap := tabSet d s.kept.coreMap ci n } } ci true
  | none => s

/-- The numbers of a quadrant. -/
def placeQuad (s : State) (q : Nat) : State :=
  let s := (List.range 32).foldl (fun s c => placeNumber s q c) s
  [32, 33].foldl (fun s c => setPresent s (coreIx q c) (!physRetired s q (c + 2))) s

/-- A core's clock starts below its deck value by the steps its island has been lowered (R489). -/
def startClock (s : State) (ci : Nat) : State :=
  let o := coreReg ci 0x38
  rsetField s o 0 8 (rfield s o 0 8 - (getIsland s (coreIsland s ci)).lowered.toNat)

/-- BOOT_ZERO: step 5 ends. `failed` names physical cores, 0 to 35, that failed their slices. -/
def execBootZero (failed : List CoreRef) (s : State) : Host.Outcome State Fault Refusal :=
  .next (if bootAt s 5 then
    let s := (failed.filter (fun f => decide (f.core.toNat < 36))).foldl (fun s f =>
      retirePhysical s (64 * f.quad.toNat + f.core.toNat)) s
    let s := (List.range 4).foldl placeQuad s
    let s := (s.present.map Prod.fst).foldl startClock s
    setStage s 6
  else s)

/-! ### Memories (R498, R499, R540) -/

/-- STATE of a stack or channel. -/
def memState (m : MemInfo) : Nat := if m.present then (if m.failed then 2 else 1) else 0

/-- Identity k of the training record: of HBM4 stacks 0 to 7, then of DDR5 channels 0 to 15. -/
def recordIdent (s : State) (k : Nat) : Nat := ofBytes ((s.boot.record.drop (8 * k)).take 8)

/-- A memory that is present trains fully: the record is not good, or holds another identity (R498, R502). -/
def trainsFully (s : State) (k : Nat) (m : MemInfo) : Bool :=
  m.present && !(s.boot.recordGood && decide (m.ident.toNat = recordIdent s k))

/-- The identities read, from number `from'` on. -/
def noteIdents (s : State) (from' : Nat) (ms : List MemInfo) : State :=
  { s with boot := { s.boot with idents :=
    ((List.range ms.length).zip ms).foldl (fun t e => tabSet (fun _ => 0) t (from' + e.1) e.2.ident) s.boot.idents } }

def noMem : MemInfo :=
  { present := false, failed := false, ident := 0, mrdimm := false, dpc2 := false, rate := 0, cap := 0 }

/-- BOOT_HBM: step 6 ends; stack 2q + s of the list is stack s of quadrant q, with the identity it read. The
memories hold zeros. -/
def execBootHbm (stk : List MemInfo) (s : State) : Host.Outcome State Fault Refusal :=
  .next (if bootAt s 6 then
    let s := (List.range 8).foldl (fun s k =>
      let m := (stk[k]?).getD noMem
      rset s (mcOff (k / 2) (0x100 + 8 * (k % 2)))
        (wd (memState m * 2 ^ 62 + b2n (trainsFully s k m) * 2 ^ 61 + 64 * 2 ^ 16 + m.cap.toNat))) (noteIdents s 0 (stk.take 8))
    let rows := s.kept.retire.filter (fun e => decide (e.kind = 0))
    setStage (rows.foldl (fun s e => spareUpdate s e.region.toNat) s) 7
  else s)

/-- Installed DDR5 bytes of a quadrant: four times its smallest channel, in GiB units. -/
def installed (l : List MemInfo) (q : Nat) : Nat :=
  let caps := (List.range 4).map (fun c =>
    let m := (l[4 * q + c]?).getD noMem
    if m.present && !m.failed then m.cap.toNat else 0)
  4 * (caps.foldl min (caps.headD 0)) * 2 ^ 30

/-- A DDR5 share that exceeds the installed capacity is not applied (R499). -/
def checkShare (s : State) (q : Nat) : State :=
  let o := dealOff (0x1108 + 16 * q)
  if ddrCapacity s q < rfield s o 0 30 * 65536 then rsetField (rsetField s o 0 30 0) 0x18 23 1 1 else s

/-- BOOT_DDR: step 7 ends; channel 4q + c of the list. The ports are released (step 8). -/
def execBootDdr (channels : List MemInfo) (s : State) : Host.Outcome State Fault Refusal :=
  .next (if bootAt s 7 then
    let s := (List.range 16).foldl (fun s k =>
      let m := (channels[k]?).getD noMem
      rset s (mcOff (k / 4) (8 * (k % 4)))
        (wd (memState m * 2 ^ 62 + b2n (trainsFully s (8 + k) m) * 2 ^ 61 + b2n m.mrdimm * 2 ^ 60 +
          b2n m.dpc2 * 2 ^ 59 + m.rate.toNat * 2 ^ 32 + m.cap.toNat))) (noteIdents s 8 (channels.take 16))
    let d := (List.range 4).foldl (fun t q => tabSet (fun _ => 0) t q (installed channels q)) []
    let s := { s with boot := { s.boot with ddr := d } }
    let s := (List.range 4).foldl checkShare s
    setStage ((List.range 16).foldl (fun s p => releasePort s p 0) s) 8
  else s)

/-! ### Links and start (R500 to R502, R510) -/

/-- A port needs no more time: it is UP, OFF or DOWN, or its first attempt has failed. -/
def portSettled (s : State) (p : Nat) : Bool :=
  let st := rfield s (portOff p 8) 0 4
  decide (st = 0 ∨ st = 6 ∨ st = 7) || decide (0 < rfield s (portOff p 8) 12 4)

/-- BOOT_LINKS: step 8 ends. -/
def execBootLinks (s : State) : Host.Outcome State Fault Refusal :=
  .next (if bootAt s 8 && (List.range 16).all (portSettled s) then setStage s 9 else s)

/-- Write bytes to memory through the home banks (R284). -/
def writeBoot : Nat → Nat → List Byte → State → State
  | 0, _, _, s => s
  | fuel + 1, pa, bs, s =>
    if bs.isEmpty then s else
    let n := min bs.length (128 - pa % 128)
    writeBoot fuel (pa + n) (bs.drop n) (writePa s (unitAgent 7) pa n (ofBytes (bs.take n))).1

/-- The control-core image is copied from the boot store to HBM. -/
def loadImage (s : State) : State :=
  let b := (s.boot.image.drop s.boot.imageOff).take s.boot.imageLen
  let bs := b.take (0x8000000000 - s.boot.loadAddr)
  writeBoot bs.length s.boot.loadAddr bs s

/-- The threads of a present core that the deck has enabled start (R505; DESIGN CHOICE, log entry 96). -/
def startDeckThreads (s : State) (ci : Nat) : State :=
  let on := rget s (coreReg ci 8)
  (List.range (threadCount ci)).foldl (fun s k =>
    if bit on k then threadEnable (rsetField s (coreReg ci 8) k 1 0) (16 * ci + k) else s) s

/-- Start thread 0 of a quadrant's first control core present. -/
def startQuad (s : State) (q : Nat) : State :=
  if corePresent s (coreIx q 32) then threadEnable s (16 * coreIx q 32)
  else if corePresent s (coreIx q 33) then threadEnable s (16 * coreIx q 33) else s

/-- Some memory, or a port that is UP, has trained fully: the training results differ from the record. -/
def trainedAnew (s : State) : Bool :=
  (List.range 8).any (fun k => bit (rget s (mcOff (k / 2) (0x100 + 8 * (k % 2)))) 61) ||
  (List.range 16).any (fun k => bit (rget s (mcOff (k / 4) (8 * (k % 4)))) 61) ||
  (List.range 16).any (fun p => portUp s p && !(getPort s p).trained)

/-- A training record: the identities read, results of a draw, and the CRC-32 last. -/
def newRecord (s : State) (draw : Nat) : List Byte :=
  let ids := (List.range 24).flatMap (fun k => bytesOf 8 (tabGet (fun _ => (0 : Word)) s.boot.idents k).toNat)
  let b := ids ++ (List.range (recordSize - 196)).map (Config.recordByte draw)
  b ++ bytesOf 4 (linkCrc b).toNat

/-- The training results are written back to the record of the copy applied (R502). -/
def saveRecord (s : State) : State :=
  if trainedAnew s then
    writeFlash { s with fresh := s.fresh + 1 } (recordBase s.boot.copy) (newRecord s s.fresh)
  else s

/-- SVN_MIN rises to the SVN of a deck with COMMIT_SVN (R510). -/
def raiseSvn (s : State) : State :=
  if s.boot.flags.getLsbD 0 ∧ s.kept.svnMin.toNat < s.boot.svn.toNat then
    { s with kept := { s.kept with svnMin := BitVec.ofNat 6 (min 63 s.boot.svn.toNat) } }
  else s

/-- BOOT_START: step 9 ends with READY, or with FAILED where no control core is present. -/
def execBootStart (s : State) : Host.Outcome State Fault Refusal :=
  .next (if bootAt s 9 then
    if s.present.any (fun e => isControl e.1) then
      let s := setStage (loadImage s) 0xA
      let s := (List.range 4).foldl startQuad ((s.present.map Prod.fst).foldl startDeckThreads s)
      saveRecord (raiseSvn (hostEvent (safeBit s 0 true) 22))
    else hostEvent (rsetField (setStage s 0xC) 0x18 20 3 1) 22
  else s)

end Sys2Proof.Machine
end

