-- ==== Sys2Proof/Machine/Branch.lean ====
section
/-! DEFINITION. Branches and jumps (R59, R61, R71). Their prediction and cost are timing and are not
modelled. -/

namespace Sys2Proof.Machine

open Sys2Proof

/-- Target of a branch: the offset counts words from the branch's first word (R59). -/
def branchTarget (pc : Word) (off : BitVec 16) : Word := pc + off.signExtend 64 * 4

/-- Target of j and call. -/
def jumpTarget (pc : Word) (off : BitVec 26) : Word := pc + off.signExtend 64 * 4

/-- br format: taken where the condition holds. -/
def brBody (x : Iss) (f : BrForm) (cond : Word → Word → Bool) : Nat → State → Body :=
  shortOnly x true fun i s =>
    let t := getThread s i
    if cond (getG t f.a) (getG t f.b) then .goto s (branchTarget t.pc f.off) else .done s

def execBeq (x : Iss) (f : BrForm) (s : State) : Host.Outcome State Fault Refusal :=
  .next (issue x (brBody x f fun a b => decide (a = b)) s)
def execBne (x : Iss) (f : BrForm) (s : State) : Host.Outcome State Fault Refusal :=
  .next (issue x (brBody x f fun a b => decide (a ≠ b)) s)
def execBlt (x : Iss) (f : BrForm) (s : State) : Host.Outcome State Fault Refusal :=
  .next (issue x (brBody x f fun a b => decide (a.toInt < b.toInt)) s)
def execBge (x : Iss) (f : BrForm) (s : State) : Host.Outcome State Fault Refusal :=
  .next (issue x (brBody x f fun a b => decide (b.toInt ≤ a.toInt)) s)
def execBltu (x : Iss) (f : BrForm) (s : State) : Host.Outcome State Fault Refusal :=
  .next (issue x (brBody x f fun a b => decide (a.toNat < b.toNat)) s)
def execBgeu (x : Iss) (f : BrForm) (s : State) : Host.Outcome State Fault Refusal :=
  .next (issue x (brBody x f fun a b => decide (b.toNat ≤ a.toNat)) s)

def execJ (x : Iss) (f : JmpForm) (s : State) : Host.Outcome State Fault Refusal :=
  .next (issue x (shortOnly x true fun i s =>
    .goto s (jumpTarget (getThread s i).pc f.off)) s)

/-- call: g30 := address of the next instruction. -/
def execCall (x : Iss) (f : JmpForm) (s : State) : Host.Outcome State Fault Refusal :=
  .next (issue x (shortOnly x true fun i s =>
    let pc := (getThread s i).pc
    .goto (writeG s i 30 (pc + 4)) (jumpTarget pc f.off)) s)

/-- Register jumps: a target that is not a multiple of 4 raises MISALIGNED_TARGET (R61). -/
def jumpTo (s : State) (target : Word) (link : State → State) : Body :=
  if field target 0 2 = 0 then .goto (link s) target else .trap s 0x06 target

def execJr (x : Iss) (f : JrForm) (s : State) : Host.Outcome State Fault Refusal :=
  .next (issue x (shortOnly x (decide (f.d = 0 ∧ f.b = 0 ∧ f.rsv = 0)) fun i s =>
    jumpTo s (getG (getThread s i) f.a) id) s)

def execCallr (x : Iss) (f : JrForm) (s : State) : Host.Outcome State Fault Refusal :=
  .next (issue x (shortOnly x (decide (f.d = 0 ∧ f.b = 0 ∧ f.rsv = 0)) fun i s =>
    let t := getThread s i
    jumpTo s (getG t f.a) fun s => writeG s i 30 (t.pc + 4)) s)

def execRet (x : Iss) (f : JrForm) (s : State) : Host.Outcome State Fault Refusal :=
  .next (issue x (shortOnly x (decide (f.d = 0 ∧ f.a = 0 ∧ f.b = 0 ∧ f.rsv = 0)) fun i s =>
    jumpTo s (getG (getThread s i) 30) id) s)

end Sys2Proof.Machine
end

