-- ==== Sys2Proof/Machine/CfgTxn.lean ====
section
/-! DEFINITION. Configuration transactions (R512 to R519) and the staging of microcode (R77, R78). -/

namespace Sys2Proof.Machine

open Sys2Proof

/-! ### Requesters (R512) -/

/-- Number of a requester: 0 the host, 1 the debug port, 2 + its index a thread. -/
def requester : Sender → Nat
  | .host => 0
  | .debug => 1
  | .board => 1
  | .thread t => 2 + thrIx t

def noResult : TxnResult := { result := 0, last := 0 }

def txnResult (s : State) (who : Nat) : TxnResult := tabGet (fun _ => noResult) s.txn.results who

/-- Record the outcome of a requester's command or staged write. -/
def txnSay (s : State) (who code : Nat) (id : BitVec 16) : State :=
  { s with txn := { s.txn with
    results := tabSet (fun _ => noResult) s.txn.results who { result := code, last := id } } }

/-- The transaction of a requester. -/
def txnOf (s : State) (who : Nat) : Option Txn := s.txn.txns.find? (fun t => decide (t.who = who))

/-- The open transaction of a requester: one whose commit is not pending. -/
def openTxn (s : State) (who : Nat) : Option Txn :=
  match txnOf s who with
  | some t => if t.committed then none else some t
  | none => none

/-- Replace a requester's transaction. -/
def putTxn (s : State) (t : Txn) : State :=
  { s with txn := { s.txn with
    txns := s.txn.txns.map (fun x => if x.who = t.who then t else x) } }

/-- Take a requester's transaction out. -/
def dropTxn (s : State) (who : Nat) : State :=
  { s with txn := { s.txn with txns := s.txn.txns.filter (fun x => decide (x.who ≠ who)) } }

/-- Tell the requester that its transaction was applied, failed or timed out (R519). -/
def tellTxn (s : State) (who : Nat) (id : BitVec 16) : State :=
  if who = 0 then hostEvent s 16
  else if who = 1 then s
  else raiseLatched s (who - 2) 0x67 (id.zeroExtend 64)

/-- A transaction ends with a result. -/
def endTxn (s : State) (t : Txn) (code : Nat) : State :=
  tellTxn (txnSay (dropTxn s t.who) t.who code t.id) t.who t.id

/-- Free staging entries (CFG_TXN_FREE). -/
def txnFree (s : State) : Nat :=
  262144 - s.txn.txns.foldl (fun n t => n + t.regs.length + t.words.length) 0

/-- CFG_TXN_STATUS as a requester reads it. -/
def txnStatus (s : State) (who : Nat) : Word :=
  let r := txnResult s who
  let base := r.result * 2 ^ 32 + r.last.toNat * 2 ^ 16
  match txnOf s who with
  | none => wd base
  | some t =>
    let st := if t.committed then 2 else if t.failed then 3 else 1
    wd (st * 2 ^ 48 + base + t.id.toNat)

/-! ### CFG_TXN_BEGIN -/

/-- The transaction ID after an ID, skipping 0. -/
def nextTxnId (id : BitVec 16) : BitVec 16 := if id = 0xFFFF then 1 else id + 1

/-- Open a transaction for a requester. -/
def txnBegin (s : State) (who : Nat) : State :=
  match txnOf s who with
  | some t => txnSay (putTxn s { t with age := 0 }) who 1 t.id
  | none =>
    let id := s.txn.nextId
    let t : Txn := { who := who, id := id, regs := [], words := [], ucodeAddr := [], ucodeLo := []
                     failed := false, committed := false, began := s.txn.commits, age := 0 }
    txnSay { s with txn := { s.txn with txns := s.txn.txns ++ [t], nextId := nextTxnId id } }
      who 0 id

/-- CFG_TXN_BEGIN. -/
def execCfgTxnBegin (src : Sender) (val : BitVec 64) (s : State) : Host.Outcome State Fault Refusal :=
  .next (if mayWrite s src 1 && bit val 0 then txnBegin s (requester src) else s)

/-! ### Staging (R513, R514) -/

def mayStage (s : State) (src : Sender) (off : Nat) : Bool :=
  !isUcode off || (match src with
    | .host => true
    | .thread t => decide ((getThread s (thrIx t)).ring = 0)
    | _ => false)

/-- Stage an entry: the transaction, and whether it found a free entry. -/
def stageReg (s : State) (t : Txn) (off : Nat) (val : Word) : Option Txn :=
  if (tabFind t.regs off).isSome ∨ 0 < txnFree s then
    some { t with regs := tabPut t.regs off val, age := 0 } else none

def stageWord (s : State) (t : Txn) (key : Nat) (w : BitVec 96) : Option Txn :=
  if (tabFind t.words key).isSome ∨ 0 < txnFree s then
    some { t with words := tabPut t.words key w, age := 0 } else none

/-- Record a staged write, or fail the transaction where the store is full. -/
def stageEnd (s : State) (t : Txn) (x : Option Txn) : State :=
  match x with
  | some t => txnSay (putTxn s t) t.who 0 t.id
  | none => txnSay (putTxn s { t with failed := true, age := 0 }) t.who 7 t.id

/-- A write of UCODE_DATA_HI stages the micro-word formed with the last staged WORD_LO at the staging
address, which then advances if AUTOINC is 1. A staging address or WORD_LO that was never written is
free. -/
def stageHigh (s : State) (t : Txn) (off : Nat) (val : Word) : State :=
  let q := qcmQuad off
  let f := drawFree s
  let f2 := drawFree f.2
  let s := f2.2
  let a := (tabFind t.ucodeAddr q).getD (f.1.toNat % 65536)
  let lo := (tabFind t.ucodeLo q).getD f2.1
  let w := BitVec.ofNat 96 (field val 0 32 * 2 ^ 64 + lo.toNat)
  let inc := bit (rget s (qcmOff q 0x100)) 31
  let t := { t with ucodeAddr := tabPut t.ucodeAddr q (if inc then (a + 1) % 65536 else a)
                    ucodeLo := tabPut t.ucodeLo q lo }
  stageEnd s t (stageWord s t (65536 * q + a) w)

/-- Stage the TXN fields of a write. -/
def stageWrite (s : State) (src : Sender) (off : Nat) (val : Word) : State :=
  let who := requester src
  match openTxn s who with
  | none => txnSay s who 2 0
  | some t =>
    if !mayStage s src off then txnSay (putTxn s { t with age := 0 }) who 5 t.id
    else if t.failed then txnSay s who 7 t.id
    else if off = qcmOff (qcmQuad off) 0x108 then
      let t := { t with ucodeLo := tabPut t.ucodeLo (qcmQuad off) val, age := 0 }
      txnSay (putTxn s t) who 0 t.id
    else if off = qcmOff (qcmQuad off) 0x110 then stageHigh s t off val
    else stageEnd s t (stageReg s t off (val &&& (regAt off).txn))

/-- A write of UCODE_ADDR: inside an open transaction it sets the staging address. -/
def ucodeAddrWrite (s : State) (src : Sender) (off : Nat) (val : Word) : State :=
  let s := rsetField s off 31 1 (field val 31 1)
  match openTxn s (requester src) with
  | some t => putTxn s { t with ucodeAddr := tabPut t.ucodeAddr (qcmQuad off) (field val 0 16) }
  | none => rsetField s off 0 16 (field val 0 16)

/-! ### CFG_TXN_COMMIT (R515) -/

/-- What a transaction would write, as conflict keys: offsets, and micro-words from 2^28 on. -/
def txnKeys (t : Txn) : List Nat :=
  t.regs.map Prod.fst ++ t.words.map (fun e => 2 ^ 28 + e.1)

/-- A commit accepted after a transaction began wrote a register that it stages. -/
def txnConflict (s : State) (t : Txn) : Bool :=
  s.txn.log.any (fun e => decide (t.began ≤ e.1) && e.2.any (fun k => decide (k ∈ txnKeys t)))

/-- A unit's condition forbids a staged value: CTX_CFG while a window page is mapped. -/
def txnForbidden (s : State) (t : Txn) : Bool :=
  match tabFind t.regs (dealOff 0x1000) with
  | some v => decide (v ≠ rget s (dealOff 0x1000)) && !s.ctx.ents.isEmpty
  | none => false

/-- Accept a commit: it takes its place after those accepted before it. -/
def txnAccept (s : State) (t : Txn) : State :=
  let s := dropTxn s t.who
  let oldest := s.txn.txns.foldl (fun n x => min n x.began) s.txn.commits
  let log := s.txn.log.filter (fun e => decide (oldest ≤ e.1)) ++ [(s.txn.commits, txnKeys t)]
  txnSay { s with txn := { s.txn with
    txns := s.txn.txns ++ [{ t with committed := true }], commits := s.txn.commits + 1, log := log } }
    t.who 0 t.id

/-- A commit command of a requester. -/
def txnCommit (s : State) (who : Nat) (id : BitVec 16) : State :=
  match openTxn s who with
  | none => txnSay s who 3 id
  | some t =>
    if t.id ≠ id then txnSay (putTxn s { t with age := 0 }) who 3 id
    else if t.failed then endTxn s t 7
    else if txnConflict s t then endTxn s t 4
    else if txnForbidden s t then endTxn s t 6
    else txnAccept s t

/-- CFG_TXN_COMMIT. -/
def execCfgTxnCommit (src : Sender) (id : BitVec 16) (s : State) : Host.Outcome State Fault Refusal :=
  .next (if mayWrite s src 1 then txnCommit s (requester src) id else s)

/-! ### TXN_APPLY (R516, R517) -/

/-- A quadrant has a custom instruction in progress. -/
def customRuns (s : State) (q : Nat) : Bool :=
  s.threads.any (fun e => decide (e.1 / 16 / 34 = q) && e.2.custom.isSome)

/-- Quadrant of a memory channel. -/
def channelQuad (ch : Nat) : Nat := if ch < 256 then ch / 64 else (ch - 256) / 4

/-- The banks and channels of a quadrant stand at break points: no unit that they granted is in progress. -/
def atBreaks (s : State) (q : Nat) : Bool :=
  s.banks.all (fun e => decide (e.1 / 32 ≠ q) || e.2.granted.isEmpty) &&
    s.channels.all (fun e => decide (channelQuad e.1 ≠ q) || e.2.granted.isEmpty)

/-- Every unit that the transaction affects stands at its safe point (R515): no custom instruction of the
quadrant is in progress; its arbiters stand at break points; no page is moved and no hand is published. The
units of the other registers stand at theirs between any two commands. -/
def txnSafe (s : State) (t : Txn) : Bool :=
  (List.range 4).all (fun q => !(txnUcode t q && customRuns s q)) &&
    (List.range 4).all (fun q => !(t.stages (isArbReg q)) || atBreaks s q) &&
    (!t.stages isStoreReg || (s.ctx.moves.isEmpty && publishedAll s))

/-- Apply one staged register. A changed MODE, GENMAX, PEER or ALIAS takes its port through bring-up. -/
def applyStaged (s : State) (off : Nat) (val : Word) : State :=
  let m := (regAt off).txn
  let old := rget s off
  let s := rset s off ((old &&& ~~~m) ||| (val &&& m))
  match blockOf off with
  | (.link q, o) =>
    if o < 0x400 ∧ o % 0x100 = 0 ∧ (old ^^^ rget s off) &&& 0xFFFFF0F000000307 ≠ 0 then
      let p := 4 * q + o / 0x100
      releasePort (if portUp s p then leaveUp s p else s) p 0
    else s
  | _ => s

/-- Apply one staged micro-word; what a core's microcode cache holds is discarded. -/
def applyWord (s : State) (key : Nat) (w : BitVec 96) : State :=
  { s with
    ucode := tabSet (fun _ => 0) s.ucode key w
    ucodeBad := s.ucodeBad.filter (fun x => decide (x ≠ key))
    cores := s.cores.map (fun e =>
      if e.1 / 34 = key / 65536 then (e.1, { e.2 with ucache := [] }) else e) }

/-- Apply a transaction whole. -/
def txnApplied (s : State) (t : Txn) : State :=
  let s := t.regs.foldl (fun s e => applyStaged s e.1 e.2) s
  let s := t.words.foldl (fun s e => applyWord s e.1 e.2) s
  endTxn s t 0

/-- TXN_APPLY: the oldest accepted commit takes effect. -/
def execTxnApply (id : BitVec 16) (s : State) : Host.Outcome State Fault Refusal :=
  .next (match txnFront s with
    | none => s
    | some t => if t.id = id ∧ txnSafe s t = true then txnApplied s t else s)

/-! ### CFG_TXN_ROLLBACK and time-out (R518) -/

/-- A roll-back command of a requester. -/
def txnRollback (s : State) (who : Nat) (id : BitVec 16) : State :=
  match openTxn s who with
  | none => txnSay s who 3 id
  | some t =>
    if t.id = id then txnSay (dropTxn s who) who 0 id
    else txnSay (putTxn s { t with age := 0 }) who 3 id

/-- CFG_TXN_ROLLBACK. -/
def execCfgTxnRollback (src : Sender) (id : BitVec 16) (s : State) : Host.Outcome State Fault Refusal :=
  .next (if mayWrite s src 1 then txnRollback s (requester src) id else s)

/-- TXN_TIMEOUT: 2^24 configuration cycles with no staged write and no command. -/
def execTxnTimeout (id : BitVec 16) (s : State) : Host.Outcome State Fault Refusal :=
  .next (match s.txn.txns.find? (fun t => decide (t.id = id ∧ t.committed = false)) with
    | none => s
    | some t => if 2 ^ 24 ≤ t.age then endTxn s t 8 else s)

end Sys2Proof.Machine
end

