-- ==== Sys2Proof/Machine/Security.lean ====
section
/-! DEFINITION. The security controller's commands (R490, R511, R520 to R524) and SPDM (R525). -/

namespace Sys2Proof.Machine

open Sys2Proof

/-! ### SEC_BUF and hashes -/

/-- Bytes of SEC_BUF. -/
def bufBytes (s : State) (off n : Nat) : List Byte :=
  (List.range n).map (fun i =>
    let a := off + i
    BitVec.ofNat 8 (field (rget s (secOff (0x10000 + a / 8 * 8))) (8 * (a % 8)) 8))

/-- Write bytes of SEC_BUF. -/
def writeBuf : State → Nat → List Byte → State
  | s, _, [] => s
  | s, a, b :: t =>
    writeBuf (rsetField s (secOff (0x10000 + a / 8 * 8)) (8 * (a % 8)) 8 b.toNat) (a + 1) t

/-- SEC_NONCE, 16 bytes: two draws of the DRBG; 0 once it has been zeroed (R490). -/
def nonceLo (s : State) : Word := (s.security.nonceDraw.map Config.freeWord).getD 0
def nonceHi (s : State) : Word := (s.security.nonceDraw.map (fun n => Config.freeWord (n + 1))).getD 0

/-- SEC_NONCE takes a fresh value. -/
def freshNonce (s : State) : State :=
  { s with fresh := s.fresh + 2, security := { s.security with nonceDraw := some s.fresh } }

/-- SAFE_STATUS.SCAN: the attestation state has been zeroed (R490). -/
def scanOn (s : State) : Bool := bit (rget s (safeOff 0)) 4

/-- Measurement k (R524). -/
def measOf (s : State) (k : Nat) : BitVec 384 :=
  if scanOn s then 0
  else if k = 0 then Config.romHash
  else if k = 13 then
    sha384 (BitVec.ofNat 8 (lcState s) :: s.kept.svnMin.zeroExtend 8 :: hashBytes s.kept.owner)
  else if 14 ≤ k then 0 else tabGet (fun _ => 0) s.security.meas k

/-! ### Commands start -/

/-- Ring 0, ring 1 and the host reach the security block from the end of step 1; in RETIRED the debug
port does not. A host write waits for earlier ones (R532). -/
def secReach (s : State) (src : Sender) : Bool :=
  decide (senderRing s src ≤ 1) && !inReset s && hostClear s src && !(decide (src = .debug) && decide (lcState s = 4))

/-- SEC_STAT: BUSY and RESULT. -/
def setSecStat (s : State) (busy : Bool) (result : Nat) : State :=
  rset s (secOff 8) (wd (b2n busy * 2 ^ 63 + result))

/-- A command is accepted, or refused with BUSY. -/
def secStart (s : State) (cmd : BitVec 8) : State :=
  match s.security.busy with
  | some _ => setSecStat s true 1
  | none => setSecStat { s with security := { s.security with busy := some cmd } } true 0

/-- A write of SEC_CMD. -/
def secWrite (s : State) (val : Word) : State :=
  let c := field val 0 8
  if 1 ≤ c ∧ c ≤ 6 then secStart s (BitVec.ofNat 8 c) else s

def execLcToken (src : Sender) (s : State) : Host.Outcome State Fault Refusal :=
  .next (if secReach s src then secStart s 1 else s)

def execAttest (src : Sender) (s : State) : Host.Outcome State Fault Refusal :=
  .next (if secReach s src then secStart s 2 else s)

def execFlashRead (src : Sender) (s : State) : Host.Outcome State Fault Refusal :=
  .next (if secReach s src then secStart s 3 else s)

def execFlashProgram (src : Sender) (s : State) : Host.Outcome State Fault Refusal :=
  .next (if secReach s src then secStart s 4 else s)

def execFlashErase (src : Sender) (s : State) : Host.Outcome State Fault Refusal :=
  .next (if secReach s src then secStart s 5 else s)

def execScanEnable (src : Sender) (s : State) : Host.Outcome State Fault Refusal :=
  .next (if secReach s src then secStart s 6 else s)

/-! ### LC_TOKEN (R520 to R523) -/

/-- The transition is in the table. -/
def lcAllowed (now dest : Nat) : Bool :=
  decide ((now = 0 ∧ dest = 1) ∨ (now = 1 ∧ dest = 2) ∨ (now = 2 ∧ dest = 3) ∨ (now < 4 ∧ dest = 4))

/-- Outcome of the checks of a token. -/
def tokenCode (s : State) : Nat :=
  let now := lcState s
  let key := bufBytes s 0x50 96
  let sig := bufBytes s 0xB0 96
  if !lcAllowed now (ofBytes (bufBytes s 0 1)) then 2
  else if ofBytes (bufBytes s 8 8) ≠ Config.serial.toNat then 3
  else if ofBytes (bufBytes s 0x10 16) ≠ (nonceHi s).toNat * 2 ^ 64 + (nonceLo s).toNat then 4
  else if sha384 key ≠ (if now = 0 then Config.releaseKeyHash else s.kept.owner) then 5
  else if !p384Verify (BitVec.ofNat 768 (ofBytesBig key)) (sha384 (bufBytes s 0 0xB0))
    (BitVec.ofNat 768 (ofBytesBig sig)) then 6
  else 0

/-- The fuses of a transition, then the life-cycle reset. -/
def lcChange (s : State) (dest : Nat) : State :=
  match dest with
  | 1 =>
    let n := s.fresh
    let owner := BitVec.ofNat 384 (ofBytesBig (bufBytes s 0x20 48))
    let s := { s with fresh := n + 1
                      kept := { s.kept with lc := 1, owner := owner, identity := some n } }
    writeBuf (deviceReset s 4) 0 (bigBytes 96 (Config.identityKey n).toNat)
  | 2 => deviceReset { s with kept := { s.kept with lc := 2 } } 4
  | 3 => deviceReset { s with kept := { s.kept with diag := true } } 4
  | _ => deviceReset { s with kept := { s.kept with lc := 4, diag := false, identity := none } } 4

/-- A command ends with a result. -/
def secEnd (s : State) (result : Nat) : State :=
  setSecStat { s with security := { s.security with busy := none } } false result

def lcTokenDone (s : State) : State :=
  let code := tokenCode s
  if code = 0 then lcChange s (ofBytes (bufBytes s 0 1)) else secEnd (freshNonce s) code

/-! ### ATTEST (R524) -/

/-- The identity key that attests in the present state; none in BLANK and RETIRED. -/
def attestKey (s : State) : Option Nat :=
  if lcState s = 0 ∨ lcState s = 4 then none else s.kept.identity

/-- The report up to its signature. -/
def reportBody (s : State) : List Byte :=
  let deck := rget s 0x20
  [1, 0, BitVec.ofNat 8 (lcState s), BitVec.ofNat 8 (field deck 48 8)] ++
  bytesOf 4 (field deck 0 32) ++ bytesOf 8 Config.serial.toNat ++
  bytesOf 8 s.kept.resets.toNat ++ bytesOf 8 s.devId.toNat ++ bufBytes s 0 32 ++
  (List.range 16).flatMap (fun k => hashBytes (measOf s k))

def attestDone (s : State) : State :=
  match attestKey s with
  | none => secEnd (freshNonce s) 7
  | some k =>
    let b := reportBody s
    let sig := bigBytes 96 (Config.p384Sign k (sha384 b)).toNat
    secEnd (freshNonce (writeBuf s 0 (b ++ sig))) 0

/-! ### The flash (R511) -/

def flashAddr (s : State) : Nat := rfield s (secOff 0x20) 0 32
def flashCount (s : State) : Nat := min 65536 (rfield s (secOff 0x20) 32 32)

/-- Bytes from `a` to `b` meet the slot applied at the last boot. -/
def activeSlot (s : State) (a b : Nat) : Bool :=
  let c := rfield s 0x18 16 4
  let base := copyBase c
  decide (c ≠ 0 ∧ rfield s 0x18 0 4 ≠ 0xB ∧ a < base + 0x0FF00000 ∧ base < b ∧ a < b)

def flashReadDone (s : State) (err : Bool) : State :=
  if err then secEnd s 9
  else secEnd (writeBuf s 0 (flashBytes s (flashAddr s) (flashCount s))) 0

def flashProgramDone (s : State) (err : Bool) : State :=
  let a := flashAddr s
  if activeSlot s a (a + flashCount s) then secEnd s 8
  else if err then secEnd s 9
  else secEnd (writeFlash s a (bufBytes s 0 (flashCount s))) 0

/-- Erase the 64 KiB sectors that hold the bytes named. -/
def flashEraseDone (s : State) (err : Bool) : State :=
  let first := flashAddr s / 65536
  let last := if flashCount s = 0 then first else (flashAddr s + flashCount s + 65535) / 65536
  if activeSlot s (65536 * first) (65536 * last) then secEnd s 8
  else if err then secEnd s 9
  else secEnd (writeFlash s (65536 * first) (List.replicate (65536 * (last - first)) 0xFF)) 0

/-! ### SCAN_ENABLE (R490) -/

/-- A thread whose registers and queues have been wiped. -/
def wipeThread (t : Thread) : Thread := { Thread.off with mode := t.mode, claimed := t.claimed }

/-- A core whose caches, tiles, array and queues have been wiped. -/
def wipeCore (k : Core) : Core := { Core.idle with last := k.last, stopped := k.stopped, testing := k.testing, occ := k.occ }

/-- A port whose buffers have been wiped. -/
def wipePort (t : Port) : Port :=
  { t with rx := [], rxHeld := none, rxPart := [], rxCells := [], rxDone := [], txHeld := [], txOpen := false
           txCrcs := [], wire := [], egress := .idle, txOn := [] }

/-- An open transaction whose staging store has been wiped. -/
def wipeTxn (t : Txn) : Txn := { t with regs := [], words := [] }

/-- SEC_BUF, the mailbox data areas and the emergency frames are SRAM. -/
def isBuffer (off : Nat) : Bool :=
  match blockOf off with
  | (.core _ _, k) => decide (0x1000 ≤ k)
  | (.sec, k) => decide (0x10000 ≤ k)
  | (.host, k) => decide (0x20000 ≤ k)
  | _ => false

/-- Every SRAM and DRAM of the device is wiped, and so are key registers and the attestation state. Registers of
the device register space and the states of threads and ports are no SRAM (DESIGN CHOICE, log entry 156). -/
def wipeAll (s : State) : State :=
  { s with
    mem := [], memBad := [], l2 := [], lost := [], windows := [], banks := [], channels := [], pots := []
    ucode := [], ucodeBad := [], bankErr := [], passSeeds := [], writes := [], tlbs := [], sync := [], syncQ := []
    releases := [], maskedTid := [], queues := [], potSlots := [], potQuiet := []
    threads := s.threads.map (fun e => (e.1, wipeThread e.2))
    cores := s.cores.map (fun e => (e.1, wipeCore e.2))
    ports := s.ports.map (fun e => (e.1, wipePort e.2))
    ctx := { Ctx.empty with taken := s.ctx.taken, snapCmd := s.ctx.snapCmd, mmuQueued := s.ctx.mmuQueued }
    dealer := .empty
    txn := { s.txn with txns := s.txn.txns.map wipeTxn }
    boot := { s.boot with image := [], record := [] }
    regs := s.regs.filter (fun e => !isBuffer e.1)
    security := { Security.idle with busy := s.security.busy, nonceDraw := none } }

def scanDone (s : State) : State :=
  if lcState s = 0 ∨ lcState s = 3 then secEnd (safeBit (wipeAll s) 4 true) 0 else secEnd s 0xA

/-- SEC_COMMAND_DONE: the command in progress completes. -/
def execSecCommandDone (flashError : Bool) (s : State) : Host.Outcome State Fault Refusal :=
  .next (match s.security.busy with
    | none => s
    | some c =>
      match c.toNat with
      | 1 => lcTokenDone s
      | 2 => attestDone s
      | 3 => flashReadDone s flashError
      | 4 => flashProgramDone s flashError
      | 5 => flashEraseDone s flashError
      | _ => scanDone s)

/-! ### SPDM over DOE (R525); message formats are PRESUMED from SPDM 1.3 (log entry 51) -/

/-- A response is ready. -/
def respond (s : State) (b : List Byte) : State :=
  hostEvent { s with host := { s.host with doe := b } } 21

/-- Header of a response. -/
def spdmHead (code p1 p2 : Byte) : List Byte := [0x13, code, p1, p2]

/-- What an SPDM request that begins no measurements does to the messages that signatures cover. -/
def endMeas (s : State) : State := { s with security := { s.security with spdmMeas := [] } }

/-- An error ends a run of measurements. -/
def spdmError (s : State) (code : Byte) : State := respond (endMeas s) (spdmHead 0x7F code 0)

/-- Requests are answered once the security controller runs. -/
def doeReady (s : State) : Bool := s.power.stages && !inReset s

/-- A response that belongs to version, capabilities and algorithms. -/
def respondVca (s : State) (req : SpdmReq) (b : List Byte) : State :=
  let s := endMeas s
  respond { s with security := { s.security with spdmVca := s.security.spdmVca ++ req.msg ++ b } } b

/-- A response that belongs to digests and certificates. -/
def respondCerts (s : State) (req : SpdmReq) (b : List Byte) : State :=
  let s := endMeas s
  respond { s with security := { s.security with spdmCerts := s.security.spdmCerts ++ req.msg ++ b } } b

/-- GET_VERSION: version 1.3. The messages that signatures cover begin anew. -/
def execGetVersion (req : SpdmReq) (s : State) : Host.Outcome State Fault Refusal :=
  .next (if doeReady s
    then respondVca { s with security := { s.security with spdmVca := [], spdmCerts := [] } } req
      [0x10, 0x04, 0, 0, 0, 1, 0, 0x13]
    else s)

/-- GET_CAPABILITIES: certificates, challenge and signed measurements; the time-out exponent and the
sizes are open. -/
def execGetCapabilities (req : SpdmReq) (s : State) : Host.Outcome State Fault Refusal :=
  let a := drawFree s
  let b := drawFree a.2
  .next (if doeReady s then
    respondVca b.2 req (spdmHead 0x61 0 0 ++ [0, BitVec.ofNat 8 a.1.toNat, 0, 0, 0x16, 0, 0, 0] ++
      bytesOf 8 b.1.toNat) else s)

/-- NEGOTIATE_ALGORITHMS: ECDSA P-384 and SHA-384. -/
def execNegotiateAlgorithms (req : SpdmReq) (s : State) : Host.Outcome State Fault Refusal :=
  .next (if doeReady s then
    respondVca s req (spdmHead 0x63 0 0 ++ [0x24, 0, 1, 0, 4, 0, 0, 0, 0x80, 0, 0, 0, 2, 0, 0, 0] ++
      List.replicate 16 0) else s)

/-- GET_DIGESTS: the hash of the chain of slot 0. -/
def execGetDigests (req : SpdmReq) (s : State) : Host.Outcome State Fault Refusal :=
  .next (if doeReady s then
    respondCerts s req (spdmHead 0x01 1 1 ++ hashBytes (sha384 s.security.cert)) else s)

/-- GET_CERTIFICATE: a window of the chain of slot 0. -/
def execGetCertificate (req : SpdmReq) (s : State) : Host.Outcome State Fault Refusal :=
  let c := s.security.cert
  .next (if !doeReady s then s
    else if req.slot ≠ 0 ∨ c.length < req.off.toNat then spdmError s 1
    else
      let b := (c.drop req.off.toNat).take req.len.toNat
      respondCerts s req (spdmHead 0x02 0 0 ++ bytesOf 2 b.length ++
        bytesOf 2 (c.length - req.off.toNat - b.length) ++ b))

/-- A 32-byte nonce of the device. -/
def spdmNonce (s : State) : List Byte × State :=
  let a := drawFree s
  let b := drawFree a.2
  let c := drawFree b.2
  let d := drawFree c.2
  (bytesOf 8 a.1.toNat ++ bytesOf 8 b.1.toNat ++ bytesOf 8 c.1.toNat ++ bytesOf 8 d.1.toNat, d.2)

/-- "dmtf-spdm-v1.3.*", which stands four times before what is signed. -/
def spdmVersionText : List Byte :=
  [0x64, 0x6D, 0x74, 0x66, 0x2D, 0x73, 0x70, 0x64, 0x6D, 0x2D, 0x76, 0x31, 0x2E, 0x33, 0x2E, 0x2A]

/-- "responder-challenge_auth signing" and "responder-measurements signing". -/
def challengeText : List Byte :=
  [0x72, 0x65, 0x73, 0x70, 0x6F, 0x6E, 0x64, 0x65, 0x72, 0x2D, 0x63, 0x68, 0x61, 0x6C, 0x6C, 0x65, 0x6E, 0x67,
   0x65, 0x5F, 0x61, 0x75, 0x74, 0x68, 0x20, 0x73, 0x69, 0x67, 0x6E, 0x69, 0x6E, 0x67]
def measureText : List Byte :=
  [0x72, 0x65, 0x73, 0x70, 0x6F, 0x6E, 0x64, 0x65, 0x72, 0x2D, 0x6D, 0x65, 0x61, 0x73, 0x75, 0x72, 0x65, 0x6D,
   0x65, 0x6E, 0x74, 0x73, 0x20, 0x73, 0x69, 0x67, 0x6E, 0x69, 0x6E, 0x67]

/-- The 100 bytes before the hash that is signed: the version four times, zeros, and the context. -/
def spdmPrefix (text : List Byte) : List Byte :=
  (List.replicate 4 spdmVersionText).flatten ++ List.replicate (36 - text.length) 0 ++ text

/-- The signature of a transcript with key k. -/
def spdmSign (k : Nat) (text transcript : List Byte) : List Byte :=
  bigBytes 96 (Config.p384Sign k (sha384 (spdmPrefix text ++ hashBytes (sha384 transcript)))).toNat

/-- CHALLENGE; refused in BLANK and RETIRED. Its signature covers version to algorithms, digests and
certificates, the request and the response. -/
def execChallenge (req : SpdmReq) (s : State) : Host.Outcome State Fault Refusal :=
  .next (if !doeReady s then s else
    match attestKey s with
    | none => spdmError s 5
    | some k =>
      if req.slot ≠ 0 then spdmError s 1 else
      let n := spdmNonce s
      let b := spdmHead 0x03 0 1 ++ hashBytes (sha384 s.security.cert) ++ n.1 ++ [0, 0] ++ bytesOf 8 req.context.toNat
      let m := s.security.spdmVca ++ s.security.spdmCerts ++ req.msg ++ b
      let s := endMeas { n.2 with security := { s.security with spdmCerts := [] } }
      respond s (b ++ spdmSign k challengeText m))

/-- Measurement block k + 1. -/
def measBlock (s : State) (k : Nat) : List Byte :=
  [BitVec.ofNat 8 (k + 1), 1] ++ bytesOf 2 51 ++ [0] ++ bytesOf 2 48 ++ hashBytes (measOf s k)

/-- The measurement record that an index asks for: 0 the count, 255 every block. -/
def measRecord (s : State) (i : Nat) : Option (Nat × List Byte) :=
  if i = 0 then some (0, [])
  else if i = 255 then some (16, (List.range 16).flatMap (measBlock s))
  else if i ≤ 16 then some (1, measBlock s (i - 1))
  else none

/-- GET_MEASUREMENTS; a signed one is refused in BLANK and RETIRED. Its signature covers version to algorithms
and every request and response since the last signed one. -/
def execGetMeasurements (req : SpdmReq) (s : State) : Host.Outcome State Fault Refusal :=
  .next (if !doeReady s then s else
    match measRecord s req.index.toNat with
    | none => spdmError s 1
    | some r =>
      let n := spdmNonce s
      let count : Byte := if req.index = 0 then 16 else 0
      let b := spdmHead 0x60 count 0 ++ [BitVec.ofNat 8 r.1] ++ bytesOf 3 r.2.length ++ r.2 ++ n.1 ++ [0, 0] ++
        bytesOf 8 req.context.toNat
      let m := s.security.spdmMeas ++ req.msg ++ b
      if !req.signed then respond { n.2 with security := { s.security with spdmMeas := m } } b else
      match attestKey s with
      | none => spdmError s 5
      | some k => respond (endMeas n.2) (b ++ spdmSign k measureText (s.security.spdmVca ++ m)))

/-- SPDM_UNSUPPORTED: every other request. -/
def execSpdmUnsupported (_req : SpdmReq) (s : State) : Host.Outcome State Fault Refusal :=
  .next (if doeReady s then spdmError s 7 else s)

end Sys2Proof.Machine
end

