-- ==== Sys2Proof/Machine/RegSpace.lean ====
section
/-! DEFINITION. The device register space: who reaches a register (R328, R495, R551 and the access
rules of the blocks), what it reads as, and what a write does, field by field under the access codes
of R6 with the effects of the registers that start something. Commands that write a register in a row
of their own call the same operations. -/

namespace Sys2Proof.Machine

open Sys2Proof

/-! ### Reach -/

/-- A sender reaches a register: rings 2 and 3 the job page only; emergency frames and the safety block no ring
but 0 (R111, log entry 127); the MSI-X table and PBA the host alone; the debug port the identity block alone in
RETIRED. -/
def reach (s : State) (src : Sender) (b : Blk) (o : Nat) : Bool :=
  let frame := match b with
    | .core _ _ => decide (o = 0x50 ∨ 0x1000 ≤ o)
    | .safe => true
    | _ => false
  let msix := decide (b = .host ∧ 0x8000 ≤ o ∧ o < 0x10100)
  match src with
  | .host => true
  | .debug => (decide (b = .ident) || !decide (lcState s = 4)) && !msix
  | .board => false
  | .thread t =>
    let r := (getThread s (thrIx t)).ring.toNat
    if 2 ≤ r then decide (b = .job) else !msix && !(frame && decide (r = 1))

/-- A block responds: until READY only the identity and security blocks do, from the end of step 1;
the slot of an absent core does not (R52, R495). -/
def responds (s : State) (b : Blk) : Bool :=
  match b with
  | .ident => !inReset s
  | .sec => !inReset s
  | .core q c => isReady s && corePresent s (coreIx q c)
  | .unassigned => false
  | _ => isReady s

/-! ### Views: registers that show other state -/

def modeCode : ThreadMode → Nat
  | .off => 0
  | .run => 1
  | .wait => 2
  | .halt => 3
  | .debug => 4

/-- The sum of 2^k over the numbers below n that a test picks. -/
def bitsOf (n : Nat) (p : Nat → Bool) : Nat := (List.range n).foldl (fun a k => a + b2n (p k) * 2 ^ k) 0

/-- Why a cache is in blocking mode (CORE_BLOCKMODE, L2_BLOCKMODE). -/
def blockReason (s : State) (testing rec : Bool) : Nat :=
  if !isReady s then 1 else if testing then 2 else if rec then 3 else 0

def coreView (s : State) (ci o off : Nat) : Word :=
  match o with
  | 0x0 =>
    wd (physCore s ci * 2 ^ 8 + b2n (!isControl ci && decide (32 ≤ physCore s ci)) * 2 + b2n (isControl ci))
  | 0x10 => wd ((List.range (threadCount ci)).foldl (fun a k =>
      a + modeCode (getThread s (16 * ci + k)).mode * 2 ^ (4 * k)) 0)
  | 0x50 => (getCore s ci).occ.zeroExtend 64
  | 0x90 =>
    wd (blockReason s (getCore s ci).testing (recovering s (ci / 34)) * 2 + b2n (l1Blocks s ci))
  | _ => rget s off

/-- The micro-word at the read address of a quadrant. -/
def readWord (s : State) (q : Nat) : BitVec 96 :=
  tabGet (fun _ => 0) s.ucode (65536 * q + rfield s (qcmOff q 0x100) 0 16)

def qcmView (s : State) (q o off : Nat) : Word :=
  let here (c : Nat) : Bool := corePresent s (coreIx q c)
  match o with
  | 0x0 => wd (bitsOf 34 here)
  | 0x8 => wd (((List.range 32).filter here).length * 4 + b2n (here 32) + b2n (here 33))
  | 0x10 => wd ([32, 33].filter (fun n => !physRetired s q n && !physHeld s q n)).length
  | 0x108 => (readWord s q).truncate 64
  | 0x110 => (readWord s q >>> 64).truncate 64
  | _ => rget s off

/-- Key of the arbiter counters that ARB_SEL selects. -/
def arbSelected (s : State) (q : Nat) : Option Nat :=
  let w := rget s (l2Off q 0x300)
  let u := field w 8 6
  let r := field w 0 6
  match field w 16 2 with
  | 0 => if u < 32 ∧ r < 44 then some (64 * (32 * q + u) + r) else none
  | 1 => if r < 33 then some (64 * (128 + 64 * q + u) + r) else none
  | 2 => if u < 4 ∧ r < 33 then some (64 * (384 + 4 * q + u) + r) else none
  | _ => none

def arbCounts (s : State) (q : Nat) : ArbCount :=
  match arbSelected s q with
  | some k => tabGet (fun _ => ArbCount.zero) s.arbCounts k
  | none => ArbCount.zero

def l2View (s : State) (q o off : Nat) : Word :=
  let blocked (b : Nat) : Bool := bankBlocks s (32 * q + b)
  match o with
  | 0x100 => rget s off &&& ~~~(wd (bitsOf 24 (fun w => wayRetired s q w)) <<< 24)
  | 0x108 =>
    let tested := (List.range 32).any (fun b => bankTested s (32 * q + b))
    wd (blockReason s tested (recovering s q) * 2 ^ 32 + bitsOf 32 blocked)
  | 0x110 => lostWord s q
  | 0x308 => (arbCounts s q).grants.zeroExtend 64
  | 0x310 => (arbCounts s q).waits.zeroExtend 64
  | 0x318 => (arbCounts s q).longest.zeroExtend 64
  | _ => rget s off

/-- POT_STAT. -/
def potStat (s : State) (q : Nat) : Word :=
  let n (st : Nat) := (s.potSlots.filter (fun e => decide (e.1 / 2 ^ 14 = q ∧ e.2.state = st))).length
  wd (n 1 * 2 ^ 48 + n 2 * 2 ^ 32 + potFree s q)

def identView (s : State) (o off : Nat) : Word :=
  match o with
  | 0x0 => wd (0x28480000 + Config.stepping.toNat * 2 ^ 8)
  | 0x8 => Config.serial
  | 0x10 => wd (s.kept.svnMin.toNat * 2 ^ 8 + lcState s)
  | 0x30 => s.kept.resets.zeroExtend 64
  | _ => rget s off

/-- SAFE_RETIRE: the entry that SAFE_RETIRE_SEL selects. -/
def retireView (s : State) : Word :=
  match s.kept.retire[rfield s (safeOff 0x38) 0 8]? with
  | some e => retireWord e
  | none => 0

/-- ST_COVER_q: cores that passed a slice in the last 255 ms. -/
def coverView (s : State) (q : Nat) : Word :=
  wd (bitsOf 34 (fun c => s.selfTest.passed.any (fun e => decide (e.1 = coreIx q c ∧ e.2 ≤ 25500000))))

/-- SEC_MEAS_k: 48 bytes. -/
def measView (s : State) (o : Nat) : Word :=
  wd (ofBytes (((hashBytes (measOf s (o % 0x400 / 0x40))).drop (o % 0x40)).take 8))

/-- AGE_STAT of the island that AGE_SEL selects. -/
def ageView (s : State) : Word :=
  let n := rfield s (ageOff 8) 0 8
  let v := getIsland s n
  wd (islandVolt s n % 2 ^ 16 * 2 ^ 48 + v.steps.toNat * 2 ^ 40 + v.lowered.toNat * 2 ^ 32 +
    (tabGet (fun _ => (0 : BitVec 16)) s.power.slack n).toNat * 2 ^ 16 + b2n v.limit)

/-- CTX_PAGE_QUERY: bits [63:0] of a page's record, or the entry of a window page. -/
def queryView (s : State) : Word :=
  let w := rget s (dealOff 0x1038)
  if bit w 63 then
    match (windowKey s w).bind (findEnt s) with
    | none => 0
    | some e =>
      let shared := match findPage s e.ppn with
        | some p => decide (1 < p.ref)
        | none => false
      wd (2 ^ 63 + e.tier * 2 ^ 61 + b2n shared * 2 ^ 60 + e.ppn % 2 ^ 30 * 2 ^ 30)
  else
    match findPage s (field w 16 30) with
    | none => 0
    | some p => wd (p.ref % 2 ^ 16 * 2 ^ 48 + p.state * 2 ^ 46 + b2n p.idx * 2 ^ 45 + p.age * 2 ^ 43)

/-- DEAL_STATUS. -/
def dealView (s : State) : Word :=
  let n (st : SeqState) := (s.dealer.seqs.filter (fun e => decide (e.2.state = st))).length
  let w := setField (rget s (jobOff 8)) 11 5 (min 31 s.dealer.hands.length)
  setField (setField w 16 13 (n .live)) 32 13 (n .parked)

/-- What a register reads as; `who` is the requester of CFG_TXN_STATUS. -/
def regView (s : State) (src : Sender) (off : Nat) : Word :=
  let b := blockOf off
  match b.1 with
  | .core q c => coreView s (coreIx q c) b.2 off
  | .qcm q => qcmView s q b.2 off
  | .l2 q => l2View s q b.2 off
  | .sync q =>
    if b.2 = 0x18 then objWord (getObj s (16384 * q + rfield s (syncOff q 0x10) 0 14)) else rget s off
  | .link q => if b.2 = 0x808 then potStat s q else rget s off
  | .te n => if b.2 = 0x10 then queueStat s n else rget s off
  | .ident => identView s b.2 off
  | .cfg =>
    if b.2 = 0x18 then txnStatus s (requester src)
    else if b.2 = 0x20 then wd (txnFree s) else rget s off
  | .safe => if b.2 = 0x40 then retireView s else rget s off
  | .sec =>
    if b.2 = 0x10 then nonceLo s else if b.2 = 0x18 then nonceHi s
    else if 0x2000 ≤ b.2 ∧ b.2 < 0x2400 ∧ b.2 % 0x40 < 48 then measView s b.2 else rget s off
  | .pwr =>
    if b.2 = 0x30 then
      (tabGet (fun _ => (0 : BitVec 16)) s.power.temps (rfield s (pwrOff 0x28) 0 8)).zeroExtend 64
    else rget s off
  | .age =>
    if b.2 = 0x10 then ageView s else if b.2 = 0x18 then s.kept.hours.zeroExtend 64 else rget s off
  | .selftest =>
    if 0x200 ≤ b.2 ∧ b.2 < 0x220 then coverView s ((b.2 - 0x200) / 8) else rget s off
  | .deal => if b.2 = 0x1038 then queryView s else rget s off
  | .job =>
    if b.2 = 8 then dealView s
    else if b.2 = 0x48 then wd (freeTier s true * 2 ^ 32 + freeTier s false) else rget s off
  | _ => rget s off

/-! ### Reads -/

/-- A register as a sender reads it: 0 where it does not reach it, or the block does not respond. -/
def readReg (s : State) (src : Sender) (off : Nat) : Word :=
  let b := blockOf off
  if regDefined off && reach s src b.1 b.2 && responds s b.1 then regView s src off else 0

/-- A read of UCODE_DATA_HI advances the read address if AUTOINC is 1. -/
def readEffect (s : State) (src : Sender) (off : Nat) : State :=
  let b := blockOf off
  match b with
  | (.qcm q, 0x110) =>
    let o := qcmOff q 0x100
    if reach s src b.1 b.2 && responds s b.1 && bit (rget s o) 31
    then rsetField s o 0 16 (rfield s o 0 16 + 1) else s
  | _ => s

/-- The value of n registers from an offset on, the first lowest, read in order, and the state after. -/
def regsRead (src : Sender) : Nat → Nat → State → Nat × State
  | 0, _, s => (0, s)
  | n + 1, o, s =>
    let r := regsRead src n (o + 8) (readEffect s src o)
    ((readReg s src o).toNat + 2 ^ 64 * r.1, r.2)

/-- A read of `size` bytes at an offset: the addressed bytes, and the state after (R530). -/
def regRead (s : State) (src : Sender) (off size : Nat) : Nat × State :=
  let o := off / 8 * 8
  let r := regsRead src ((off - o + size + 7) / 8) o s
  ((r.1 >>> (8 * (off - o))) % 2 ^ (8 * size), r.2)

/-! ### Writes -/

/-- A write that R530 drops is counted, from the end of boot step 1 on. -/
def badWrite (s : State) : State := if inReset s then s else raddSat s (hostOff 0x18) 32 32 1

/-- A write under the access codes: RW fields take their values, each 1 in a W1C field clears it, RWL
fields act as RW until the deck has been applied, and TXN fields are staged. -/
def plainWrite (s : State) (src : Sender) (off : Nat) (val : Word) : State :=
  let r := regAt off
  let m := if s.boot.deckApplied then r.rw else r.rw ||| r.rwl
  let w := ((rget s off &&& ~~~m) ||| (val &&& m)) &&& ~~~(val &&& r.w1c)
  let s := rset s off w
  if r.txn = 0 then s else stageWrite s src off val

/-- A write of CORE_THR_EN. -/
def thrEnWrite (s : State) (ci : Nat) (val : Word) : State :=
  (List.range (threadCount ci)).foldl (fun s k =>
    if bit val k then threadEnable s (16 * ci + k) else threadDisable s (16 * ci + k)) s

/-- A write of CORE_EFRAME_CTL: RESUME, then the bits of OCC that are written as 1 are cleared. -/
def eframeWrite (s : State) (ci : Nat) (val : Word) : State :=
  let s := (List.range (threadCount ci)).foldl (fun s k =>
    if bit val (32 + k) then resumeThread s (16 * ci + k) else s) s
  (List.range (threadCount ci)).foldl (fun s k =>
    if bit val k then setOcc s (16 * ci + k) false else s) s

/-- A write of CORE_ARRAY_CTL. -/
def arrayCtlWrite (s : State) (ci : Nat) (val : Word) : State :=
  let s := if bit val 32 then rsetField s (coreReg ci 0x58) 32 1 0 else s
  (List.range (threadCount ci)).foldl (fun s k => if bit val k then forceSave s ci k else s) s

def coreWrite (s : State) (src : Sender) (ci o off : Nat) (val : Word) : State :=
  match o with
  | 0x8 => thrEnWrite s ci val
  | 0x20 => timerCtlWrite (plainWrite s src off val) ci
  | 0x28 => timerWrite s ci val
  | 0x50 => eframeWrite s ci val
  | 0x58 => arrayCtlWrite s ci val
  | _ => plainWrite s src off val

/-- A write of one of the three arbiter counters. -/
def arbCountWrite (s : State) (q o : Nat) (val : Word) : State :=
  match arbSelected s q with
  | none => s
  | some k =>
    let c := arbCounts s q
    let v : BitVec 32 := val.truncate 32
    let c := if o = 0x308 then { c with grants := v }
      else if o = 0x310 then { c with waits := v } else { c with longest := v }
    { s with arbCounts := tabSet (fun _ => ArbCount.zero) s.arbCounts k c }

def l2Write (s : State) (src : Sender) (q o off : Nat) (val : Word) : State :=
  match o with
  | 0x100 => if senderRing s src = 0 then setWaysOn s q (field val 0 24) else s
  | 0x110 => if senderRing s src = 0 ∧ bit val 62 then clearLost s q else s
  | 0x308 => arbCountWrite s q o val
  | 0x310 => arbCountWrite s q o val
  | 0x318 => arbCountWrite s q o val
  | _ => plainWrite s src off val

def syncWrite (s : State) (src : Sender) (q o off : Nat) (val : Word) : State :=
  match o with
  | 0x8 => hostOp s src q (field val 62 2) (field val 32 14) (val.truncate 32)
  | 0x20 => if bit val 63 then rsetField (rsetField s off 63 1 0) off 14 18 0 else s
  | _ => plainWrite s src off val

/-- A write of LINK_CTL. -/
def linkCtlWrite (s : State) (p : Nat) (val : Word) : State :=
  let o := portOff p 0x10
  let s := if bit val 0 then (if bit (rget s o) 0 then s else disablePort s p) else rset s o 0
  if bit val 1 then retrainWrite s p else s

def linkWrite (s : State) (src : Sender) (q o off : Nat) (val : Word) : State :=
  if o < 0x400 ∧ o % 0x100 = 0x10 then linkCtlWrite s (4 * q + o / 0x100) val
  else if o = 0x800 then (if bit val 63 then clearSlots s q else s)
  else plainWrite s src off val

def teWrite (s : State) (src : Sender) (n o off : Nat) (val : Word) : State :=
  match o with
  | 0x0 =>
    let was := bit (rget s off) 63
    let s := plainWrite s src off val
    if was && !bit val 63 then disableQueue s n else s
  | 0x18 =>
    let s := if bit val 0 then skipQueue s n else s
    if bit val 1 then discardQueue s n else s
  | _ => plainWrite s src off val

def cfgWrite (s : State) (src : Sender) (o : Nat) (val : Word) : State :=
  match o with
  | 0x0 => if bit val 0 then txnBegin s (requester src) else s
  | 0x8 => txnCommit s (requester src) (val.truncate 16)
  | 0x10 => txnRollback s (requester src) (val.truncate 16)
  | _ => s

def safeWrite (s : State) (src : Sender) (o off : Nat) (val : Word) : State :=
  let s := plainWrite s src off val
  if o = 0x50 ∧ bit val 63 ∧ senderRing s src = 0 then recoverWrite s (field val 0 2) else s

def dealWriteReg (s : State) (src : Sender) (o off : Nat) (val : Word) : State :=
  match o with
  | 0x0 => mmuWrite s val
  | 0x1028 => snapWrite s (field val 58 2)
  | _ => plainWrite s src off val

def jobWrite (s : State) (src : Sender) (o off : Nat) (val : Word) : State :=
  match o with
  | 0x0 => dealCommand s val
  | 0x20 => retireWrite s (field val 0 12)
  | 0x28 => poolHeadWrite s val
  | 0x60 => stashFreeWrite s val
  | _ => plainWrite s src off val

/-! ### Host block (R534 to R536) -/

/-- A masked vector whose pending bit is set is sent when it is unmasked. -/
def msixRelease (s : State) (v : Nat) : State :=
  let o := hostOff (0x10000 + v / 64 * 8)
  if bit (rget s o) (v % 64) then
    { rsetField s o (v % 64) 1 0 with host := { s.host with msgs := v :: s.host.msgs } }
  else s

/-- A write of a word of the MSI-X table. -/
def msixWrite (s : State) (o off : Nat) (val : Word) : State :=
  let was := bit (rget s off) 32
  let s := rset s off val
  if o % 16 = 8 ∧ was ∧ !bit val 32 then msixRelease s ((o - 0x8000) / 16) else s

/-- HOST_RAISE, by ring 0 or ring 1 (R535). -/
def raiseWrite (s : State) (src : Sender) (v : Nat) : State :=
  match src with
  | .thread _ => if 32 ≤ v then sendMsix s v else s
  | _ => s

/-- A writer's doorbell at `off`: a value while FULL is 0, else the write is dropped and sets OVR;
`told` is what acceptance does. -/
def doorbell (s : State) (off : Nat) (val : Word) (told : State → State) : State :=
  if bit (rget s off) 63 then rsetField s off 62 1 1
  else told (rset s off (setField (setField (rget s off) 0 32 (field val 0 32)) 63 1 1))

/-- The receiver clears FULL and OVR. -/
def doorbellClear (s : State) (off : Nat) (val : Word) : State :=
  rset s off (rget s off &&& ~~~(val &&& 0xC000000000000000))

/-- A mailbox register: 0 CTL, 8 H2D, 16 D2H. -/
def mailboxWrite (s : State) (src : Sender) (k : Nat) (o off : Nat) (val : Word) : State :=
  let host := match src with
    | .thread _ => false
    | _ => true
  if o % 0x20 = 8 then
    if host then doorbell s off val (fun s => raiseIrq s (rget s (off - 8)) 0x62 (wd k))
    else doorbellClear s off val
  else if o % 0x20 = 0x10 then
    if host then doorbellClear s off val else doorbell s off val (fun s => hostEvent s k)
  else plainWrite s src off val

def hostWrite (s : State) (src : Sender) (o off : Nat) (val : Word) : State :=
  if o = 8 then raiseWrite s src (field val 0 11)
  else if 0x100 ≤ o ∧ o < 0x300 then mailboxWrite s src ((o - 0x100) / 0x20) o off val
  else if 0x8000 ≤ o ∧ o < 0x10000 then msixWrite s o off val
  else plainWrite s src off val

/-! ### The one write operation -/

/-- A write of a register that the sender reaches in a block that responds. -/
def putReg (s : State) (src : Sender) (off : Nat) (val : Word) : State :=
  let b := blockOf off
  match b.1 with
  | .core q c => coreWrite s src (coreIx q c) b.2 off val
  | .qcm _ => if b.2 = 0x100 then ucodeAddrWrite s src off val else plainWrite s src off val
  | .l2 q => l2Write s src q b.2 off val
  | .sync q => syncWrite s src q b.2 off val
  | .link q => linkWrite s src q b.2 off val
  | .te n => teWrite s src n b.2 off val
  | .ident => if b.2 = 0x28 ∧ senderRing s src = 0 then resetWrite s val else s
  | .cfg => cfgWrite s src b.2 val
  | .safe => safeWrite s src b.2 off val
  | .commit => if b.2 = 0x30 then commitCtl s val else plainWrite s src off val
  | .sec => if b.2 = 0 then secWrite s val else plainWrite s src off val
  | .deal => dealWriteReg s src b.2 off val
  | .job => jobWrite s src b.2 off val
  | .host => hostWrite s src b.2 off val
  | _ => plainWrite s src off val

/-- A write of `size` bytes at an offset (R530). -/
def regWrite (s : State) (src : Sender) (off size : Nat) (val : Word) : State :=
  if (size = 8 ∧ off % 8 = 0) ∨ (size = 4 ∧ off % 4 = 0 ∧ acceptsFour off) then
    let o := off / 8 * 8
    let b := blockOf o
    if regDefined o && reach s src b.1 b.2 && responds s b.1 then
      putReg s src o (if size = 8 then val else setField (rget s o) (8 * (off % 8)) 32 val.toNat)
    else s
  else badWrite s

/-! ### The board-management target (R538) -/

/-- A register of the I3C target. -/
def boardRead (s : State) (o : Nat) : Nat :=
  let st := rget s (safeOff 0)
  match o with
  | 0x00 => 0x2848
  | 0x02 =>
    b2n (isReady s) + b2n (bit st 0) * 2 + b2n (decide (dutyLow s < 8)) * 4 + b2n (sagging s) * 8 +
      b2n (bit st 1) * 16 + b2n (bit st 2) * 32
  | 0x04 => rfield s (pwrOff 0) 48 16
  | 0x06 => rfield s (pwrOff 0) 32 16
  | 0x08 => rfield s (pwrOff 0x20) 16 16
  | 0x0A => rfield s (pwrOff 0x20) 48 16
  | 0x0C => rfield s (pwrOff 0x20) 32 16
  | 0x0E => s.power.alert.toNat
  | _ => 0

/-- A write of the I3C target: ALERT alone is written, each 1 clearing its bit. -/
def boardWrite (s : State) (o : Nat) (val : Word) : State :=
  if o = 0x0E then
    { s with power := { s.power with alert := s.power.alert &&& ~~~(val.truncate 16) } }
  else s

/-! ### The commands -/

/-- REGISTER_WRITE (R6). -/
def execRegisterWrite (src : Sender) (off : BitVec 28) (size : BitVec 4) (val : BitVec 64) (s : State) :
    Host.Outcome State Fault Refusal :=
  .next (match src with
    | .board => if inReset s then s else boardWrite s off.toNat val
    | _ => if hostClear s src then regWrite s src off.toNat size.toNat val else s)

/-- The completion of a read: the bytes, as one word where it holds them. -/
def readReply (size v : Nat) : HostReply := if size ≤ 8 then .data (wd v) else .bytes (bytesOf size v)

/-- BAR0_READ (R530, R532): the completion carries the bytes. The board target reads its own
registers. -/
def execBar0Read (src : Sender) (off : BitVec 28) (size : BitVec 13) (s : State) :
    Host.Outcome State Fault Refusal :=
  .next (match src with
    | .board =>
      if inReset s then s else
      { s with host := { s.host with reply := some (.data (wd (boardRead s off.toNat))) } }
    | _ =>
      if !hostClear s src then s else
      let r := regRead s src off.toNat size.toNat
      { r.2 with host := { r.2.host with reply := some (readReply size.toNat r.1) } })

/-- TXN_STAGE (R513): a write of a register with TXN fields. -/
def execTxnStage (src : Sender) (off : BitVec 28) (val : BitVec 64) (s : State) :
    Host.Outcome State Fault Refusal :=
  .next (if (regAt off.toNat).txn ≠ 0 ∧ hostClear s src = true then regWrite s src off.toNat 8 val else s)

end Sys2Proof.Machine
end

