-- ==== Sys2Proof/Machine/Deck.lean ====
section
/-! DEFINITION. Step 4 of the boot sequence: the application of the deck (R496, R504, R505) and its
measurements (R524). Layouts of sections that the manual names and does not lay out are log entry 50. -/

namespace Sys2Proof.Machine

open Sys2Proof

/-! ### Deck values -/

/-- Bits of a register that a section sets: RW, RWL and TXN fields, and CORE_FREQ.MULT. -/
def deckMask (off : Nat) : Word :=
  let r := regAt off
  match blockOf off with
  | (.core _ _, 0x38) => 0xFF
  | _ => r.rw ||| r.rwl ||| r.txn

/-- The bits of a mask take a value. -/
def setBits (s : State) (off : Nat) (m val : Word) : State := rset s off ((rget s off &&& ~~~m) ||| (val &&& m))

/-- One deck value. -/
def deckReg (s : State) (off : Nat) (val : Word) : State := setBits s off (deckMask off) val

/-- Word k of a section. -/
def sectionWord (b : List Byte) (k : Nat) : Word := wd (ofBytes ((b.drop (8 * k)).take 8))

/-! ### The REGS section (R505) -/

/-- An entry for UCODE_DATA_HI writes the micro-word at the read address, with the last UCODE_DATA_LO of the
quadrant, free where none came before, and advances the address if AUTOINC is 1. -/
def deckUcode (x : State × Tab Word) (q : Nat) (val : Word) : State × Tab Word :=
  let o := qcmOff q 0x100
  let a := rfield x.1 o 0 16
  let f := drawFree x.1
  let lo := (tabFind x.2 q).getD f.1
  let s := applyWord f.2 (65536 * q + a) (BitVec.ofNat 96 (field val 0 32 * 2 ^ 64 + lo.toNat))
  (if bit (rget s o) 31 then rsetField s o 0 16 (a + 1) else s, tabPut x.2 q lo)

/-- An entry acts as a write that bypasses transactions: what the write of the register does, with its TXN
fields written at once. CORE_THR_EN keeps its bits until the threads start (DESIGN CHOICE, log entry 96). -/
def deckWrite (s : State) (off : Nat) (val : Word) : State :=
  match blockOf off with
  | (.core _ _, 8) => setBits s off (regAt off).rw val
  | (.core _ _, 0x38) => deckReg s off val
  | _ => setBits { putReg s .host off val with txn := s.txn } off (regAt off).txn val

/-- Apply an entry; after one that resets the device nothing more is applied. The second part holds the last
UCODE_DATA_LO of each quadrant. -/
def deckEntry (x : State × Tab Word) (e : Nat × Word) : State × Tab Word :=
  if inReset x.1 then x else
  match blockOf e.1 with
  | (.qcm q, 0x108) => (x.1, tabPut x.2 q e.2)
  | (.qcm q, 0x110) => deckUcode x q e.2
  | _ => (deckWrite x.1 e.1 e.2, x.2)

def applyRegs (s : State) (b : List Byte) : State := ((regsEntries b).foldl deckEntry (s, [])).1

/-! ### The other sections -/

def setMeas (s : State) (k : Nat) (l : List Byte) : State :=
  { s with security := { s.security with meas := tabSet (fun _ => 0) s.security.meas k (sha384 l) } }

/-- A UCODE section: micro-words of 12 bytes, then the 16 DEC_SLOT values. -/
def applyUcode (s : State) (q : Nat) (b : List Byte) : State :=
  let n := min 65536 ((b.length - 128) / 12)
  let u := (List.range n).foldl (fun u k =>
    tabSet (fun _ => 0) u (65536 * q + k) (BitVec.ofNat 96 (ofBytes ((b.drop (12 * k)).take 12))))
      s.ucode
  let s := { s with ucode := u }
  let d := b.drop (b.length - 128)
  (List.range 16).foldl (fun s k => deckReg s (qcmOff q (0x200 + 8 * k)) (sectionWord d k)) s

/-- The TOPO section: one word for each value, in the order of the section-type table. -/
def applyTopo (s : State) (b : List Byte) : State :=
  let s := { s with devId := BitVec.ofNat 20 (sectionWord b 0).toNat }
  let s := deckReg s (linkOff 0 0x408) (sectionWord b 2)
  let s := (List.range 16).foldl (fun s p => deckReg s (portOff p 0) (sectionWord b (3 + p))) s
  let s := deckReg s (commitOff 8) (sectionWord b 19)
  let s := deckReg s (commitOff 0x10) (sectionWord b 20)
  let s := rsetField s (commitOff 0x10) 0 16 (sectionWord b 1).toNat
  let s := (List.range 16).foldl (fun s k =>
    deckReg s (dealOff (0x10100 + 8 * k)) (sectionWord b (21 + k))) s
  rsetField s (dealOff 0x10000) 48 1 (sectionWord b 37).toNat

/-- The FW_CTRL section: load address, ENTRY0, ENTRY1 and the image, which goes into the boot
store. -/
def applyControl (s : State) (x : Nat × Nat × Nat × Nat) (b : List Byte) : State :=
  { s with
    deckEntry0 := sectionWord b 1 &&& ~~~3
    deckEntry1 := sectionWord b 2 &&& ~~~3
    boot := { s.boot with
      loadAddr := field (sectionWord b 0) 0 48, imageOff := x.2.2.1 + 24
      imageLen := b.length - 280 } }

/-- Apply a section of the copy read; after a reset that an entry has caused nothing more is applied. -/
def applySection (s : State) (x : Nat × Nat × Nat × Nat) : State :=
  if inReset s then s else
  let b := sectionBytes s x
  let s := if 2 ≤ x.1 ∧ x.1 ≤ 11 ∧ x.1 ≠ 6 then setMeas s x.1 b else s
  match x.1 with
  | 5 => applyControl s x b
  | 6 => applyUcode s x.2.1 b
  | 7 =>
    let d := b.drop (b.length - 16)
    deckReg (deckReg s (stOff 0x400) (sectionWord d 0)) (stOff 0x408) (sectionWord d 1)
  | 8 => applyTopo s b
  | 0xB => applyRegs s b
  | 0xC => { s with security := { s.security with cert := b } }
  | _ => s

/-! ### Step 4 -/

/-- Measurements beside those of single sections (R524). -/
def measureDeck (s : State) : State :=
  let b := s.boot
  let s := setMeas s 1 (b.image.take (0x40 + 16 * b.sections.length))
  let u := b.sections.filter (fun x => decide (x.1 = 6))
  let s := if u.isEmpty then s else setMeas s 6 (u.flatMap (sectionBytes s))
  if b.recordGood then setMeas s 12 b.record else s

/-- What the end of step 4 does once every section is applied: the deck values hold, and RWL fields lock. -/
def deckDone (s : State) : State :=
  let s := measureDeck { s with boot := { s.boot with recordGood := recordGood s.boot.record } }
  let s := rset s 0x20 (wd (s.boot.svn.toNat * 2 ^ 48 + s.boot.gen.toNat))
  let s := rsetField s 0x18 16 4 s.boot.copy
  let s := (List.range 4).foldl nextTransition s
  setStage (takeMeta { s with boot := { s.boot with deckApplied := true } }) 5

/-- BOOT_APPLY: step 4 ends. -/
def execBootApply (s : State) : Host.Outcome State Fault Refusal :=
  .next (if bootAt s 4 then
    let s := s.boot.sections.foldl applySection s
    if inReset s then s else deckDone s
  else s)

end Sys2Proof.Machine
end

