-- ==== Sys2Proof/Machine/Fp.lean ====
section
/-! DEFINITION. Scalar floating point (R57, R71, R114 to R120, R136, R137): arithmetic, fused
multiply-add, comparison, sign injection, conversion and classification. -/

namespace Sys2Proof.Machine

open Sys2Proof

/-- R113 format code of .f32 and .f64. -/
def fpCode (f64 : Bool) : Nat := if f64 then 12 else 11

/-- A scalar operand: FP32 is read from bits [31:0] (R57). -/
def fpOpnd (f64 : Bool) (w : Word) : Nat := if f64 then w.toNat else w.toNat % 2 ^ 32

/-- Write a result and raise its flags. -/
def fpDone (s : State) (i : Nat) (d : BitVec 5) (r : Nat × FFlags) : Body :=
  .done (raiseFlags (writeG s i d (wd r.1)) i r.2)

/-- Two-operand FP instructions; `unary` says that b must be 0. The operation gets the format code,
FRM and the operands. -/
def fpBody (x : Iss) (f : FpForm) (unary : Bool) (op : Nat → Nat → Nat → Nat → Nat × FFlags) :
    Nat → State → Body :=
  shortOnly x (decide (f.rsv = 0) && (!unary || decide (f.b = 0))) fun i s =>
    let t := getThread s i
    fpDone s i f.d (op (fpCode f.f64) t.frm.toNat (fpOpnd f.f64 (getG t f.a))
      (fpOpnd f.f64 (getG t f.b)))

/-- Fused multiply-add forms: .f32 or .f64, FN[3:2] = 0. -/
def fmaBody (x : Iss) (f : FmaForm) (negProd negAdd : Bool) : Nat → State → Body :=
  shortOnly x (decide (f.fmt.toNat < 2 ∧ f.rsv = 0)) fun i s =>
    let t := getThread s i
    let w := decide (f.fmt = 1)
    fpDone s i f.d (fpFma (fpCode w) t.frm.toNat negProd negAdd (fpOpnd w (getG t f.a))
      (fpOpnd w (getG t f.b)) (fpOpnd w (getG t f.c)))

def execFpAdd (x : Iss) (f : FpForm) (s : State) : Host.Outcome State Fault Refusal :=
  .next (issue x (fpBody x f false fpAdd) s)
def execFpSub (x : Iss) (f : FpForm) (s : State) : Host.Outcome State Fault Refusal :=
  .next (issue x (fpBody x f false fpSub) s)
def execFpMul (x : Iss) (f : FpForm) (s : State) : Host.Outcome State Fault Refusal :=
  .next (issue x (fpBody x f false fpMul) s)
def execFpDiv (x : Iss) (f : FpForm) (s : State) : Host.Outcome State Fault Refusal :=
  .next (issue x (fpBody x f false fpDiv) s)
def execFpSqrt (x : Iss) (f : FpForm) (s : State) : Host.Outcome State Fault Refusal :=
  .next (issue x (fpBody x f true fun c rm a _ => fpSqrt c rm a) s)
def execFpMin (x : Iss) (f : FpForm) (s : State) : Host.Outcome State Fault Refusal :=
  .next (issue x (fpBody x f false fun c _ a b => fpMinMax c false a b) s)
def execFpMax (x : Iss) (f : FpForm) (s : State) : Host.Outcome State Fault Refusal :=
  .next (issue x (fpBody x f false fun c _ a b => fpMinMax c true a b) s)

/-- A comparison's result as 1 or 0. -/
def cmpResult (r : Bool × FFlags) : Nat × FFlags := (b2n r.1, r.2)

def execFpCmpEq (x : Iss) (f : FpForm) (s : State) : Host.Outcome State Fault Refusal :=
  .next (issue x (fpBody x f false fun c _ a b => cmpResult (fpCompare c 0 a b)) s)
def execFpCmpLt (x : Iss) (f : FpForm) (s : State) : Host.Outcome State Fault Refusal :=
  .next (issue x (fpBody x f false fun c _ a b => cmpResult (fpCompare c 1 a b)) s)
def execFpCmpLe (x : Iss) (f : FpForm) (s : State) : Host.Outcome State Fault Refusal :=
  .next (issue x (fpBody x f false fun c _ a b => cmpResult (fpCompare c 2 a b)) s)
def execFpSgnj (x : Iss) (f : FpForm) (s : State) : Host.Outcome State Fault Refusal :=
  .next (issue x (fpBody x f false fun c _ a b => (fpSgnj c 0 a b, 0)) s)
def execFpSgnjn (x : Iss) (f : FpForm) (s : State) : Host.Outcome State Fault Refusal :=
  .next (issue x (fpBody x f false fun c _ a b => (fpSgnj c 1 a b, 0)) s)
def execFpSgnjx (x : Iss) (f : FpForm) (s : State) : Host.Outcome State Fault Refusal :=
  .next (issue x (fpBody x f false fun c _ a b => (fpSgnj c 2 a b, 0)) s)
def execFma (x : Iss) (f : FmaForm) (s : State) : Host.Outcome State Fault Refusal :=
  .next (issue x (fmaBody x f false false) s)
def execFms (x : Iss) (f : FmaForm) (s : State) : Host.Outcome State Fault Refusal :=
  .next (issue x (fmaBody x f false true) s)
def execFnma (x : Iss) (f : FmaForm) (s : State) : Host.Outcome State Fault Refusal :=
  .next (issue x (fmaBody x f true false) s)
def execFnms (x : Iss) (f : FmaForm) (s : State) : Host.Outcome State Fault Refusal :=
  .next (issue x (fmaBody x f true true) s)

/-! ### Conversion (major 0x1C) -/

/-- The value of a cvt source. -/
def cvtSource (src : Nat) (w : Word) : Fp :=
  match src with
  | 0 => decodeFmt 3 (w.toNat % 2 ^ 32)
  | 1 => .fin false (w.toNat % 2 ^ 32) 0
  | 2 => decodeFmt 4 w.toNat
  | 3 => .fin false w.toNat 0
  | 4 => decodeFmt 11 (w.toNat % 2 ^ 32)
  | _ => decodeFmt 12 w.toNat

/-- Integer limits of a cvt destination. -/
def cvtRange (dst : Nat) : Int × Int :=
  match dst with
  | 0 => intRange 3
  | 1 => intRange 13
  | 2 => intRange 4
  | _ => intRange 14

/-- cvt of a word. -/
def cvtResult (rm src dst : Nat) (w : Word) : Word × FFlags :=
  let v := cvtSource src w
  if dst < 4 then
    let lim := cvtRange dst
    let r := toIntRange lim.1 lim.2 rm v
    (wdInt r.1, r.2)
  else
    let r := convFmt (if src < 4 then 4 else src + 7) (dst + 7) rm 0 0 v
    (wd r.1, r.2)

/-- cvt: source and destination differ and neither is a reserved code. -/
def execCvt (x : Iss) (f : CvtForm) (s : State) : Host.Outcome State Fault Refusal :=
  .next (issue x (shortOnly x
    (decide (f.b = 0 ∧ f.rsv = 0 ∧ f.src.toNat < 6 ∧ f.dst.toNat < 6 ∧ f.src ≠ f.dst)) fun i s =>
    let t := getThread s i
    let r := cvtResult t.frm.toNat f.src.toNat f.dst.toNat (getG t f.a)
    .done (raiseFlags (writeG s i f.d r.1) i r.2)) s)

/-- class: destination code 0xF and an FP source (R71, R120). -/
def execFclass (x : Iss) (f : CvtForm) (s : State) : Host.Outcome State Fault Refusal :=
  .next (issue x (shortOnly x
    (decide (f.b = 0 ∧ f.rsv = 0 ∧ (f.src = 4 ∨ f.src = 5) ∧ f.dst = 15)) fun i s =>
    let w := decide (f.src = 5)
    .done (writeG s i f.d (wd (2 ^ fpClass (fpCode w) (fpOpnd w (getG (getThread s i) f.a)))))) s)

end Sys2Proof.Machine
end

