-- ==== Sys2Proof/Machine/MemScalar.lean ====
section
/-! DEFINITION. Scalar loads, stores and atomics (majors 0x0D to 0x0F; R33, R62, R69, R71, R286, R287,
R302, R551). A load that misses holds its thread until its line arrives; a store goes on to its home
bank; an atomic is performed there. Loads and stores of the device register space read and write the
register at once (R328, R530). -/

namespace Sys2Proof.Machine

open Sys2Proof

/-- Size in bytes and sign of a load kind; none for the reserved code. -/
def loadKind (k : BitVec 3) : Option (Nat × Bool) :=
  match k.toNat with
  | 0 => some (1, true)
  | 1 => some (1, false)
  | 2 => some (2, true)
  | 3 => some (2, false)
  | 4 => some (4, true)
  | 5 => some (4, false)
  | 6 => some (8, true)
  | _ => none

/-- Size in bytes of a store kind. -/
def storeKind (k : BitVec 3) : Option Nat :=
  match k.toNat with
  | 0 => some 1
  | 1 => some 2
  | 2 => some 4
  | 3 => some 8
  | _ => none

/-- A loaded value of `size` bytes, extended to 64 bits. -/
def extendLoad (size : Nat) (signed : Bool) (v : Nat) : Word :=
  if signed then wdInt (sext (8 * size) v) else wd v

/-- Virtual address of a mem-format access: the base and the offset or literal (R59, R62). -/
def memAddr (x : Iss) (f : MemForm) (t : Thread) : Option Word :=
  (literalOr x (f.off.signExtend 64)).map (fun off => getG t f.a + off)

/-! ### Loads -/

/-- A load at a physical address of memory: a hit completes; a miss takes a miss register or attaches
to one, and holds the thread (R33, R296). A line that an own accumulating write will still change comes
from its home (R369). -/
def loadLine (x : Iss) (f : MemForm) (size : Nat) (signed : Bool) (va : Word) (pa i : Nat)
    (s : State) : Body :=
  let l := pa / 128
  let ci := i / 16
  let a := threadAgent s i
  let first := firstHit s ci l
  match (if ownUpdate s (queueOf i) l then none else tabFind (getCore s ci).l1d l) with
  | some e =>
    if meetsAt x.ue va size then
      let r := l1Error (dropL1 s ci l) a l va
      .trap r.1 r.2.1 r.2.2
    else
      let s := noteSeen (touchLine s ci l) i l
      let s := writeG s i f.d (extendLoad size signed (lineGet e.data (pa % 128) size))
      .done (if first then train i s l else s)
  | none =>
    let p : PendLoad := { line := l, addr := pa, va := va, size := size, signed := signed, d := f.d
                          len := 4 * issWords x }
    let s := modThread s i (fun t => { t with hold := .load, loads := [p] })
    let s := demand s { kind := .load, wid := 0, core := ci, thr := i, line := l, cls := a.cls, age := 1,
                        l2age := 1 }
    .again (train i s l)

/-- The body of a load. -/
def loadBody (x : Iss) (f : MemForm) (i : Nat) (s : State) : Body :=
  match loadKind f.kind, memAddr x f (getThread s i) with
  | some (size, signed), some va =>
    if va.toNat % size ≠ 0 then .trap s 0x05 va else
    match xlatAny true (threadAgent s i) .load s va with
    | (s, .trap c info) => .trap s c info
    | (s, .held _) => .again s
    | (s, .to pa) =>
      if inDevice pa then
        let r := regRead s (.thread x.thr) (deviceOff pa) size
        .done (writeG r.2 i f.d (extendLoad size signed r.1))
      else loadLine x f size signed va pa i s
  | _, _ => illegal s i

/-- LD (R69, R71). -/
def execLd (x : Iss) (f : MemForm) (s : State) : Host.Outcome State Fault Refusal :=
  .next (issue x (l1Open (loadBody x f)) s)

/-! ### Stores -/

/-- A store at a physical address of memory: it updates the core's L1 line if that is present, and
goes on to the home bank (R286). -/
def storeLine (pa size : Nat) (v : Word) (i : Nat) (s : State) : State :=
  let l := pa / 128
  let ci := i / 16
  let s := patchL1 s ci l (byteMask (pa % 128) size) (byteData (pa % 128) size v.toNat)
  let id := s.nextWrite
  sendReq { s with nextWrite := id + 1 }
    { kind := .store (pa % 128) size v, wid := id, core := ci, thr := i, line := l
      cls := (threadAgent s i).cls, age := 1, l2age := 1 }

/-- A store to a register. Where the write resets the device, the thread has ended with it. -/
def storeReg (x : Iss) (pa size : Nat) (v : Word) (s : State) : Body :=
  let s' := regWrite s (.thread x.thr) (deviceOff pa) size v
  if inReset s' && !inReset s then .again s' else .done s'

/-- The body of a store. One to a line in a lost set is refused (R308). -/
def storeBody (x : Iss) (f : MemForm) (i : Nat) (s : State) : Body :=
  let t := getThread s i
  match storeKind f.kind, memAddr x f t with
  | some size, some va =>
    if va.toNat % size ≠ 0 then .trap s 0x05 va else
    match xlatAny true (threadAgent s i) .store s va with
    | (s, .trap c info) => .trap s c info
    | (s, .held need) => holdThrough s i need
    | (s, .to pa) =>
      let v := getG t f.d
      if inDevice pa then storeReg x pa size v s
      else if refused s (pa / 128) then
        let e := memError s (threadAgent s i) (pa / 128) va 0x43
        .trap e.1 e.2.1 e.2.2
      else .done (storeLine pa size v i s)
  | _, _ => illegal s i

/-- ST (R69, R286). -/
def execSt (x : Iss) (f : MemForm) (s : State) : Host.Outcome State Fault Refusal :=
  .next (issue x (l1Open (storeBody x f)) s)

/-! ### Atomics -/

/-- The body of an atomic: it takes a miss register, and its value comes from the home bank (R71,
R296). -/
def amoBody (op : AmoOp) (f : RegForm) (i : Nat) (s : State) : Body :=
  let t := getThread s i
  let va := getG t f.a
  let size := if f.w32 then 4 else 8
  if va.toNat % size ≠ 0 then .trap s 0x05 va else
  match xlat (threadAgent s i) .amo s va with
  | (s, .trap c info) => .trap s c info
  | (s, .held need) => holdThrough s i need
  | (s, .to pa) =>
    let s := modThread s i (fun t => { t with hold := .load })
    .again (demand s
      { kind := .amo op (pa % 128) size (getG t f.b) (getG t f.d) f.d va, wid := 0, core := i / 16, thr := i
        line := pa / 128, cls := (threadAgent s i).cls, age := 1, l2age := 1 })

/-- An atomic: FN[9:4] is 0, and there is no long form. -/
def amo (op : AmoOp) (x : Iss) (f : RegForm) (s : State) : State :=
  issue x (shortOnly x (decide (f.rsv = 0)) (l1Open (amoBody op f))) s

def execAmoAdd (x : Iss) (f : RegForm) (s : State) : Host.Outcome State Fault Refusal :=
  .next (amo .add x f s)
def execAmoSwap (x : Iss) (f : RegForm) (s : State) : Host.Outcome State Fault Refusal :=
  .next (amo .swap x f s)
def execAmoCas (x : Iss) (f : RegForm) (s : State) : Host.Outcome State Fault Refusal :=
  .next (amo .cas x f s)
def execAmoMin (x : Iss) (f : RegForm) (s : State) : Host.Outcome State Fault Refusal :=
  .next (amo .min x f s)
def execAmoMax (x : Iss) (f : RegForm) (s : State) : Host.Outcome State Fault Refusal :=
  .next (amo .max x f s)
def execAmoMinu (x : Iss) (f : RegForm) (s : State) : Host.Outcome State Fault Refusal :=
  .next (amo .minu x f s)
def execAmoMaxu (x : Iss) (f : RegForm) (s : State) : Host.Outcome State Fault Refusal :=
  .next (amo .maxu x f s)

end Sys2Proof.Machine
end

