-- ==== Sys2Proof/Machine/HostIf.lean ====
section
/-! DEFINITION. The host through BAR2, MSI-X and the mailboxes (R530 to R536), and the test access port
(R490, R522). -/

namespace Sys2Proof.Machine

open Sys2Proof

/-! ### BAR2 (R531, R532) -/

/-- The host as an agent of memory: local physical addresses, class 3. -/
def bar2Agent : Agent :=
  { who := hostAgent, core := none, thr := none, aspace := 0, ring := 0, cls := 3, age := 1 }

/-- Local physical address of a BAR2 offset. -/
def bar2Addr (s : State) (off : BitVec 36) : Word :=
  wd (rfield s (hostOff 0x10) 30 16 * 2 ^ 30 + off.toNat)

def hostReply (s : State) (r : HostReply) : State := { s with host := { s.host with reply := some r } }

/-- BAR2_READ: Unsupported Request outside memory, Completer Abort for an unreadable line. -/
def execBar2Read (off : BitVec 36) (len : BitVec 13) (s : State) : Host.Outcome State Fault Refusal :=
  .next (if !isReady s then hostReply s .unsupported
    else if !hostClear s .host then s
    else match readSpan bar2Agent (len.toNat / 128 + 2) len.toNat s (bar2Addr s off) with
      | (s, .inl v) => hostReply s (.bytes (bytesOf len.toNat v))
      | (s, .inr e) => hostReply s (if e.1 = 0x09 then .unsupported else .abort))

/-- BAR2_WRITE: an access outside memory is dropped and counted. -/
def execBar2Write (off : BitVec 36) (data : List (BitVec 8)) (s : State) :
    Host.Outcome State Fault Refusal :=
  let ws := cutRun (data.length / 128 + 2) (bar2Addr s off) data.length (ofBytes data)
  .next (if !isReady s || !hostClear s .host then s
    else match xlatAll bar2Agent .store 1 (ws.map (fun w => (w.addr, 0))) s with
      | (s, .inl ps) => (performAll bar2Agent (ps.zip ws) s).1
      | (s, .inr _) => raddSat s (hostOff 0x18) 0 32 1)

/-! ### MSI-X and mailboxes (R534 to R536) -/

/-- MSIX_UNMASK: the host clears the mask of a vector. -/
def execMsixUnmask (vec : BitVec 11) (s : State) : Host.Outcome State Fault Refusal :=
  let o := 0x8000 + 16 * vec.toNat + 8
  .next (if mayWrite s .host 0
    then msixWrite s o (hostOff o) (setField (rget s (hostOff o)) 32 1 0) else s)

/-- HOST_RAISE (R535). -/
def execHostRaise (t : Thr) (vec : BitVec 11) (s : State) : Host.Outcome State Fault Refusal :=
  .next (if mayWrite s (.thread t) 1 then raiseWrite s (.thread t) vec.toNat else s)

/-- MBX_H2D: the host writes a doorbell. -/
def execMbxH2d (k : BitVec 4) (val : BitVec 64) (s : State) : Host.Outcome State Fault Refusal :=
  let o := 0x108 + 0x20 * k.toNat
  .next (if mayWrite s .host 0 then mailboxWrite s .host k.toNat o (hostOff o) val else s)

/-- MBX_D2H: ring 0 or ring 1 writes a doorbell. -/
def execMbxD2h (t : Thr) (k : BitVec 4) (val : BitVec 64) (s : State) : Host.Outcome State Fault Refusal :=
  let o := 0x110 + 0x20 * k.toNat
  .next (if mayWrite s (.thread t) 1 then mailboxWrite s (.thread t) k.toNat o (hostOff o) val else s)

/-! ### The test access port (R490, Life cycle) -/

/-- The debug port may claim threads: in BLANK, PROVISIONED and DIAGNOSTIC, and in PRODUCTION where the
deck's FLAGS.DEBUG is 1. -/
def mayClaim (s : State) : Bool :=
  isReady s && (match lcState s with
    | 2 => s.boot.flags.getLsbD 1
    | 4 => false
    | _ => true)

/-- A thread stands at an instruction boundary. -/
def atInstruction (t : Thread) : Bool :=
  decide (t.mode = .run ∧ t.hold = .none) && t.custom.isNone && !t.partway

/-- A request of the debug port. Only a claimed thread is stopped or run; a released thread that was
stopped runs on. -/
def dbgThread (s : State) (i : Nat) (op : TapOp) : State :=
  let t := getThread s i
  if t.mode = .off then s else
  match op with
  | .dbgClaim _ => setThread s i { t with claimed := true }
  | .dbgRelease _ => setThread s i { t with
      claimed := false, mode := if t.mode = .debug then .run else t.mode }
  | .dbgStop _ => if t.claimed && atInstruction t then setThread s i { t with mode := .debug } else s
  | .dbgRun _ => if t.claimed && decide (t.mode = .debug) then setThread s i { t with mode := .run } else s
  | _ => s

def debugClaim (s : State) (t : Thr) (op : TapOp) : State :=
  if mayClaim s && corePresent s (thrCore t) then dbgThread s (thrIx t) op else s

/-- TAP_INSTRUCTION (R490): the boundary-scan instructions and scan chains act on pins and chains that
are no state of the model (log entry 116). -/
def execTapInstruction (op : TapOp) (s : State) : Host.Outcome State Fault Refusal :=
  .next (match op with
    | .bypass => s
    | .idcode => s
    | .sample => s
    | .extest => s
    | .scan => s
    | .dbgClaim t => debugClaim s t op
    | .dbgRelease t => debugClaim s t op
    | .dbgStop t => debugClaim s t op
    | .dbgRun t => debugClaim s t op
    | .dbgSync set obj val =>
      if isReady s ∧ lcState s ≠ 4 then
        hostOp s .debug (obj.toNat / 16384) (if set then 2 else 1) (obj.toNat % 16384) val
      else s)

end Sys2Proof.Machine
end

