-- ==== Sys2Proof/Machine/Micro.lean ====
section
/-! DEFINITION. Custom instructions and microcode (R76 to R86, R155): the start of a custom
instruction and the execution of one micro-word. A micro-word reads its sources before it writes;
its sequencing sees the results of its own operations (log entry 52). -/

namespace Sys2Proof.Machine

open Sys2Proof

/-! ### Bindings and starts -/

/-- DEC_SLOT_k of a quadrant. -/
def decSlot (s : State) (q : Nat) (k : BitVec 4) : Word := rget s (qcmOff q (0x200 + 8 * k.toNat))

def routineStart (w : Word) : Nat := field w 0 16
def routineLen (w : Word) : Nat := field w 32 16

/-- A slot is enabled for a ring (R76). -/
def slotOpen (w : Word) (ring : BitVec 2) : Bool :=
  bit w 63 && decide (routineLen w ≠ 0 ∧ ring.toNat ≤ field w 58 2)

/-- The form of cust.k: FN[5:4] and XF are 0, and LIT is no reserved code (R60, R550). -/
def custForm (x : Iss) (f : CustForm) : Bool :=
  decide (f.rsv = 0) && (match x.long with
    | none => true
    | some p => decide (p.xf = 0 ∧ p.lit ≠ .bad))

/-- The body of CUST: micro-temporaries, LC and flags start at 0 (R82). A restart after an interrupt
holds further interrupts (R86). The micro-words that follow take the issue slots (R83). -/
def custBody (x : Iss) (f : CustForm) (i : Nat) (s : State) : Body :=
  let t := getThread s i
  let q := i / 16 / 34
  if ucodePending s q then .stall s .ucode else
  let w := decSlot s q f.slot
  if !custForm x f || !slotOpen w t.ring then illegal s i else
  let c : Custom :=
    { upc := routineStart w, u := [], lc := 0, z := false, n := false, c := false, v := false
      stack := [], count := 0, form := f, long := x.long, held := decide (t.pc ∈ t.custRestart)
      flags := 0 }
  .again (setThread s i { t with
    custom := some c, custRestart := t.custRestart.filter (fun a => decide (a ≠ t.pc)) })

/-- CUST (R76, R78). -/
def execCust (x : Iss) (f : CustForm) (s : State) : Host.Outcome State Fault Refusal :=
  .next (issue x (custBody x f) s)

/-! ### Fields of a micro-word -/

/-- Field of a micro-word. -/
def mfield (w : BitVec 96) (lo n : Nat) : Nat := (w.toNat >>> lo) % 2 ^ n

def mNext (w : BitVec 96) : Nat := mfield w 80 16
def mSeq (w : BitVec 96) : Nat := mfield w 77 3
def mCond (w : BitVec 96) : Nat := mfield w 72 5
def mSop (w : BitVec 96) : Nat := mfield w 66 6
def mSa (w : BitVec 96) : Nat := mfield w 61 5
def mSb (w : BitVec 96) : Nat := mfield w 56 5
def mSd (w : BitVec 96) : Nat := mfield w 51 5
def mUnit (w : BitVec 96) : Nat := mfield w 49 2
def mFn (w : BitVec 96) : Nat := mfield w 43 6
def mMem (w : BitVec 96) : Nat := mfield w 38 2
def mSize (w : BitVec 96) : Nat := 2 ^ mfield w 36 2
def mImm (w : BitVec 96) : Word := wdInt (sext 32 (mfield w 0 32))
def mFlag (w : BitVec 96) (k : Nat) : Bool := w.getLsbD (32 + k)

/-- Scalar operations of one source. -/
def sopUnary (k : Nat) : Bool := decide ((0x10 ≤ k ∧ k ≤ 0x14) ∨ k = 0x17)

/-- Source A is read by the scalar operation, a load or a store; source B by an operation of two
sources or a store. -/
def usesSa (w : BitVec 96) : Bool := decide (mSop w ≠ 0 ∨ mMem w ≠ 0)
def usesSb (w : BitVec 96) : Bool := (decide (mSop w ≠ 0) && !sopUnary (mSop w)) || decide (mMem w = 2)
def usesSd (w : BitVec 96) : Bool := decide (mSop w ≠ 0 ∨ mMem w = 1)

def sdDefined (n : Nat) : Bool := decide (n < 15 ∨ n = 17 ∨ n = 23)

/-! ### The vector operation (R155) -/

/-- Register number of an operand field: d, a, b, c. -/
def custField (f : CustForm) (k : Nat) : BitVec 5 :=
  match k with
  | 0 => f.d
  | 1 => f.a
  | 2 => f.b
  | _ => f.c

/-- A field is bound to a vector register. -/
def opkVec (slot : Word) (k : Nat) : Bool := bit slot (57 - k)

/-- Operand fields of the vector operation: destination, first and second source. -/
def vopFields (w : BitVec 96) : Nat × Nat × Nat :=
  (mfield w 40 2, if w.getLsbD 42 then (2, 1) else (1, 2))

/-- MREG: the instruction's mask field, bits [9:7], where the mask flag is 1. -/
def vopMreg (w : BitVec 96) (f : CustForm) : BitVec 3 :=
  if mFlag w 1 then BitVec.ofNat 3 (f.c.toNat / 2) else 0

def vopClass (w : BitVec 96) : BitVec 3 := BitVec.ofNat 3 (mFn w / 16)

/-- The operation writes a mask register. -/
def vopMasks (w : BitVec 96) : Bool :=
  (decide (mUnit w = 1 ∧ 0xC ≤ mFn w % 16)) || decide (mUnit w = 2 ∧ 9 ≤ mFn w % 16)

/-- The vector operation uses no reserved code (R154). A mask destination above 7 counts as one (DESIGN
CHOICE, log entry 52). -/
def vopLegal (w : BitVec 96) (f : CustForm) : Bool :=
  let k := mFn w % 16
  (match mUnit w with
   | 0 => true
   | 1 => true
   | 2 => decide (mFn w / 16 < 3 ∧ k < 12)
   | _ => decide (k < 13)) &&
  (!vopMasks w || decide ((custField f (vopFields w).1).toNat < 8))

/-- Width of the elements it writes or compares. -/
def vopWidth (w : BitVec 96) : Nat :=
  match mUnit w with
  | 1 => vintWidth (vopClass w)
  | 2 => fmtWidth (vfloatFmt (vopClass w))
  | _ => fmtWidth (mFn w % 16)

/-- Every operand field is bound to the kind of register that the operation takes in its place. -/
def vopBound (w : BitVec 96) (slot : Word) : Bool :=
  let p := vopFields w
  let vec := opkVec slot
  let d := vopMasks w || vec p.1
  match mUnit w, mFn w / 16 with
  | 3, 0 => d && vec p.2.1 && vec p.2.2
  | 3, 1 => d && vec p.2.1 && !vec p.2.2
  | 3, 2 => d && vec p.2.1 && !vec p.2.2
  | 3, _ => d && !vec p.2.2
  | _, _ => d && vec p.2.1 && vec p.2.2

/-- The operation on bound operands; none raises VECTOR_CONFIG. -/
def vopApply (w : BitVec 96) (f : CustForm) (t : Thread) : Option (Thread × FFlags) :=
  let p := vopFields w
  let vd := custField f p.1
  let va := custField f p.2.1
  let vb := custField f p.2.2
  let mk := mFlag w 1
  let mreg := vopMreg w f
  let k := mFn w % 16
  let v : VFmtForm :=
    { vd := vd, va := va, vb := vb, msk := mk, mreg := mreg, fmt := BitVec.ofNat 4 k }
  match mUnit w with
  | 1 => vintApply k (vopWidth w) false vd va vb mk mreg t
  | 2 => vfloatApply k (vfloatFmt (vopClass w)) 0 false vd va vb mk mreg t
  | _ =>
    match mFn w / 16 with
    | 0 => vpermOp v t
    | 1 => vslideUpOp v t
    | 2 => vslideDnOp v t
    | _ => vbcastOp v t

/-- The operation where a field names a register of the other kind: the manual gives no value, and
each active element of the destination takes a free one (log entry 52). -/
def vopOpen (w : BitVec 96) (slot : Word) (f : CustForm) (free : Nat → Word) (t : Thread) :
    Option (Thread × FFlags) :=
  let p := vopFields w
  let vd := custField f p.1
  let n := vopWidth w
  let xs := (vactives t (mFlag w 1) (vopMreg w f)).map (fun i => (i, (free i).toNat % 2 ^ n))
  if vopMasks w then
    some (maskPutAll t vd.toNat (xs.map (fun e => (e.1, decide (e.2 % 2 = 1)))), 0)
  else if !opkVec slot p.1 then some (setG t vd (free 0), 0)
  else if !vconfig t n [] [vopnd t n vd n] true false then none
  else some (vputAll t vd.toNat n xs, 0)

/-- The vector operation of a micro-word. Microcode writes no VSTART (R80). -/
def vopRun (w : BitVec 96) (slot : Word) (f : CustForm) (free : Nat → Word) (t : Thread) :
    Option (Thread × FFlags) :=
  if mUnit w = 0 then some (t, 0)
  else (if vopBound w slot then vopApply w f t else vopOpen w slot f free t).map
    (fun r => ({ r.1 with vstart := t.vstart }, r.2))

/-! ### The scalar operation -/

/-- Register of a prefix field: X1, X2, X3; g0 in the short form. -/
def custX (long : Option Pfx) (k : Nat) : BitVec 5 :=
  match long, k with
  | some p, 0 => p.x1
  | some p, 1 => p.x2
  | some p, _ => p.x3
  | none, _ => 0

/-- The instruction's literal, or 0. -/
def custLit (long : Option Pfx) : Word :=
  match long with
  | some p => (litValue p.lit).getD 0
  | none => 0

/-- Value of a scalar source; a field bound to a vector register gives a free value. -/
def microSrc (t : Thread) (c : Custom) (slot : Word) (imm free : Word) (n : Nat) : Word :=
  if n < 8 then tabGet zeroWord c.u n
  else if n < 12 then (if opkVec slot (n - 8) then free else getG t (custField c.form (n - 8)))
  else if n < 15 then getG t (custX c.long (n - 12))
  else match n with
    | 15 => imm
    | 16 => custLit c.long
    | 17 => c.lc
    | 18 => t.pc
    | 19 => t.vl.zeroExtend 64
    | 20 => t.crcpoly
    | 21 => t.frm.zeroExtend 64
    | 22 => t.seed
    | _ => 0

/-- Scalar operations, 64-bit; FP operations round as FRM directs. -/
def sopApply (t : Thread) (k : Nat) (a b : Word) : Word × FFlags :=
  let fp (r : Nat × FFlags) : Word × FFlags := (wd r.1, r.2)
  match k with
  | 0x01 => (aluAdd false a b, 0)
  | 0x02 => (aluSub false a b, 0)
  | 0x03 => (aluAnd false a b, 0)
  | 0x04 => (aluOr false a b, 0)
  | 0x05 => (aluXor false a b, 0)
  | 0x06 => (aluSll false a b, 0)
  | 0x07 => (aluSrl false a b, 0)
  | 0x08 => (aluSra false a b, 0)
  | 0x09 => (aluRotl false a b, 0)
  | 0x0A => (aluMul false a b, 0)
  | 0x0B => (aluMulhu false a b, 0)
  | 0x0C => (aluMin false a b, 0)
  | 0x0D => (aluMax false a b, 0)
  | 0x0E => (aluMinu false a b, 0)
  | 0x0F => (aluMaxu false a b, 0)
  | 0x10 => (clz64 a, 0)
  | 0x11 => (ctz64 a, 0)
  | 0x12 => (popc64 a, 0)
  | 0x13 => (parity 64 a, 0)
  | 0x14 => (brev 64 a, 0)
  | 0x15 => (crcStep false 8 t.crcpoly a b, 0)
  | 0x16 => (crcStep true 8 t.crcpoly a b, 0)
  | 0x17 => (a, 0)
  | 0x18 => fp (fpAdd 11 t.frm.toNat (fpOpnd false a) (fpOpnd false b))
  | 0x19 => fp (fpMul 11 t.frm.toNat (fpOpnd false a) (fpOpnd false b))
  | 0x1A => fp (fpAdd 12 t.frm.toNat a.toNat b.toNat)
  | _ => fp (fpMul 12 t.frm.toNat a.toNat b.toNat)

/-- The condition flags after a scalar result: Z and N of the result, C the carry of add, V the signed
overflow of add and sub; what the manual does not define is free (log entry 52). -/
def microFlags (c : Custom) (k : Nat) (a b r free : Word) : Custom :=
  let wraps (x : Int) : Bool := decide (x ≠ r.toInt)
  if k = 0 then { c with z := bit free 0, n := bit free 1, c := bit free 2, v := bit free 3 } else
  { c with
    z := decide (r = 0), n := bit r 63
    c := if k = 1 then decide (2 ^ 64 ≤ a.toNat + b.toNat) else bit free 2
    v := if k = 1 then wraps (a.toInt + b.toInt)
         else if k = 2 then wraps (a.toInt - b.toInt) else bit free 3 }

/-! ### Sequencing -/

/-- COND holds. -/
def microCond (c : Custom) (k : Nat) : Bool :=
  match k with
  | 0 => true
  | 1 => c.z
  | 2 => !c.z
  | 3 => c.n
  | 4 => !c.n
  | 5 => c.c
  | 6 => !c.c
  | 7 => c.v
  | 8 => !c.v
  | 9 => decide (c.lc = 0)
  | _ => decide (c.lc ≠ 0)

/-- Where a micro-word continues: the micro-address and the instruction's state; none where the call
stack of four overflows or underflows. -/
def microNext (w : BitVec 96) (c : Custom) : Option (Nat × Custom) :=
  let next := c.upc + 1
  match mSeq w with
  | 0 => some (mNext w, c)
  | 1 => some (if microCond c (mCond w) then mNext w else next, c)
  | 2 =>
    let c := { c with lc := c.lc - 1 }
    some (if c.lc ≠ 0 then mNext w else next, c)
  | 3 => if c.stack.length < 4 then some (mNext w, { c with stack := next :: c.stack }) else none
  | _ =>
    match c.stack with
    | a :: t => some (a, { c with stack := t })
    | [] => none

/-- A micro-address lies in the routine. -/
def inRoutine (slot : Word) (a : Nat) : Bool :=
  decide (routineStart slot ≤ a ∧ a < routineStart slot + routineLen slot ∧ a < 65536)

/-- The micro-word uses no reserved code (R81). -/
def microLegal (w : BitVec 96) (f : CustForm) : Bool :=
  decide (mSeq w < 6 ∧ mSop w ≤ 0x1B ∧ mMem w < 3) && (decide (mSeq w ≠ 1) || decide (mCond w < 11)) &&
  (!usesSa w || decide (mSa w < 24)) && (!usesSb w || decide (mSb w < 24)) &&
  (!usesSd w || sdDefined (mSd w)) && vopLegal w f && !mFlag w 0

/-! ### One micro-word -/

/-- 64 free words as one vector register. -/
def freeReg (free : Nat → Word) : VReg := BitVec.ofNat 4096 (ofWords ((List.range 64).map free))

/-- Write a scalar destination. -/
def microDst (t : Thread) (c : Custom) (slot : Word) (free : Nat → Word) (n : Nat) (r : Word) :
    Thread × Custom :=
  if n < 8 then (t, { c with u := tabSet zeroWord c.u n r })
  else if n < 12 then
    let d := custField c.form (n - 8)
    (if opkVec slot (n - 8) then setV t d.toNat (freeReg free) else setG t d r, c)
  else if n < 15 then (setG t (custX c.long (n - 12)) r, c)
  else if n = 17 then (t, { c with lc := r })
  else (t, c)

/-- A custom instruction as the issue of its accesses sees it. -/
def microIss (ue : Option ReadErr) (i : Nat) (c : Custom) : Iss :=
  { thr := thrOf i, long := c.long, ue := ue, busy := 0, code := none }

/-- The memory operation of a micro-word: a loaded value, none, or what ends this presentation. It faults
as the scalar load or store would (R80); the device register space is out of its reach (R551). -/
def microMem (ue : Option ReadErr) (w : BitVec 96) (c : Custom) (va v : Word) (i : Nat) (s : State) :
    State × (Option Word ⊕ Body) :=
  let size := mSize w
  let a := threadAgent s i
  if mMem w ≠ 0 ∧ l1Closed s (i / 16) = true then (s, .inr (.stall s .l1)) else
  match mMem w with
  | 1 =>
    match gather (microIss ue i c) i a size [(va, size)] s with
    | (s, .vals vs) => (s, .inl (some (wd (vs.headD 0))))
    | (s, .miss ls) => (s, .inr (.again (waitLines s i a.cls 1 1 ls [])))
    | (s, .fault c info) => (s, .inr (.trap s c info))
  | 2 =>
    if va.toNat % size ≠ 0 then (s, .inr (.trap s 0x05 va)) else
    match xlat a .store s va with
    | (s, .trap c info) => (s, .inr (.trap s c info))
    | (s, .held need) => (s, .inr (holdAt s i need))
    | (s, .to pa) =>
      if refused s (pa / 128) then
        let e := memError s a (pa / 128) va 0x43
        (s, .inr (.trap e.1 e.2.1 e.2.2))
      else (storeLine pa size v i s, .inl none)
  | _ => (s, .inl none)

/-- The result that SD takes: of the scalar operation, of the load, or a free value where both write
it. -/
def microResult (w : BitVec 96) (r : Word) (loaded : Option Word) (free : Word) : Option Word :=
  match loaded with
  | some v => if mSop w = 0 then some v else some free
  | none => if mSop w = 0 then none else some r

/-- The custom instruction completes: flags that STATUS.FTE enables raise FP_TRAP after it. -/
def microEnd (s : State) (i : Nat) (c : Custom) : State :=
  let t := getThread s i
  let words := match c.long with
    | none => 1
    | some p => 2 + litWords p.lit
  let s := setThread s i { t with custom := none }
  let fl := c.flags &&& t.fte
  let s := if fl = 0 then s else addDeferred s i 0x20 (wd fl.toNat)
  retire s i t.ring t.ss (t.pc + wd (4 * words))

/-- Keep a micro-address in the microcode cache of 1,024 entries. -/
def cacheWord (k : Core) (a : Nat) : Core :=
  if a ∈ k.ucache then k else { k with ucache := (a :: k.ucache).take 1024 }

/-- MICROCODE, with the micro-address. -/
def microFault (s : State) (c : Custom) : Body := .trap s 0xC0 (wd c.upc)

/-- VECTOR_CONFIG of the vector operation, unless the memory operation has a fault of lower code (R92), or
has not been presented to a closed L1. -/
def vopFault (mem : State × (Option Word ⊕ Body)) (vl : Word) (s : State) : Body :=
  match mem.2 with
  | .inr (.trap u code info) => if code < 0x0D then .trap u code info else .trap s 0x0D vl
  | .inr (.stall u n) => .stall u n
  | _ => .trap s 0x0D vl

/-- Execute a legal micro-word; `free` gives the values that the manual leaves open. -/
def microExec (ue : Option ReadErr) (w : BitVec 96) (slot : Word) (c : Custom) (free : Nat → Word) (i : Nat)
    (s : State) : Body :=
  let t := getThread s i
  let a := microSrc t c slot (mImm w) (free 0) (mSa w)
  let b := microSrc t c slot (mImm w) (free 1) (mSb w)
  let r := if mSop w = 0 then (0, 0) else sopApply t (mSop w) a b
  let mem := microMem ue w c (a + mImm w) b i s
  match vopRun w slot c.form (fun k => free (128 + k)) t with
  | none => vopFault mem (wd t.vl.toNat) s
  | some (_, vfl) =>
    match mem with
    | (_, .inr body) => body
    | (s', .inl loaded) =>
      let t' := match vopRun w slot c.form (fun k => free (128 + k)) (getThread s' i) with
        | some x => x.1
        | none => getThread s' i
      let p := match microResult w r.1 loaded (free 2) with
        | some v => microDst t' c slot (fun k => free (64 + k)) (mSd w) v
        | none => (t', c)
      let fl := if mFlag w 2 then r.2 ||| vfl else 0
      let c := if mFlag w 3 then microFlags p.2 (mSop w) a b r.1 (free 3) else p.2
      let c := { c with flags := c.flags ||| fl, count := c.count + 1 }
      let put (c : Option Custom) : State := setThread s' i { p.1 with
        fflags := p.1.fflags ||| fl, got := [], asked := [], badGot := [], gathered := [], custom := c }
      if mSeq w = 5 then .again (microEnd (put none) i c)
      else match microNext w c with
        | none => microFault s c
        | some (n, c) =>
          if !inRoutine slot n || decide (2 ^ 20 ≤ c.count) then microFault s c
          else .again (put (some { c with upc := n }))

/-- Free values of one micro-word. -/
def microFree (s : State) : (Nat → Word) × State :=
  (fun k => Config.freeWord (s.fresh + k), { s with fresh := s.fresh + 8192 })

/-- One micro-word of a custom instruction. -/
def microBody (c : Custom) (m : MicroTurn) (i : Nat) (s : State) : Body :=
  let q := i / 16 / 34
  let key := 65536 * q + c.upc
  let s := if m.bad && decide (key ∉ s.ucodeBad) then { s with ucodeBad := s.ucodeBad ++ [key] } else s
  if key ∈ s.ucodeBad then
    .trap (ueIn s (unitOf q (i / 16 % 34)) (wd c.upc) inSram) 0x42 (wd c.upc) else
  let w := tabGet (fun _ => 0) s.ucode key
  let s := setCore s (i / 16) (cacheWord (getCore s (i / 16)) c.upc)
  if !microLegal w c.form then microFault s c else
  let f := microFree s
  microExec m.ue w (decSlot s q c.form.slot) c f.1 i f.2

/-- A micro-word whose operations meet an uncorrectable error of a structure by its index: a fault of lower
code comes first (R92), and one that waits has not read yet. -/
def microMeet (ue : Option ReadErr) (i : Nat) (s : State) (b : Body) : Body :=
  match ue, b with
  | some (.index n), .trap u c info => if c < 0x41 then .trap u c info else sramTrap s i n
  | some (.index n), .again u =>
    match (getThread u i).hold with
    | .line _ => .again u
    | .ctx => .again u
    | _ => sramTrap s i n
  | _, b => b

/-- MICRO_WORD (R83): the thread must be next in turn (R32), where latencies make the threads of `m.busy` not
ready. A presentation that waits for a line or a held write takes no issue slot; one that a unit refuses leaves
the thread not ready (R33). -/
def execMicroWord (t : Thr) (m : MicroTurn) (s : State) : Host.Outcome State Fault Refusal :=
  let i := thrIx t
  .next (match (getThread s i).custom with
    | none => s
    | some c =>
      if !canMicro s i || !inTurn s m.busy i then s else
      let s := meetTag m.ue i (clearHold s i)
      match microMeet m.ue i s (microBody c m i s) with
      | .trap s code info => takeFault (decide (m.ue = some .save)) (countIssue s i) i code info
      | .again s => if (getThread s i).hold = .none then countIssue s i else s
      | .done s => s
      | .goto s _ => s
      | .stall s n => modThread s i (fun t => { t with hold := .unit n }))

end Sys2Proof.Machine
end

