-- ==== Sys2Proof/Machine/Dispatch.lean ====
section
/-! DEFINITION. One arm per constructor of Instr. -/

namespace Sys2Proof.Machine

open Sys2Proof

def exec (i : Instr) (s : State) : Host.Outcome State Fault Refusal :=
  match i with
  | .registerWrite src off size val => Sys2Proof.Machine.execRegisterWrite src off size val s
  | .add x f => Sys2Proof.Machine.execAdd x f s
  | .sub x f => Sys2Proof.Machine.execSub x f s
  | .and x f => Sys2Proof.Machine.execAnd x f s
  | .or x f => Sys2Proof.Machine.execOr x f s
  | .xor x f => Sys2Proof.Machine.execXor x f s
  | .sll x f => Sys2Proof.Machine.execSll x f s
  | .srl x f => Sys2Proof.Machine.execSrl x f s
  | .sra x f => Sys2Proof.Machine.execSra x f s
  | .rotl x f => Sys2Proof.Machine.execRotl x f s
  | .slt x f => Sys2Proof.Machine.execSlt x f s
  | .sltu x f => Sys2Proof.Machine.execSltu x f s
  | .min x f => Sys2Proof.Machine.execMin x f s
  | .max x f => Sys2Proof.Machine.execMax x f s
  | .minu x f => Sys2Proof.Machine.execMinu x f s
  | .maxu x f => Sys2Proof.Machine.execMaxu x f s
  | .li x f => Sys2Proof.Machine.execLi x f s
  | .lui x f => Sys2Proof.Machine.execLui x f s
  | .mul x f => Sys2Proof.Machine.execMul x f s
  | .mulh x f => Sys2Proof.Machine.execMulh x f s
  | .mulhu x f => Sys2Proof.Machine.execMulhu x f s
  | .div x f => Sys2Proof.Machine.execDiv x f s
  | .divu x f => Sys2Proof.Machine.execDivu x f s
  | .rem x f => Sys2Proof.Machine.execRem x f s
  | .remu x f => Sys2Proof.Machine.execRemu x f s
  | .clz x f => Sys2Proof.Machine.execClz x f s
  | .ctz x f => Sys2Proof.Machine.execCtz x f s
  | .popc x f => Sys2Proof.Machine.execPopc x f s
  | .par x f => Sys2Proof.Machine.execPar x f s
  | .brev x f => Sys2Proof.Machine.execBrev x f s
  | .crcS x f => Sys2Proof.Machine.execCrcS x f s
  | .ld x f => Sys2Proof.Machine.execLd x f s
  | .st x f => Sys2Proof.Machine.execSt x f s
  | .amoAdd x f => Sys2Proof.Machine.execAmoAdd x f s
  | .amoSwap x f => Sys2Proof.Machine.execAmoSwap x f s
  | .amoCas x f => Sys2Proof.Machine.execAmoCas x f s
  | .amoMin x f => Sys2Proof.Machine.execAmoMin x f s
  | .amoMax x f => Sys2Proof.Machine.execAmoMax x f s
  | .amoMinu x f => Sys2Proof.Machine.execAmoMinu x f s
  | .amoMaxu x f => Sys2Proof.Machine.execAmoMaxu x f s
  | .beq x f => Sys2Proof.Machine.execBeq x f s
  | .bne x f => Sys2Proof.Machine.execBne x f s
  | .blt x f => Sys2Proof.Machine.execBlt x f s
  | .bge x f => Sys2Proof.Machine.execBge x f s
  | .bltu x f => Sys2Proof.Machine.execBltu x f s
  | .bgeu x f => Sys2Proof.Machine.execBgeu x f s
  | .j x f => Sys2Proof.Machine.execJ x f s
  | .call x f => Sys2Proof.Machine.execCall x f s
  | .jr x f => Sys2Proof.Machine.execJr x f s
  | .callr x f => Sys2Proof.Machine.execCallr x f s
  | .ret x f => Sys2Proof.Machine.execRet x f s
  | .fpAdd x f => Sys2Proof.Machine.execFpAdd x f s
  | .fpSub x f => Sys2Proof.Machine.execFpSub x f s
  | .fpMul x f => Sys2Proof.Machine.execFpMul x f s
  | .fpDiv x f => Sys2Proof.Machine.execFpDiv x f s
  | .fpSqrt x f => Sys2Proof.Machine.execFpSqrt x f s
  | .fpMin x f => Sys2Proof.Machine.execFpMin x f s
  | .fpMax x f => Sys2Proof.Machine.execFpMax x f s
  | .fpCmpEq x f => Sys2Proof.Machine.execFpCmpEq x f s
  | .fpCmpLt x f => Sys2Proof.Machine.execFpCmpLt x f s
  | .fpCmpLe x f => Sys2Proof.Machine.execFpCmpLe x f s
  | .fpSgnj x f => Sys2Proof.Machine.execFpSgnj x f s
  | .fpSgnjn x f => Sys2Proof.Machine.execFpSgnjn x f s
  | .fpSgnjx x f => Sys2Proof.Machine.execFpSgnjx x f s
  | .fma x f => Sys2Proof.Machine.execFma x f s
  | .fms x f => Sys2Proof.Machine.execFms x f s
  | .fnma x f => Sys2Proof.Machine.execFnma x f s
  | .fnms x f => Sys2Proof.Machine.execFnms x f s
  | .cvt x f => Sys2Proof.Machine.execCvt x f s
  | .fclass x f => Sys2Proof.Machine.execFclass x f s
  | .cRd x f => Sys2Proof.Machine.execCRd x f s
  | .cWr x f => Sys2Proof.Machine.execCWr x f s
  | .vlWrite x f => Sys2Proof.Machine.execVlWrite x f s
  | .frmWrite x f => Sys2Proof.Machine.execFrmWrite x f s
  | .fflagsWrite x f => Sys2Proof.Machine.execFflagsWrite x f s
  | .pfctlWrite x f => Sys2Proof.Machine.execPfctlWrite x f s
  | .tcfgWrite x f => Sys2Proof.Machine.execTcfgWrite x f s
  | .tcfgApply t => Sys2Proof.Machine.execTcfgApply t s
  | .cGate x f => Sys2Proof.Machine.execCGate x f s
  | .cRet x f => Sys2Proof.Machine.execCRet x f s
  | .cIsync x f => Sys2Proof.Machine.execCIsync x f s
  | .cBrk x f => Sys2Proof.Machine.execCBrk x f s
  | .cNop x f => Sys2Proof.Machine.execCNop x f s
  | .cPf x f => Sys2Proof.Machine.execCPf x f s
  | .cust x f => Sys2Proof.Machine.execCust x f s
  | .microWord t m => Sys2Proof.Machine.execMicroWord t m s
  | .exceptionTake x => Sys2Proof.Machine.execExceptionTake x s
  | .resume src t => Sys2Proof.Machine.execResume src t s
  | .threadStart src t => Sys2Proof.Machine.execThreadStart src t s
  | .threadStop src t => Sys2Proof.Machine.execThreadStop src t s
  | .threadOff t => Sys2Proof.Machine.execThreadOff t s
  | .timerExpire c => Sys2Proof.Machine.execTimerExpire c s
  | .coreTimerWrite src c val atZero => Sys2Proof.Machine.execCoreTimerWrite src c val atZero s
  | .vAdd x f => Sys2Proof.Machine.execVAdd x f s
  | .vSub x f => Sys2Proof.Machine.execVSub x f s
  | .vAnd x f => Sys2Proof.Machine.execVAnd x f s
  | .vOr x f => Sys2Proof.Machine.execVOr x f s
  | .vXor x f => Sys2Proof.Machine.execVXor x f s
  | .vSll x f => Sys2Proof.Machine.execVSll x f s
  | .vSrl x f => Sys2Proof.Machine.execVSrl x f s
  | .vSra x f => Sys2Proof.Machine.execVSra x f s
  | .vMin x f => Sys2Proof.Machine.execVMin x f s
  | .vMax x f => Sys2Proof.Machine.execVMax x f s
  | .vMinu x f => Sys2Proof.Machine.execVMinu x f s
  | .vMaxu x f => Sys2Proof.Machine.execVMaxu x f s
  | .vCmpEq x f => Sys2Proof.Machine.execVCmpEq x f s
  | .vCmpNe x f => Sys2Proof.Machine.execVCmpNe x f s
  | .vCmpLt x f => Sys2Proof.Machine.execVCmpLt x f s
  | .vCmpLtu x f => Sys2Proof.Machine.execVCmpLtu x f s
  | .vCrcS x f => Sys2Proof.Machine.execVCrcS x f s
  | .vPar x f => Sys2Proof.Machine.execVPar x f s
  | .vBrev x f => Sys2Proof.Machine.execVBrev x f s
  | .mAnd x f => Sys2Proof.Machine.execMAnd x f s
  | .mOr x f => Sys2Proof.Machine.execMOr x f s
  | .mNot x f => Sys2Proof.Machine.execMNot x f s
  | .mPop x f => Sys2Proof.Machine.execMPop x f s
  | .mFirst x f => Sys2Proof.Machine.execMFirst x f s
  | .vFma x f => Sys2Proof.Machine.execVFma x f s
  | .vFms x f => Sys2Proof.Machine.execVFms x f s
  | .vFnma x f => Sys2Proof.Machine.execVFnma x f s
  | .vFnms x f => Sys2Proof.Machine.execVFnms x f s
  | .vMul x f => Sys2Proof.Machine.execVMul x f s
  | .vAddF x f => Sys2Proof.Machine.execVAddF x f s
  | .vSubF x f => Sys2Proof.Machine.execVSubF x f s
  | .vMaxF x f => Sys2Proof.Machine.execVMaxF x f s
  | .vMinF x f => Sys2Proof.Machine.execVMinF x f s
  | .vCmpEqF x f => Sys2Proof.Machine.execVCmpEqF x f s
  | .vCmpLtF x f => Sys2Proof.Machine.execVCmpLtF x f s
  | .vCmpLeF x f => Sys2Proof.Machine.execVCmpLeF x f s
  | .vCvt x f => Sys2Proof.Machine.execVCvt x f s
  | .vWmul x f => Sys2Proof.Machine.execVWmul x f s
  | .vDot4 x f => Sys2Proof.Machine.execVDot4 x f s
  | .vDot2 x f => Sys2Proof.Machine.execVDot2 x f s
  | .vRng x f => Sys2Proof.Machine.execVRng x f s
  | .vExpStep x f => Sys2Proof.Machine.execVExpStep x f s
  | .vRcpStep x f => Sys2Proof.Machine.execVRcpStep x f s
  | .vPerm x f => Sys2Proof.Machine.execVPerm x f s
  | .vSlideUp x f => Sys2Proof.Machine.execVSlideUp x f s
  | .vSlideDn x f => Sys2Proof.Machine.execVSlideDn x f s
  | .vBcast x f => Sys2Proof.Machine.execVBcast x f s
  | .vRed x f => Sys2Proof.Machine.execVRed x f s
  | .vSortKey x f => Sys2Proof.Machine.execVSortKey x f s
  | .vSortIdx x f => Sys2Proof.Machine.execVSortIdx x f s
  | .vMerge x f => Sys2Proof.Machine.execVMerge x f s
  | .vIsect x f => Sys2Proof.Machine.execVIsect x f s
  | .vUniq x f => Sys2Proof.Machine.execVUniq x f s
  | .vTopk x f => Sys2Proof.Machine.execVTopk x f s
  | .vLd x f => Sys2Proof.Machine.execVLd x f s
  | .vSt x f => Sys2Proof.Machine.execVSt x f s
  | .vLds x f => Sys2Proof.Machine.execVLds x f s
  | .vSts x f => Sys2Proof.Machine.execVSts x f s
  | .vLdx x f => Sys2Proof.Machine.execVLdx x f s
  | .vStx x f => Sys2Proof.Machine.execVStx x f s
  | .vLdd x f => Sys2Proof.Machine.execVLdd x f s
  | .vStd x f => Sys2Proof.Machine.execVStd x f s
  | .tClaim x f => Sys2Proof.Machine.execTClaim x f s
  | .tFree x f => Sys2Proof.Machine.execTFree x f s
  | .tZero x f => Sys2Proof.Machine.execTZero x f s
  | .tileZeroDone c tile => Sys2Proof.Machine.execTileZeroDone c tile s
  | .tLd x f => Sys2Proof.Machine.execTLd x f s
  | .tSt x f => Sys2Proof.Machine.execTSt x f s
  | .tLdt x f => Sys2Proof.Machine.execTLdt x f s
  | .tLdDesc x f => Sys2Proof.Machine.execTLdDesc x f s
  | .tStDesc x f => Sys2Proof.Machine.execTStDesc x f s
  | .tLdtDesc x f => Sys2Proof.Machine.execTLdtDesc x f s
  | .aClaim x f => Sys2Proof.Machine.execAClaim x f s
  | .arrayForcedSave src t => Sys2Proof.Machine.execArrayForcedSave src t s
  | .aFree x f => Sys2Proof.Machine.execAFree x f s
  | .arrayZeroDone c => Sys2Proof.Machine.execArrayZeroDone c s
  | .aLdw x f => Sys2Proof.Machine.execALdw x f s
  | .aLdwDone c ue => Sys2Proof.Machine.execALdwDone c ue s
  | .aSwap x f => Sys2Proof.Machine.execASwap x f s
  | .aPass x f => Sys2Proof.Machine.execAPass x f s
  | .passRowEnter c => Sys2Proof.Machine.execPassRowEnter c s
  | .passRowOutput c upset => Sys2Proof.Machine.execPassRowOutput c upset s
  | .passStop c ue => Sys2Proof.Machine.execPassStop c ue s
  | .aDrain x f => Sys2Proof.Machine.execADrain x f s
  | .streamPortFetch c => Sys2Proof.Machine.execStreamPortFetch c s
  | .combiningUpdate b => Sys2Proof.Machine.execCombiningUpdate b s
  | .combiningSend b => Sys2Proof.Machine.execCombiningSend b s
  | .accumulateApply b => Sys2Proof.Machine.execAccumulateApply b s
  | .arbGrant a => Sys2Proof.Machine.execArbGrant a s
  | .trump a req => Sys2Proof.Machine.execTrump a req s
  | .l2Access b err => Sys2Proof.Machine.execL2Access b err s
  | .l2Fill b bad => Sys2Proof.Machine.execL2Fill b bad s
  | .l1Invalidate c => Sys2Proof.Machine.execL1Invalidate c s
  | .invalidateAck c line => Sys2Proof.Machine.execInvalidateAck c line s
  | .l1Fill c => Sys2Proof.Machine.execL1Fill c s
  | .wayPowerDown src q way => Sys2Proof.Machine.execWayPowerDown src q way s
  | .wayCleanDone q => Sys2Proof.Machine.execWayCleanDone q s
  | .wayPowerUp src q way => Sys2Proof.Machine.execWayPowerUp src q way s
  | .wayPowerUpDone q => Sys2Proof.Machine.execWayPowerUpDone q s
  | .l2LostClr src q => Sys2Proof.Machine.execL2LostClr src q s
  | .mmuInval src val => Sys2Proof.Machine.execMmuInval src val s
  | .mmuInvalDone => Sys2Proof.Machine.execMmuInvalDone s
  | .windowAlloc => Sys2Proof.Machine.execWindowAlloc s
  | .copyOnFirstWrite => Sys2Proof.Machine.execCopyOnFirstWrite s
  | .snapshotCopy => Sys2Proof.Machine.execSnapshotCopy s
  | .release src => Sys2Proof.Machine.execRelease src s
  | .restore src => Sys2Proof.Machine.execRestore src s
  | .snapDone => Sys2Proof.Machine.execSnapDone s
  | .tierDemote => Sys2Proof.Machine.execTierDemote s
  | .tierFetch => Sys2Proof.Machine.execTierFetch s
  | .tierMoveDone => Sys2Proof.Machine.execTierMoveDone s
  | .ctxMbWrite src val => Sys2Proof.Machine.execCtxMbWrite src val s
  | .ctxStashFree src val => Sys2Proof.Machine.execCtxStashFree src val s
  | .startG src version => Sys2Proof.Machine.execStartG src version s
  | .endG src => Sys2Proof.Machine.execEndG src s
  | .stop src => Sys2Proof.Machine.execStop src s
  | .reset src version => Sys2Proof.Machine.execReset src version s
  | .lastHandDrained => Sys2Proof.Machine.execLastHandDrained s
  | .formHand => Sys2Proof.Machine.execFormHand s
  | .handDone => Sys2Proof.Machine.execHandDone s
  | .dealRetire src id => Sys2Proof.Machine.execDealRetire src id s
  | .poolHeadAdvance src val => Sys2Proof.Machine.execPoolHeadAdvance src val s
  | .sSig x f => Sys2Proof.Machine.execSSig x f s
  | .sWait x f => Sys2Proof.Machine.execSWait x f s
  | .sTake x f => Sys2Proof.Machine.execSTake x f s
  | .sSet x f => Sys2Proof.Machine.execSSet x f s
  | .sDump x f => Sys2Proof.Machine.execSDump x f s
  | .syncHomeOp q => Sys2Proof.Machine.execSyncHomeOp q s
  | .waitRelease queue => Sys2Proof.Machine.execWaitRelease queue s
  | .fLd x f => Sys2Proof.Machine.execFLd x f s
  | .fSt x f => Sys2Proof.Machine.execFSt x f s
  | .fAll x f => Sys2Proof.Machine.execFAll x f s
  | .fDev x f => Sys2Proof.Machine.execFDev x f s
  | .fSys x f => Sys2Proof.Machine.execFSys x f s
  | .dPost x f => Sys2Proof.Machine.execDPost x f s
  | .dQuery x f => Sys2Proof.Machine.execDQuery x f s
  | .fenceComplete t => Sys2Proof.Machine.execFenceComplete t s
  | .syncHostOpSig src q index val => Sys2Proof.Machine.execSyncHostOpSig src q index val s
  | .syncHostOpSet src q index val => Sys2Proof.Machine.execSyncHostOpSet src q index val s
  | .deadlockDeclare => Sys2Proof.Machine.execDeadlockDeclare s
  | .groupReceive port g => Sys2Proof.Machine.execGroupReceive port g s
  | .nak port ack => Sys2Proof.Machine.execNak port ack s
  | .idleLinkFlit port => Sys2Proof.Machine.execIdleLinkFlit port s
  | .retrain src port => Sys2Proof.Machine.execRetrain src port s
  | .disable src port => Sys2Proof.Machine.execDisable src port s
  | .detect port signal => Sys2Proof.Machine.execDetect port signal s
  | .negotiate port peerGens peerId => Sys2Proof.Machine.execNegotiate port peerGens peerId s
  | .train port good => Sys2Proof.Machine.execTrain port good s
  | .align port good => Sys2Proof.Machine.execAlign port good s
  | .init port => Sys2Proof.Machine.execInit port s
  | .attemptTimeout port => Sys2Proof.Machine.execAttemptTimeout port s
  | .portLeavesUp port reason => Sys2Proof.Machine.execPortLeavesUp port reason s
  | .put port vc => Sys2Proof.Machine.execPut port vc s
  | .putAcc port vc => Sys2Proof.Machine.execPutAcc port vc s
  | .getReq port vc => Sys2Proof.Machine.execGetReq port vc s
  | .getResp port vc => Sys2Proof.Machine.execGetResp port vc s
  | .writeAck port vc => Sys2Proof.Machine.execWriteAck port vc s
  | .sig port vc => Sys2Proof.Machine.execSig port vc s
  | .sigAck port vc => Sys2Proof.Machine.execSigAck port vc s
  | .red port vc => Sys2Proof.Machine.execRed port vc s
  | .redAbort port vc => Sys2Proof.Machine.execRedAbort port vc s
  | .descStart n => Sys2Proof.Machine.execDescStart n s
  | .contrib n => Sys2Proof.Machine.execContrib n s
  | .wait n => Sys2Proof.Machine.execWait n s
  | .take n => Sys2Proof.Machine.execTake n s
  | .descComplete n => Sys2Proof.Machine.execDescComplete n s
  | .skip src n => Sys2Proof.Machine.execSkip src n s
  | .flush src n => Sys2Proof.Machine.execFlush src n s
  | .queueDisable src n => Sys2Proof.Machine.execQueueDisable src n s
  | .potContribution q bad => Sys2Proof.Machine.execPotContribution q bad s
  | .potSlotComplete rid => Sys2Proof.Machine.execPotSlotComplete rid s
  | .clear src q => Sys2Proof.Machine.execClear src q s
  | .commitCtlStart src version => Sys2Proof.Machine.execCommitCtlStart src version s
  | .anchor src version => Sys2Proof.Machine.execAnchor src version s
  | .commitCtlAbort src => Sys2Proof.Machine.execCommitCtlAbort src s
  | .commitCtlStop src => Sys2Proof.Machine.execCommitCtlStop src s
  | .updCount => Sys2Proof.Machine.execUpdCount s
  | .gateOpen version => Sys2Proof.Machine.execGateOpen version s
  | .hello port vc => Sys2Proof.Machine.execHello port vc s
  | .helloRepeat => Sys2Proof.Machine.execHelloRepeat s
  | .ready port vc => Sys2Proof.Machine.execReady port vc s
  | .commit port vc => Sys2Proof.Machine.execCommit port vc s
  | .copied port vc => Sys2Proof.Machine.execCopied port vc s
  | .secured port vc => Sys2Proof.Machine.execSecured port vc s
  | .abort port vc => Sys2Proof.Machine.execAbort port vc s
  | .feedQuery port vc => Sys2Proof.Machine.execFeedQuery port vc s
  | .feedReply port vc => Sys2Proof.Machine.execFeedReply port vc s
  | .feedTimeout => Sys2Proof.Machine.execFeedTimeout s
  | .securingCopyDone => Sys2Proof.Machine.execSecuringCopyDone s
  | .commitTimeout => Sys2Proof.Machine.execCommitTimeout s
  | .safetyEvent outside => Sys2Proof.Machine.execSafetyEvent outside s
  | .lockstepMismatch => Sys2Proof.Machine.execLockstepMismatch s
  | .targetedTest q => Sys2Proof.Machine.execTargetedTest q s
  | .targetedTestDone q pass => Sys2Proof.Machine.execTargetedTestDone q pass s
  | .selfTestSlot => Sys2Proof.Machine.execSelfTestSlot s
  | .sliceStart q => Sys2Proof.Machine.execSliceStart q s
  | .sliceEnd q signature ue => Sys2Proof.Machine.execSliceEnd q signature ue s
  | .stLapse q => Sys2Proof.Machine.execStLapse q s
  | .safeRecover src q => Sys2Proof.Machine.execSafeRecover src q s
  | .recoveryDone => Sys2Proof.Machine.execRecoveryDone s
  | .analogueCheck part index measured fails => Sys2Proof.Machine.execAnalogueCheck part index measured fails s
  | .analogueOverdue part index => Sys2Proof.Machine.execAnalogueOverdue part index s
  | .dramScrub line corrected bad => Sys2Proof.Machine.execDramScrub line corrected bad s
  | .l2Scrub line corrected bad => Sys2Proof.Machine.execL2Scrub line corrected bad s
  | .monitorSample island slack => Sys2Proof.Machine.execMonitorSample island slack s
  | .rePlan island slack => Sys2Proof.Machine.execRePlan island slack s
  | .voltageStep island => Sys2Proof.Machine.execVoltageStep island s
  | .powerOnReset => Sys2Proof.Machine.execPowerOnReset s
  | .moduleReset => Sys2Proof.Machine.execModuleReset s
  | .safetyReset => Sys2Proof.Machine.execSafetyReset s
  | .softwareReset src val => Sys2Proof.Machine.execSoftwareReset src val s
  | .pcieReset => Sys2Proof.Machine.execPcieReset s
  | .bootRom => Sys2Proof.Machine.execBootRom s
  | .bootRead errA errB => Sys2Proof.Machine.execBootRead errA errB s
  | .bootVerify => Sys2Proof.Machine.execBootVerify s
  | .bootApply => Sys2Proof.Machine.execBootApply s
  | .bootZero failed => Sys2Proof.Machine.execBootZero failed s
  | .bootHbm stk => Sys2Proof.Machine.execBootHbm stk s
  | .bootDdr channels => Sys2Proof.Machine.execBootDdr channels s
  | .bootLinks => Sys2Proof.Machine.execBootLinks s
  | .bootStart => Sys2Proof.Machine.execBootStart s
  | .cfgTxnBegin src val => Sys2Proof.Machine.execCfgTxnBegin src val s
  | .txnStage src off val => Sys2Proof.Machine.execTxnStage src off val s
  | .cfgTxnCommit src id => Sys2Proof.Machine.execCfgTxnCommit src id s
  | .txnApply id => Sys2Proof.Machine.execTxnApply id s
  | .cfgTxnRollback src id => Sys2Proof.Machine.execCfgTxnRollback src id s
  | .txnTimeout id => Sys2Proof.Machine.execTxnTimeout id s
  | .lcToken src => Sys2Proof.Machine.execLcToken src s
  | .attest src => Sys2Proof.Machine.execAttest src s
  | .flashRead src => Sys2Proof.Machine.execFlashRead src s
  | .flashProgram src => Sys2Proof.Machine.execFlashProgram src s
  | .flashErase src => Sys2Proof.Machine.execFlashErase src s
  | .scanEnable src => Sys2Proof.Machine.execScanEnable src s
  | .secCommandDone flashError => Sys2Proof.Machine.execSecCommandDone flashError s
  | .getVersion req => Sys2Proof.Machine.execGetVersion req s
  | .getCapabilities req => Sys2Proof.Machine.execGetCapabilities req s
  | .negotiateAlgorithms req => Sys2Proof.Machine.execNegotiateAlgorithms req s
  | .getDigests req => Sys2Proof.Machine.execGetDigests req s
  | .getCertificate req => Sys2Proof.Machine.execGetCertificate req s
  | .challenge req => Sys2Proof.Machine.execChallenge req s
  | .getMeasurements req => Sys2Proof.Machine.execGetMeasurements req s
  | .spdmUnsupported req => Sys2Proof.Machine.execSpdmUnsupported req s
  | .bar2Read off len => Sys2Proof.Machine.execBar2Read off len s
  | .bar2Write off data => Sys2Proof.Machine.execBar2Write off data s
  | .msixUnmask vec => Sys2Proof.Machine.execMsixUnmask vec s
  | .hostRaise t vec => Sys2Proof.Machine.execHostRaise t vec s
  | .mbxH2d k val => Sys2Proof.Machine.execMbxH2d k val s
  | .mbxD2h t k val => Sys2Proof.Machine.execMbxD2h t k val s
  | .powerStagesStart => Sys2Proof.Machine.execPowerStagesStart s
  | .pwrEnFall => Sys2Proof.Machine.execPwrEnFall s
  | .powerSample watts mean1ms mean1s vin => Sys2Proof.Machine.execPowerSample watts mean1ms mean1s vin s
  | .dutyPeriod temps coolant => Sys2Proof.Machine.execDutyPeriod temps coolant s
  | .inputSag vin => Sys2Proof.Machine.execInputSag vin s
  | .sagEnd => Sys2Proof.Machine.execSagEnd s
  | .supplyReset vin => Sys2Proof.Machine.execSupplyReset vin s
  | .supplyRecover => Sys2Proof.Machine.execSupplyRecover s
  | .thermalTrip sensor temp => Sys2Proof.Machine.execThermalTrip sensor temp s
  | .thermalBootRelease => Sys2Proof.Machine.execThermalBootRelease s
  | .bar0Read src off size => Sys2Proof.Machine.execBar0Read src off size s
  | .tapInstruction op => Sys2Proof.Machine.execTapInstruction op s
  | .inletHigh coolant => Sys2Proof.Machine.execInletHigh coolant s
  | .dutyWindow => Sys2Proof.Machine.execDutyWindow s
  | .clockChangeEnd island => Sys2Proof.Machine.execClockChangeEnd island s
  | .channelRetrainDone ch => Sys2Proof.Machine.execChannelRetrainDone ch s

end Sys2Proof.Machine
end

