-- ==== Sys2Proof/Machine/Time.lean ====
section
/-! DEFINITION. The passing of time: one period, 40 ns, of the 25 MHz board reference, to which every
island is locked (R5). Counters, timers and ages advance by the cycles of their islands in a period.
What becomes due at an age is a command of its own (log entry 1). -/

namespace Sys2Proof.Machine

open Sys2Proof

/-! ### Cores -/

/-- Array cycles of a core in a period: CORE_FREQ.MULT, none while its clock is stopped. -/
def coreCycles (s : State) (ci : Nat) : Nat :=
  if islandRuns s (coreIsland s ci) then rfield s (coreReg ci 0x38) 0 8 else 0

/-- Some thread of a core is ready (R33). -/
def coreReady (s : State) (ci : Nat) : Bool :=
  (List.range (threadCount ci)).any (fun k => threadReady s (16 * ci + k))

/-- A pass runs and is not paused (CORE_ARRAY_BUSY, R243). -/
def passCounts (s : State) (ci : Nat) : Bool :=
  match (getArr s ci).pass with
  | some p => decide (p.state = .running) && arrayRuns s ci
  | none => false

/-- The enabled timer is owed the cycles of the period, and counts them down; its step from 1 to 0 is
TIMER_EXPIRE, after which it takes the rest (R44). -/
def timerTick (s : State) (ci n : Nat) : State :=
  if bit (rget s (coreReg ci 0x20)) 31 then
    let k := getCore s ci
    timerRun (setCore s ci { k with timerOwed := k.timerOwed + n }) ci
  else s

def coreTick (s : State) (ci : Nat) : State :=
  let n := coreCycles s ci
  let idle := !coreReady s ci
  let s := radd s (coreReg ci 0x18) n
  let s := if idle then radd s (coreReg ci 0x48) n else s
  let s := if passCounts s ci then radd s (coreReg ci 0x68) n else s
  timerTick s ci n

/-- Cycles that threads have stalled in WAIT, in array cycles of their cores (R391). -/
def threadsTick (s : State) : State :=
  { s with threads := s.threads.map (fun e =>
      if e.2.mode = .wait
      then (e.1, { e.2 with stalled := e.2.stalled + coreCycles s (e.1 / 16) }) else e) }

/-! ### Arbiters, windows, engines and pots -/

/-- Link cycles in the next period, 62.5 on average (1,562.5 MHz). -/
def linkCycles (s : State) : Nat := 62 + s.ticks % 2

/-- Memory cycles of a channel in a period: 48 of HBM4; of DDR5 half the clock of the channel's RATE, 64
at 6,400 MT/s and 56 at 5,600 MT/s (R5). -/
def memCycles (s : State) (ch : Nat) : Nat :=
  if ch < 256 then 48 else rfield s (mcOff ((ch - 256) / 4) (8 * ((ch - 256) % 4))) 32 16 / 100

/-- The L2 cycles of the way transitions in progress (R312). -/
def wayTick (s : State) : State :=
  let older (t : Tab Nat) (q : Nat) : Tab Nat :=
    if bit (rget s (l2Off q 0x100)) 56 then tabSet (fun _ => 0) t q (tabGet (fun _ => 0) t q + 32) else t
  { s with wayAge := (List.range 4).foldl older s.wayAge }

/-- Waits and ages: 32 L2 cycles at 800 MHz; the memory cycles; the cycles of the pots; the link
cycles. -/
def waitsTick (s : State) : State :=
  let old (u : AccUpd) : AccUpd := { u with age := u.age + 32 }
  let pot (q : Nat) : Nat := islandMHz s (64 * q + 36) / 25
  let link := linkCycles s
  { s with
    banks := s.banks.map (fun e => (e.1, arbAge 32 e.2))
    channels := s.channels.map (fun e => (e.1, arbAge (memCycles s e.1) e.2))
    pots := s.pots.map (fun e => (e.1, arbAge (pot e.1) e.2))
    ports := s.ports.map (fun e => (e.1, { e.2 with egress := arbAge link e.2.egress }))
    windows := s.windows.map (fun e => (e.1, { e.2 with entries := e.2.entries.map old }))
    queues := s.queues.map (fun e =>
      if e.2.waiting then (e.1, { e.2 with stalled := e.2.stalled + 32 }) else e)
    potQuiet := (s.potQuiet.map (fun e => (e.1, e.2 - pot e.1))).filter (fun e => decide (e.2 ≠ 0)) }

/-! ### Configuration cycles, four to a period -/

/-- A port's attempt and its time in UP. -/
def portTick (s : State) (p : Nat) : State :=
  let v := getPort s p
  if portUp s p then setPort s p { v with upTime := v.upTime + 4 }
  else if 1 ≤ portState s p ∧ portState s p ≤ 5 then setPort s p { v with attempt := v.attempt + 4 }
  else s

def gateTick (g : GateRec) : GateRec :=
  { g with age := g.age + 4, since := if g.opened then g.since + 4 else g.since }

def txnTick (t : Txn) : Txn := if t.committed then t else { t with age := t.age + 4 }

/-- Self-test times; a pass older than 255 ms covers no more. -/
def selfTestTick (u : SelfTest) : SelfTest :=
  { u with
    elapsed := u.elapsed + 4
    due := u.due.map (fun e => (e.1, e.2.map (fun d => (d.1, d.2.1 + 4, d.2.2))))
    passed := (u.passed.map (fun e => (e.1, e.2 + 4))).filter (fun e => decide (e.2 ≤ 25500000)) }

/-- Hours of operation: 90,000,000,000 periods each (R489). -/
def hoursTick (k : Kept) : Kept :=
  if 90000000000 ≤ k.subHour + 1 then { k with subHour := 0, hours := k.hours + 1 }
  else { k with subHour := k.subHour + 1 }

def unitsTick (s : State) : State :=
  { s with
    commit := { s.commit with
      gates := s.commit.gates.map gateTick, feedAge := s.commit.feedAge + 4
      helloAge := s.commit.helloAge + 4 }
    txn := { s.txn with txns := s.txn.txns.map txnTick }
    selfTest := selfTestTick s.selfTest
    kept := hoursTick s.kept }

/-! ### One period -/

/-- The conditions of R391 have failed since a declaration. -/
def armTick (s : State) : State := if deadlocked s then s else { s with deadArmed := true }

/-- What waits for nothing but a release is tried again: forced saves (R215) and the writes and signals
of the dealer (R358). -/
def retryTick (s : State) : State := sendPubs (retrySaves s)

/-- One period of the board reference. -/
def tick (s : State) : State :=
  let s := ((List.range 136).filter (corePresent s)).foldl coreTick s
  let s := (List.range 16).foldl portTick (unitsTick (wayTick (waitsTick (threadsTick s))))
  let s := armTick (retryTick s)
  { s with ticks := s.ticks + 1 }

end Sys2Proof.Machine
end

