-- ==== Sys2Proof/Safety.lean ====
section
/-! DEFINITION. The words that claims about the block use: when an instruction issues, what a
completed instruction leaves unchanged, and the invariants of the state. -/

namespace Sys2Proof.Machine

open Sys2Proof

/-! ### Invariants -/

/-- The life-cycle state of the part is legal: a fused state of the Life cycle table other than
DIAGNOSTIC, which is no fused state but a latch over PRODUCTION (R522). -/
def lifeCycleLegal (s : State) : Prop :=
  (s.kept.lc = 0 ∨ s.kept.lc = 1 ∨ s.kept.lc = 2 ∨ s.kept.lc = 4) ∧
    (s.kept.diag = true → s.kept.lc = 2)

/-- Memory is in its canonical form. -/
def memCanonical (s : State) : Prop := memWf s = true

/-! ### Instructions -/

/-- What a fetch of the words of an instruction gives. -/
def fetchOf (x : Iss) (s : State) : State × Fetched :=
  fetchWords none (thrIx x.thr) (issWords x) (clearHold s (thrIx x.thr)) (getThread s (thrIx x.thr)).pc

/-- The state once the words of an instruction have been fetched. -/
def fetched (x : Iss) (s : State) : State := (fetchOf x s).1

/-- An instruction issues: the words at the pc spell it (R60), its thread can issue (R33) and has not
issued it yet, no ready thread comes before it in the order of R32, its words are fetched from the L1
instruction cache without a fault (R64), and nothing it reads holds an uncorrectable error (R463). -/
def Issues (x : Iss) (s : State) : Prop :=
  x.code = none ∧ x.ue = none ∧ canIssue s (thrIx x.thr) = true ∧
    (getThread s (thrIx x.thr)).begun = false ∧ inTurn s x.busy (thrIx x.thr) = true ∧
    (fetchOf x s).2 = .ok

/-- A thread without what it keeps of an instruction in progress and without its deferred
conditions. -/
def Thread.settled (t : Thread) : Thread :=
  { t.quiet with deferred := [], partway := false, tileBusy := none, csDue := none }

/-- Offset of CORE_ISSUED of the core of a thread. -/
def issuedOff (i : Nat) : Nat := coreReg (i / 16) 0x40

/-- Between two states only thread `i` differs, CORE_ISSUED of its core has risen by one, and its
core has issued last for it: every other thread, register, core, byte of memory and part of the
device is the same. -/
def onlyThread (i : Nat) (s t : State) : Prop :=
  (∀ j, j ≠ i → getThread t j = getThread s j) ∧
  (∀ o, o ≠ issuedOff i → rget t o = rget s o) ∧
  rget t (issuedOff i) = rget s (issuedOff i) + 1 ∧
  (∀ c, c ≠ i / 16 → getCore t c = getCore s c) ∧
  getCore t (i / 16) = { getCore s (i / 16) with last := i % 16 } ∧
  { t with threads := [], regs := [], cores := [] } = { s with threads := [], regs := [], cores := [] }

/-- An instruction completes: its thread, as `f` makes it of what it was, stands at `pc`, and
nothing else has changed since the fetch. -/
def completes (x : Iss) (s t : State) (f : Thread → Thread) (pc : Word) : Prop :=
  (getThread t (thrIx x.thr)).settled =
      Thread.settled { f (getThread s (thrIx x.thr)) with pc := pc } ∧
    onlyThread (thrIx x.thr) (fetched x s) t

/-- As `onlyThread`, and the core of the thread has changed as `g` makes it of what it was. -/
def onlyCore (i : Nat) (g : Core → Core) (s t : State) : Prop :=
  (∀ j, j ≠ i → getThread t j = getThread s j) ∧
  (∀ o, o ≠ issuedOff i → rget t o = rget s o) ∧
  rget t (issuedOff i) = rget s (issuedOff i) + 1 ∧
  (∀ c, c ≠ i / 16 → getCore t c = getCore s c) ∧
  getCore t (i / 16) = { g (getCore s (i / 16)) with last := i % 16 } ∧
  { t with threads := [], regs := [], cores := [] } = { s with threads := [], regs := [], cores := [] }

/-- An instruction completes and changes its thread by `f` and its core by `g`, and nothing else
since the fetch. -/
def completesCore (x : Iss) (s t : State) (f : Thread → Thread) (g : Core → Core) (pc : Word) : Prop :=
  (getThread t (thrIx x.thr)).settled =
      Thread.settled { f (getThread s (thrIx x.thr)) with pc := pc } ∧
    onlyCore (thrIx x.thr) g (fetched x s) t

/-- The address of the instruction that follows. -/
def nextPc (x : Iss) (s : State) : Word :=
  (getThread s (thrIx x.thr)).pc + wd (4 * issWords x)

end Sys2Proof.Machine
end

