-- ==== Sys2Proof/Certificates/Slice0/Obligations.lean ====
section
/-! DEFINITION. The statements about the block for the provers. -/

open Sys2Proof Sys2Proof.Machine

/-- For every command c and every state, a step with c at the front of the queue is exec of c on the
state with the rest of the queue (the queue is the model's, log entry 2), and exec of c on that
state answers a next state: the block has no fault and refuses no command. With no command waiting a
step answers a next state in which the count of board-reference periods has risen by one and the
queue is still empty. That a step on an empty queue is one period is the model's DESIGN CHOICE of
log entry 1. -/
def Obligations.StepRunsFront : Prop :=
  (∀ (c : Instr) (rest : List Instr) (s : State),
    step { s with pending := c :: rest } = exec c { s with pending := rest }) ∧
  (∀ (c : Instr) (s : State), ∃ t, exec c s = .next t) ∧
  (∀ s : State, s.pending = [] → ∃ t, step s = .next t ∧ t.ticks = s.ticks + 1 ∧ t.pending = [])

/-- For every command and every state, the queue after exec is the queue before it: what a command
does cannot add, drop or reorder commands that wait (the queue is the model's, log entry 2). -/
def Obligations.QueueUntouched : Prop :=
  ∀ (c : Instr) (s t : State), exec c s = .next t → t.pending = s.pending

/-- In the state after a power-on reset the life-cycle state is legal and memory is in its canonical
form (the form is the model's, log entry 5). Every thread is OFF, no core has its presence bit set,
every byte of memory reads 0, L2 holds no line, every synchronisation object is 0 with no waiter, no
transaction is open, every port is down, boot step 1 is in progress (ID_BOOT.STAGE is 1), and the
matrix array and the tiles of every core are free. -/
def Obligations.ResetState : Prop :=
  lifeCycleLegal State.reset ∧ memCanonical State.reset ∧
  (∀ i, (getThread State.reset i).mode = .off) ∧
  (∀ c, corePresent State.reset c = false) ∧
  (∀ a, memByte State.reset a = 0) ∧
  State.reset.l2 = [] ∧
  (∀ o, getObj State.reset o = { value := 0, err := false, waiters := [] }) ∧
  State.reset.txn.txns = [] ∧
  (∀ p, getPort State.reset p = Port.down) ∧
  isReady State.reset = false ∧ rfield State.reset 0x18 0 4 = 1 ∧
  (∀ c, (getCore State.reset c).arr.owner = none ∧ (getCore State.reset c).tiles = [])

/-- From every state whose fused life-cycle state is BLANK, PROVISIONED, PRODUCTION or RETIRED and
whose DIAGNOSTIC latch stands only over PRODUCTION, every step answers a state of which the same
holds: no command and no passing of time fuses DIAGNOSTIC or latches it over another state. -/
def Obligations.LifeCycleInvariant : Prop :=
  ∀ s t : State, lifeCycleLegal s → step s = .next t → lifeCycleLegal t

/-- From every state whose memory lists its bytes at strictly rising addresses and lists no byte
that reads as an unlisted one does, every step answers such a state (the form is the model's, log
entry 5). -/
def Obligations.MemoryCanonicalInvariant : Prop :=
  ∀ s t : State, memCanonical s → step s = .next t → memCanonical t

/-- An integer instruction of two registers that issues in its short form with its reserved bits 0
completes: d holds its result (g0 stays 0), the thread stands at the next instruction, and nothing
else has changed since the fetch. Sums, differences and products wrap at the width, .i32 results are
sign-extended, shifts and rotates use the amount modulo the width, division by zero gives all ones
and the dividend, and the most negative value divided by -1 gives itself and remainder 0. No
instruction faults on overflow. -/
def Obligations.IntegerRegisterForms : Prop :=
  ∀ (x : Iss) (f : RegForm) (s : State), Issues x s → x.long = none → f.rsv = 0 →
    let t := getThread s (thrIx x.thr)
    let w := f.w32
    let a := getG t f.a
    let b := getG t f.b
    let n := b.toNat % widthOf w
    ∀ cv ∈ ([(.add x (.reg f), atWidth w (a + b)), (.sub x f, atWidth w (a - b)),
        (.and x (.reg f), atWidth w (a &&& b)), (.or x (.reg f), atWidth w (a ||| b)),
        (.xor x (.reg f), atWidth w (a ^^^ b)), (.sll x (.reg f), atWidth w (a <<< n)),
        (.srl x (.reg f), atWidth w (BitVec.ofNat 64 (uOpnd w a >>> n))),
        (.sra x (.reg f), BitVec.ofInt 64 (sOpnd w a / 2 ^ n)),
        (.rotl x (.reg f), if w then ((a.truncate 32).rotateLeft n).signExtend 64 else a.rotateLeft n),
        (.slt x (.reg f), if sOpnd w a < sOpnd w b then 1 else 0),
        (.sltu x f, if uOpnd w a < uOpnd w b then 1 else 0),
        (.min x f, atWidth w (if sOpnd w b < sOpnd w a then b else a)),
        (.max x f, atWidth w (if sOpnd w a < sOpnd w b then b else a)),
        (.minu x f, atWidth w (if uOpnd w b < uOpnd w a then b else a)),
        (.maxu x f, atWidth w (if uOpnd w a < uOpnd w b then b else a)),
        (.mul x f, atWidth w (a * b)),
        (.mulh x f, atWidth w (BitVec.ofInt 64 (sOpnd w a * sOpnd w b / 2 ^ widthOf w))),
        (.mulhu x f, atWidth w (BitVec.ofNat 64 (uOpnd w a * uOpnd w b / 2 ^ widthOf w))),
        (.div x f, if sOpnd w b = 0 then BitVec.allOnes 64
          else atWidth w (BitVec.ofInt 64 ((sOpnd w a).tdiv (sOpnd w b)))),
        (.divu x f, if uOpnd w b = 0 then BitVec.allOnes 64
          else atWidth w (BitVec.ofNat 64 (uOpnd w a / uOpnd w b))),
        (.rem x f, if sOpnd w b = 0 then atWidth w a
          else atWidth w (BitVec.ofInt 64 ((sOpnd w a).tmod (sOpnd w b)))),
        (.remu x f, if uOpnd w b = 0 then atWidth w a
          else atWidth w (BitVec.ofNat 64 (uOpnd w a % uOpnd w b)))] : List (Instr × Word)),
      ∃ u, exec cv.1 s = .next u ∧ completes x s u (fun th => setG th f.d cv.2) (nextPc x s)

/-- An instruction with an immediate that issues computes with its 16-bit immediate sign-extended in
its short form or a long form without a literal (the model's reading of the latter, log entry 117),
and with the value of its literal words in its long form (one word sign-extended, or two words, the
first the low half), provided every other prefix field is 0; li loads that value, lui the immediate
shifted left by 16, and the immediate shifts use their amount. d holds the result, the thread stands
after the last literal word, and nothing else has changed since the fetch. -/
def Obligations.ImmediateForms : Prop :=
  ∀ (x : Iss) (d a : BitVec 5) (imm : BitVec 16) (v : Word) (s : State), Issues x s →
    (x.long = none ∧ v = imm.signExtend 64 ∨
      x.long = some { lit := .none, x1 := 0, x2 := 0, x3 := 0, xf := 0 } ∧ v = imm.signExtend 64 ∨
      (∃ w, x.long = some { lit := .one w, x1 := 0, x2 := 0, x3 := 0, xf := 0 } ∧ v = w.signExtend 64) ∨
      (∃ lo hi, x.long = some { lit := .two lo hi, x1 := 0, x2 := 0, x3 := 0, xf := 0 } ∧
        v = hi ++ lo)) →
    let g := getG (getThread s (thrIx x.thr)) a
    (∀ cv ∈ ([(.add x (.imm false d a imm), g + v), (.add x (.imm true d a imm), atWidth true (g + v)),
        (.and x (.imm d a imm), g &&& v), (.or x (.imm d a imm), g ||| v),
        (.xor x (.imm d a imm), g ^^^ v),
        (.slt x (.imm d a imm), if g.toInt < v.toInt then 1 else 0),
        (.li x ⟨d, a, imm⟩, v)] : List (Instr × Word)),
      ∃ u, exec cv.1 s = .next u ∧ completes x s u (fun th => setG th d cv.2) (nextPc x s)) ∧
    (x.long = none → ∀ n : BitVec 6,
      ∀ cv ∈ ([(.sll x (.imm d a 0 n), g <<< n.toNat), (.srl x (.imm d a 0 n), g >>> n.toNat),
        (.sra x (.imm d a 0 n), g.sshiftRight n.toNat), (.rotl x (.imm d a 0 n), g.rotateLeft n.toNat),
        (.lui x ⟨d, a, imm⟩, imm.signExtend 64 <<< 16)] : List (Instr × Word)),
      ∃ u, exec cv.1 s = .next u ∧ completes x s u (fun th => setG th d cv.2) (nextPc x s))

/-- A bit instruction that issues in its short form with its fixed fields 0 completes with nothing
else changed since the fetch: clz counts the 0 bits above the highest 1, ctz those below the lowest,
popc the 1 bits (64 for clz and ctz of 0), par gives the parity of the low 8, 16, 32 or 64 bits,
brev reverses the bits of every field of that width, and the CRC step takes the input bits of b one
at a time against CRCPOLY, from the most significant down in the normal form. -/
def Obligations.BitInstructions : Prop :=
  ∀ (x : Iss) (f : BitForm) (s : State), Issues x s → x.long = none → f.rsv = 0 →
    let t := getThread s (thrIx x.thr)
    let a := getG t f.a
    let n := 8 * 2 ^ f.n.toNat
    (f.b = 0 → f.refl = false → f.n = 3 →
      (∃ u k, exec (.clz x f) s = .next u ∧ completes x s u (fun th => setG th f.d (wd k)) (nextPc x s) ∧
        k ≤ 64 ∧ a.toNat < 2 ^ (64 - k) ∧ (k < 64 → 2 ^ (63 - k) ≤ a.toNat)) ∧
      (∃ u k, exec (.ctz x f) s = .next u ∧ completes x s u (fun th => setG th f.d (wd k)) (nextPc x s) ∧
        k ≤ 64 ∧ (∀ i, i < k → a.getLsbD i = false) ∧ (k < 64 → a.getLsbD k = true)) ∧
      (∃ u, exec (.popc x f) s = .next u ∧ completes x s u
        (fun th => setG th f.d (wd ((List.range 64).countP (fun i => a.getLsbD i)))) (nextPc x s))) ∧
    (f.b = 0 → f.refl = false →
      (∃ u, exec (.par x f) s = .next u ∧ completes x s u
        (fun th => setG th f.d (wd ((List.range n).countP (fun i => a.getLsbD i) % 2))) (nextPc x s)) ∧
      (∃ u r, exec (.brev x f) s = .next u ∧ completes x s u (fun th => setG th f.d r) (nextPc x s) ∧
        ∀ i < 64, r.getLsbD i = a.getLsbD (i / n * n + (n - 1 - i % n)))) ∧
    (∃ u, exec (.crcS x f) s = .next u ∧ completes x s u
      (fun th => setG th f.d (crcStep f.refl n t.crcpoly a (getG t f.b))) (nextPc x s)) ∧
    (∀ (poly b crc : Word) (k : Nat), crcNormal poly b (k + 1) crc =
      crcNormal poly b k (crc <<< 1 ^^^ if crc.getLsbD 63 != b.getLsbD k then poly else 0))

/-- A branch that issues goes to the address of its own first word plus four times its sign-extended
offset where its condition holds, and to the next instruction where it does not; j goes to its
target; call also writes the address of the next instruction to g30; jr and callr go to the value of
a register and ret to g30 where that is a multiple of 4 (callr writes g30 after it has read its
target). No other register, flag, memory byte or part of the device changes after the fetch. jr,
callr and ret whose target is not a multiple of 4 do not jump: they raise cause 0x06 with the target
as FAULTINFO, and no register is written by the jump itself. -/
def Obligations.BranchesAndJumps : Prop :=
  ∀ (x : Iss) (s : State), Issues x s → x.long = none →
    let t := getThread s (thrIx x.thr)
    (∀ f : BrForm,
      let a := getG t f.a
      let b := getG t f.b
      ∀ cv ∈ ([(.beq x f, decide (a = b)), (.bne x f, decide (a ≠ b)),
          (.blt x f, decide (a.toInt < b.toInt)), (.bge x f, decide (b.toInt ≤ a.toInt)),
          (.bltu x f, decide (a.toNat < b.toNat)), (.bgeu x f, decide (b.toNat ≤ a.toNat))] :
          List (Instr × Bool)),
        ∃ u, exec cv.1 s = .next u ∧ completes x s u id
          (if cv.2 then t.pc + 4 * f.off.signExtend 64 else t.pc + 4)) ∧
    (∀ f : JmpForm,
      (∃ u, exec (.j x f) s = .next u ∧ completes x s u id (t.pc + 4 * f.off.signExtend 64)) ∧
      (∃ u, exec (.call x f) s = .next u ∧
        completes x s u (fun th => setG th 30 (t.pc + 4)) (t.pc + 4 * f.off.signExtend 64))) ∧
    (∀ f : JrForm, f.d = 0 → f.b = 0 → f.rsv = 0 →
      ((getG t f.a).toNat % 4 = 0 →
        (∃ u, exec (.jr x f) s = .next u ∧ completes x s u id (getG t f.a)) ∧
        (∃ u, exec (.callr x f) s = .next u ∧
          completes x s u (fun th => setG th 30 (t.pc + 4)) (getG t f.a))) ∧
      (f.a = 0 → (getG t 30).toNat % 4 = 0 →
        ∃ u, exec (.ret x f) s = .next u ∧ completes x s u id (getG t 30)) ∧
      (let fault (w : Word) : State :=
        takeFault false (countIssue (fetched x s) (thrIx x.thr)) (thrIx x.thr) 0x06 w
       ((getG t f.a).toNat % 4 ≠ 0 →
        exec (.jr x f) s = .next (fault (getG t f.a)) ∧ exec (.callr x f) s = .next (fault (getG t f.a))) ∧
       (f.a = 0 → (getG t 30).toNat % 4 ≠ 0 → exec (.ret x f) s = .next (fault (getG t 30)))))

/-- An ld that issues, in its short form or in a long form that gives a literal offset and nothing
else, on an L1 that serves accesses, with an address that is a multiple of its size and translates
to physical address pa, completes where L1 holds the line of pa and no accumulating write of its own
to that line is still to be applied: d holds the bytes there, sign- or zero-extended by its kind,
every other general register is unchanged, the thread stands at the next instruction, and nothing at
home (DRAM, L2) has changed since the translation. Where pa lies in the device register space, d
holds the value of the register read. In every other case the thread waits at the same pc with its
registers unchanged, and the load is recorded with its line, address, size and destination. -/
def Obligations.ScalarLoads : Prop :=
  ∀ (x : Iss) (f : MemForm) (s s2 : State) (off : Word) (size pa : Nat) (signed : Bool), Issues x s →
    literalOr x (f.off.signExtend 64) = some off → loadKind f.kind = some (size, signed) →
    let i := thrIx x.thr
    let t := getThread s i
    let va := getG t f.a + off
    l1Closed (fetched x s) (i / 16) = false → va.toNat % size = 0 →
    xlatAny true (threadAgent (fetched x s) i) .load (fetched x s) va = (s2, .to pa) →
    (∀ e, inDevice pa = false → tabFind (getCore s2 (i / 16)).l1d (pa / 128) = some e →
      ownUpdate s2 (queueOf i) (pa / 128) = false →
      ∃ u, exec (.ld x f) s = .next u ∧
        (∀ r, getG (getThread u i) r =
          getG (setG t f.d (extendLoad size signed (lineGet e.data (pa % 128) size))) r) ∧
        (getThread u i).pc = nextPc x s ∧ u.mem = s2.mem ∧ u.l2 = s2.l2) ∧
    (inDevice pa = true → ∃ u, exec (.ld x f) s = .next u ∧
      (∀ r, getG (getThread u i) r = getG (setG (getThread (regRead s2 (.thread x.thr) (deviceOff pa) size).2 i)
        f.d (extendLoad size signed (regRead s2 (.thread x.thr) (deviceOff pa) size).1)) r) ∧
      (getThread u i).pc = nextPc x s) ∧
    (inDevice pa = false → (tabFind (getCore s2 (i / 16)).l1d (pa / 128) = none ∨
        ownUpdate s2 (queueOf i) (pa / 128) = true) →
      ∃ u, exec (.ld x f) s = .next u ∧ (∀ r, getG (getThread u i) r = getG t r) ∧
        (getThread u i).pc = t.pc ∧ (getThread u i).hold = .load ∧
        (getThread u i).loads = [⟨pa / 128, pa, va, size, signed, f.d, 4 * issWords x⟩] ∧
        u.mem = s2.mem ∧ u.l2 = s2.l2)

/-- An st that issues, in its short form or in a long form that gives a literal offset and nothing
else, on an L1 that serves accesses, with an address that is a multiple of its size and translates
to physical address pa. In memory outside a lost set it completes: the request to write the low
bytes of d at pa is the last that waits at the home bank of the line of pa, the core's own L1 copy
of the line (if it has one) holds the new bytes, every other line of that L1 and every register of
the thread is as it was, the thread stands at the next instruction, and nothing at home has changed
yet. In a lost set it takes MEM_TAG with the line's address, and the error is logged. In the device
register space it writes the register and completes, unless that write resets the device. -/
def Obligations.ScalarStores : Prop :=
  ∀ (x : Iss) (f : MemForm) (s s2 : State) (off : Word) (size pa : Nat), Issues x s →
    literalOr x (f.off.signExtend 64) = some off → storeKind f.kind = some size →
    let i := thrIx x.thr
    let t := getThread s i
    let va := getG t f.a + off
    let v := getG t f.d
    l1Closed (fetched x s) (i / 16) = false → va.toNat % size = 0 →
    xlatAny true (threadAgent (fetched x s) i) .store (fetched x s) va = (s2, .to pa) →
    (inDevice pa = false → refused s2 (pa / 128) = false →
      ∃ u w, exec (.st x f) s = .next u ∧
        (getBank u (lineBank (pa / 128))).waiting = (getBank s2 (lineBank (pa / 128))).waiting ++ [w] ∧
        w.item.kind = .store (pa % 128) size v ∧ w.item.line = pa / 128 ∧ w.item.thr = i ∧
        (tabFind (getCore u (i / 16)).l1d (pa / 128)).map L1Line.data =
          (tabFind (getCore s2 (i / 16)).l1d (pa / 128)).map (fun e =>
            lineMask e.data (byteMask (pa % 128) size) (byteData (pa % 128) size v.toNat)) ∧
        (∀ l, l ≠ pa / 128 → tabFind (getCore u (i / 16)).l1d l = tabFind (getCore s2 (i / 16)).l1d l) ∧
        (getThread u i).settled = Thread.settled { t with pc := nextPc x s } ∧
        u.mem = s2.mem ∧ u.l2 = s2.l2) ∧
    (inDevice pa = false → refused s2 (pa / 128) = true →
      exec (.st x f) s = .next (takeFault false
        (countIssue (memError s2 (threadAgent s2 i) (pa / 128) va 0x43).1 i) i 0x43
        (wd (128 * (pa / 128))))) ∧
    (let w := regWrite s2 (.thread x.thr) (deviceOff pa) size v
     inDevice pa = true → (inReset w && !inReset s2) = false →
      exec (.st x f) s = .next (retire (countIssue w i) i t.ring t.ss (nextPc x s)))

/-- A load or store that issues in its short form or a long form that gives a literal offset and
nothing else, or an atomic that issues in its one form, on an L1 that serves accesses, with an
address that is not a multiple of its size raises cause 0x05 with the address as FAULTINFO: the next
state is that of the fault taken right after the fetch, so no byte is accessed. -/
def Obligations.AlignmentFaults : Prop :=
  ∀ (x : Iss) (s : State), Issues x s →
    let i := thrIx x.thr
    let t := getThread s i
    l1Closed (fetched x s) (i / 16) = false →
    let fault (va : Word) : State := takeFault false (countIssue (fetched x s) i) i 0x05 va
    (∀ (f : MemForm) (off : Word) (size : Nat), literalOr x (f.off.signExtend 64) = some off →
      let va := getG t f.a + off
      va.toNat % size ≠ 0 →
      (∀ signed, loadKind f.kind = some (size, signed) → exec (.ld x f) s = .next (fault va)) ∧
      (storeKind f.kind = some size → exec (.st x f) s = .next (fault va))) ∧
    (∀ f : RegForm, x.long = none → f.rsv = 0 → (getG t f.a).toNat % (if f.w32 then 4 else 8) ≠ 0 →
      ∀ c ∈ ([.amoAdd x f, .amoSwap x f, .amoCas x f, .amoMin x f, .amoMax x f, .amoMinu x f,
          .amoMaxu x f] : List Instr),
        exec c s = .next (fault (getG t f.a)))

/-- An atomic that issues, aligned, with its reserved bits 0, on an L1 that serves accesses,
translated to pa, forms a request for its operation with the values of b and d. The request is the
last that waits at the home bank of the line of pa where a miss to that line is pending in a core
that is not blocking, or a miss register is free for the line and no earlier miss waits against that
bank; else it is the last of the core's misses that wait for a register. In both cases the thread
waits with its registers and pc unchanged, and nothing at home has changed yet. What the bank then
does is ServedAtHome, what the answer does is AnswersReachCores. -/
def Obligations.AtomicsGoHome : Prop :=
  ∀ (x : Iss) (f : RegForm) (s s2 : State) (pa : Nat), Issues x s → x.long = none → f.rsv = 0 →
    let i := thrIx x.thr
    let t := getThread s i
    let size := if f.w32 then 4 else 8
    let va := getG t f.a
    l1Closed (fetched x s) (i / 16) = false → va.toNat % size = 0 →
    xlat (threadAgent (fetched x s) i) .amo (fetched x s) va = (s2, .to pa) →
    let k := getCore s2 (i / 16)
    let goes : Bool := (missPending k (pa / 128) && !l1Blocks s2 (i / 16)) ||
      (missFits s2 (i / 16) (pa / 128) && k.missWait.all (fun r => lineBank r.line ≠ lineBank (pa / 128)))
    ∀ co ∈ ([(.amoAdd x f, .add), (.amoSwap x f, .swap), (.amoCas x f, .cas), (.amoMin x f, .min),
        (.amoMax x f, .max), (.amoMinu x f, .minu), (.amoMaxu x f, .maxu)] : List (Instr × AmoOp)),
      ∃ u r, exec co.1 s = .next u ∧
        r.kind = .amo co.2 (pa % 128) size (getG t f.b) (getG t f.d) f.d va ∧
        r.line = pa / 128 ∧ r.thr = i ∧
        (goes = true → ∃ w, w.item = r ∧ (getBank u (lineBank (pa / 128))).waiting =
          (getBank s2 (lineBank (pa / 128))).waiting ++ [w]) ∧
        (goes = false → (getCore u (i / 16)).missWait = k.missWait ++ [r]) ∧
        getThread u i = { getThread s2 i with hold := .load, begun := true, saveBad := false } ∧
        u.mem = s2.mem ∧ u.l2 = s2.l2

/-- L2_ACCESS with no error serves the oldest granted request of its bank where L2 holds its line
readable, no combining-window update of the line is waiting and no store of its own core to the line
waits at the line's memory channel. A load or prefetch sends the line to its core and joins the core
to the presence vector (not an L2-only prefetch); an instruction fetch sends the line to the core's
instruction cache; a store puts its bytes into the line and makes it dirty; an atomic puts the
result of its operation there and sends the old value, sign-extended, to its core. Every other line
of L2 and every byte of DRAM is unchanged. With the line not in L2 and its set not lost, the request
goes on to the line's memory channel, and nothing at home changes. -/
def Obligations.ServedAtHome : Prop :=
  ∀ (b : BankRef) (s : State) (r : Req) (rest : List Req),
    (getBank s (bankIx b)).granted = r :: rest →
    let w := getWindow s (lineBank r.line)
    (w.sent ++ w.entries ++ w.arriving).all (fun u => decide (u.line ≠ r.line)) = true →
    (arbItems (getChannel s (lineChannel r.line))).filter (isStoreOf r.core r.line) = [] →
    (∀ ln, tabFind s.l2 r.line = some ln → ln.bad = 0 →
      ∃ u, exec (.l2Access b .none) s = .next u ∧ u.mem = s.mem ∧
        (∀ l, l ≠ r.line → tabFind u.l2 l = tabFind s.l2 l) ∧
        (∀ p l2only, r.kind = (if p then .prefetch l2only else .load) →
          (tabFind u.l2 r.line).map L2Line.data = some ln.data ∧
          (getCore u r.core).msgs = (getCore s r.core).msgs ++
            [.fill r.line ln.data r.age p (!(p && l2only))] ∧
          ((p && l2only) = false → ∃ ln', tabFind u.l2 r.line = some ln' ∧ r.core ∈ ln'.sharers)) ∧
        (∀ off size v, r.kind = .store off size v → size < 128 →
          (tabFind u.l2 r.line).map (fun y => (y.data, y.dirty)) =
            some (lineMask ln.data (byteMask off size) (byteData off size v.toNat), true)) ∧
        (r.kind = .ifetch → (tabFind u.l2 r.line).map L2Line.data = some ln.data ∧
          (getCore u r.core).msgs = (getCore s r.core).msgs ++ [.ifill r.line ln.data true]) ∧
        (∀ op off size vb old d va, r.kind = .amo op off size vb old d va →
          (tabFind u.l2 r.line).map (fun y => (y.data, y.dirty)) =
            some (linePut ln.data off size (amoResult op size (lineGet ln.data off size)
              (vb.toNat % 2 ^ (8 * size)) old.toNat), true) ∧
          (∃ m saw, (getCore u r.core).msgs = (getCore s r.core).msgs ++ m ++
            [.value r.thr r.line d (BitVec.ofInt 64 (sext (8 * size) (lineGet ln.data off size))) saw]))) ∧
    (tabFind s.l2 r.line = none → setLost s r.line = false →
      ∃ u y, exec (.l2Access b .none) s = .next u ∧ u.mem = s.mem ∧ u.l2 = s.l2 ∧
        (getChannel u (lineChannel r.line)).waiting =
          (getChannel s (lineChannel r.line)).waiting ++ [y] ∧ y.item = r)

/-- L1_FILL of an atomic's answer for which its thread waits writes the old value to the atomic's
destination, and the thread is ready at the next instruction. L1_FILL of a line that is to be kept
and for which no store of the core waits puts the line into the core's L1. L1_INVALIDATE takes the
line at the head of the core's path out of its L1 and leaves every other line. INVALIDATE_ACK takes
the core out of the write's list; when it was the last, the write is performed. -/
def Obligations.AnswersReachCores : Prop :=
  ∀ (c : CoreRef) (s : State),
    let k := getCore s (cix c)
    (∀ i l d w saw ms, k.msgs = .value i l d w saw :: ms → k.missWait = [] →
      (getThread s i).hold = .load →
      ∃ u, exec (.l1Fill c) s = .next u ∧ (∀ r, getG (getThread u i) r =
          getG (setG (getThread s i) d w) r) ∧
        (getThread u i).pc = (getThread s i).pc + 4 ∧ (getThread u i).hold = .none ∧
        u.mem = s.mem ∧ u.l2 = s.l2) ∧
    (∀ l d age pf ms, k.msgs = .fill l d age pf true :: ms → k.missWait = [] →
      queuedStores s (cix c) l = [] →
      ∃ u, exec (.l1Fill c) s = .next u ∧
        (tabFind (getCore u (cix c)).l1d l).map L1Line.data = some d ∧ u.mem = s.mem ∧ u.l2 = s.l2) ∧
    (∀ l wid ms, k.msgs = .inval l wid :: ms →
      ∃ u, exec (.l1Invalidate c) s = .next u ∧ (getCore u (cix c)).msgs = ms ∧
        tabFind (getCore u (cix c)).l1d l = none ∧
        (∀ l', l' ≠ l → tabFind (getCore u (cix c)).l1d l' = tabFind k.l1d l') ∧
        u.mem = s.mem ∧ u.l2 = s.l2) ∧
    (∀ (l : BitVec 39) (w : Write), s.writes = [w] → w.line = l.toNat → w.acks = [cix c] →
      invalPending s (cix c) l.toNat w.id = false →
      exec (.invalidateAck c l) s = .next { s with writes := [] })

/-- ARB_GRANT at a bank that has no access in progress in blocking mode, its island running and no
commit holding it at its break point, grants the request the arbiter chooses among those of
requesters that are not blocked: a trumped request first, else the holder while it may go on, else
the next in turn from the last granted; it moves from the waiting to the granted requests and its
requester is the last granted. TRUMP marks the oldest request of a requester that has waited longer
than the limit with the period in which it does so, and moves none. L2_FILL of a load whose line is
not in L2 and reads well sends the line as memory holds it to the core, and DRAM is unchanged where
the set has a free way. -/
def Obligations.HomeAndChannel : Prop :=
  ∀ (q : BitVec 2) (b : BitVec 5) (blocked : BitVec 44) (s : State),
    let bk := 32 * q.toNat + b.toNat
    let a := getBank s bk
    (∀ w, islandRuns s (arbIsland (.bank q b)) = true → arbHeld s (.bank q b) = false → bankBusy s bk = false →
      arbChoose 44 4 a (unblocked blocked a.waiting) = some w →
      ∃ u, exec (.arbGrant ⟨.bank q b, blocked⟩) s = .next u ∧
        (getBank u bk).granted = a.granted ++ [w.item] ∧ (getBank u bk).last = w.req ∧
        (getBank u bk).waiting.length + 1 = a.waiting.length ∧
        (∀ k, k ≠ bk → getBank u k = getBank s k) ∧ u.mem = s.mem ∧ u.l2 = s.l2 ∧
        u.threads = s.threads ∧
        ((∃ y ∈ unblocked blocked a.waiting, y.trump ≠ none) → w.trump ≠ none)) ∧
    (∀ (req : BitVec 6) (w : ArbWait Req) (ws : List (ArbWait Req)), a.waiting = w :: ws →
      w.req = req.toNat → w.trump = none → arbLimit s (.bank q b) < w.wait →
      ∃ u, exec (.trump (.bank q b) req) s = .next u ∧
        (getBank u bk).waiting = { w with trump := some s.ticks } :: ws ∧
        (getBank u bk).granted = a.granted ∧ u.mem = s.mem ∧ u.l2 = s.l2) ∧
    (∀ (ch : Nat) (r : Req) (x : Arb Req), firstFill bk s.channels = some (ch, r, x) →
      r.kind = .load → tabFind s.l2 r.line = none → setLost s r.line = false →
      badWords s r.line = 0 → sameSet s r.line = [] →
      ((getWindow s (lineBank r.line)).sent ++ (getWindow s (lineBank r.line)).entries ++
        (getWindow s (lineBank r.line)).arriving).all (fun y => decide (y.line ≠ r.line)) = true →
      ∃ u keep, exec (.l2Fill ⟨q, b⟩ 0) s = .next u ∧ u.mem = s.mem ∧
        (getCore u r.core).msgs = (getCore s r.core).msgs ++
          [.fill r.line (memLine s r.line) r.age false keep])

/-- A scalar FP instruction that issues in its short form with its fixed fields 0 completes: it
computes at the width it names from its FP32 or FP64 operands in the direction FRM holds, writes the
result to d (an FP32 result with bits 63:32 zero), ORs the flags it raises into FFLAGS, and changes
nothing else of its thread or of the device since the fetch but the deferred conditions. Flags f
that an instruction raises as it completes queue FP_TRAP (cause 0x20) among the deferred conditions
of its thread, with the raised and enabled flags as FAULTINFO, exactly where f and FTE share a bit,
also for a flag that FFLAGS already held. Comparisons give 1 or 0; sign injection and class raise no
flag; cvt converts between its two different codes. -/
def Obligations.FloatingResults : Prop :=
  ∀ (x : Iss) (s : State), Issues x s → x.long = none →
    let t := getThread s (thrIx x.thr)
    let rm := t.frm.toNat
    let done (c : Instr) (d : BitVec 5) (r : Nat × FFlags) : Prop :=
      ∃ u, exec c s = .next u ∧ completes x s u
        (fun th => { setG th d (BitVec.ofNat 64 r.1) with fflags := th.fflags ||| r.2 }) (nextPc x s)
    (∀ f : FpForm, f.rsv = 0 →
      let c := if f.f64 then 12 else 11
      let a := if f.f64 then (getG t f.a).toNat else (getG t f.a).toNat % 2 ^ 32
      let b := if f.f64 then (getG t f.b).toNat else (getG t f.b).toNat % 2 ^ 32
      done (.fpAdd x f) f.d (fpAdd c rm a b) ∧ done (.fpSub x f) f.d (fpSub c rm a b) ∧
      done (.fpMul x f) f.d (fpMul c rm a b) ∧ done (.fpDiv x f) f.d (fpDiv c rm a b) ∧
      (f.b = 0 → done (.fpSqrt x f) f.d (fpSqrt c rm a)) ∧
      done (.fpMin x f) f.d (fpMinMax c false a b) ∧ done (.fpMax x f) f.d (fpMinMax c true a b) ∧
      (∀ ck ∈ ([(.fpCmpEq x f, 0), (.fpCmpLt x f, 1), (.fpCmpLe x f, 2)] : List (Instr × Nat)),
        done ck.1 f.d (if (fpCompare c ck.2 a b).1 then 1 else 0, (fpCompare c ck.2 a b).2)) ∧
      (∀ ck ∈ ([(.fpSgnj x f, 0), (.fpSgnjn x f, 1), (.fpSgnjx x f, 2)] : List (Instr × Nat)),
        done ck.1 f.d (fpSgnj c ck.2 a b, 0))) ∧
    (∀ f : FmaForm, f.fmt.toNat < 2 → f.rsv = 0 →
      let c := if f.fmt = 1 then 12 else 11
      let o (r : BitVec 5) : Nat := if f.fmt = 1 then (getG t r).toNat else (getG t r).toNat % 2 ^ 32
      ∀ ck ∈ ([(.fma x f, false, false), (.fms x f, false, true), (.fnma x f, true, false),
          (.fnms x f, true, true)] : List (Instr × Bool × Bool)),
        done ck.1 f.d (fpFma c rm ck.2.1 ck.2.2 (o f.a) (o f.b) (o f.c))) ∧
    (∀ f : CvtForm, f.b = 0 → f.rsv = 0 →
      (f.src.toNat < 6 → f.dst.toNat < 6 → f.src ≠ f.dst →
        done (.cvt x f) f.d ((cvtResult rm f.src.toNat f.dst.toNat (getG t f.a)).1.toNat,
          (cvtResult rm f.src.toNat f.dst.toNat (getG t f.a)).2)) ∧
      (f.dst = 15 → f.src = 5 → done (.fclass x f) f.d (2 ^ fpClass 12 (getG t f.a).toNat, 0)) ∧
      (f.dst = 15 → f.src = 4 →
        done (.fclass x f) f.d (2 ^ fpClass 11 ((getG t f.a).toNat % 2 ^ 32), 0))) ∧
    (∀ (v : State) (i : Nat) (f : FFlags),
      let th := getThread v i
      let u := raiseFlags v i f
      (getThread u i).fflags = th.fflags ||| f ∧
      (f &&& th.fte = 0 → (getThread u i).deferred = th.deferred) ∧
      (f &&& th.fte ≠ 0 → (getThread u i).deferred.length = th.deferred.length + 1 ∧
        ((0x20 : BitVec 8), BitVec.ofNat 64 (f &&& th.fte).toNat) ∈ (getThread u i).deferred) ∧
      (∀ j, j ≠ i → getThread u j = getThread v j))

/-- Rounding the value of any FP32 or FP64 code that is not a NaN back to its format gives the same
code and raises no flag, whatever the rounding direction: subnormals are not flushed, zeros and
infinities keep their signs. -/
def Obligations.ExactValuesStay : Prop :=
  ∀ (f rm c : Nat), f = 11 ∧ c < 2 ^ 32 ∨ f = 12 ∧ c < 2 ^ 64 → (decodeFmt f c).isNan = false →
    ieeeOf f rm (decodeFmt f c) = (c, 0)

/-- A sum, difference, product, quotient, square root or fused multiply-add one of whose operands is
a NaN returns the first NaN among a, b, c made quiet with its payload kept and raises INV if an
operand signals; so do minimum and maximum of two NaNs, and a conversion between FP32 and FP64 of
one (of an FP64 payload the upper bits are kept: the model's reading, log entry 144). Where no
operand is a NaN, the difference of equal infinities (also as the sum of a fused form), 0 times
infinity, 0 / 0, infinity over infinity and the square root of a negative number return the default
quiet NaN and raise INV. A fused multiply-add whose product is 0 times infinity raises INV even when
its addend is a quiet NaN. -/
def Obligations.NaNRules : Prop :=
  ∀ (f rm a b c : Nat), f = 11 ∨ f = 12 →
    let nan (n : Nat) : Bool := (decodeFmt f n).isNan
    let signals (n : Nat) : Bool := match decodeFmt f n with | .nan s _ => s | _ => false
    let quietOf (n : Nat) : Nat :=
      if n.testBit (if f = 11 then 22 else 51) then n else n + 2 ^ (if f = 11 then 22 else 51)
    let dflt : Nat := if f = 11 then 0x7FC00000 else 0x7FF8000000000000
    let inv (p : Bool) : FFlags := if p then fINV else 0
    let zero (n : Nat) : Bool := match decodeFmt f n with | .fin _ m _ => decide (m = 0) | _ => false
    let inf (n : Nat) : Bool := match decodeFmt f n with | .inf _ => true | _ => false
    let neg (n : Nat) : Bool := n.testBit (if f = 11 then 31 else 63)
    (∀ op ∈ [fpAdd, fpSub, fpMul, fpDiv], nan a || nan b →
      op f rm a b = (quietOf (if nan a then a else b), inv (signals a || signals b))) ∧
    (nan a → fpSqrt f rm a = (quietOf a, inv (signals a))) ∧
    (∀ p n, nan a || nan b || nan c →
      (fpFma f rm p n a b c).1 = quietOf (if nan a then a else if nan b then b else c) ∧
      (fpFma f rm p n a b c).2 = inv (signals a || signals b || signals c ||
        (zero a && inf b || inf a && zero b))) ∧
    (nan a → nan b → ∀ m, fpMinMax f m a b = (quietOf a, inv (signals a || signals b))) ∧
    (∀ rnd r, nan a →
      (f = 11 → a < 2 ^ 32 → convFmt 11 12 rm rnd r (decodeFmt 11 a) =
        (a / 2 ^ 31 * 2 ^ 63 + 0x7FF0000000000000 + quietOf a % 2 ^ 23 * 2 ^ 29, inv (signals a))) ∧
      (f = 12 → a < 2 ^ 64 → convFmt 12 11 rm rnd r (decodeFmt 12 a) =
        (a / 2 ^ 63 * 2 ^ 31 + 0x7F800000 + quietOf a % 2 ^ 52 / 2 ^ 29, inv (signals a)))) ∧
    (nan a = false → nan b = false → nan c = false →
      (inf a → inf b → neg a ≠ neg b → fpAdd f rm a b = (dflt, fINV)) ∧
      (inf a → inf b → neg a = neg b → fpSub f rm a b = (dflt, fINV)) ∧
      (zero a && inf b || inf a && zero b → fpMul f rm a b = (dflt, fINV)) ∧
      (zero a && zero b || inf a && inf b → fpDiv f rm a b = (dflt, fINV)) ∧
      (neg a → zero a = false → fpSqrt f rm a = (dflt, fINV)) ∧
      (∀ p n, (zero a && inf b || inf a && zero b) ||
          (inf a || inf b) && inf c && ((neg a != neg b) != p) != (neg c != n) →
        fpFma f rm p n a b c = (dflt, fINV)))

/-- A c.rd that issues in its short form with field a 0 writes d with what the register shows and
completes, where its number is listed and its ring granted (FFLAGS with no pass of the thread in the
way); the registers of the thread show their fields. A number that is not listed raises
ILLEGAL_INSTR, and a ring that is not granted raises PRIVILEGE with the number as FAULTINFO. -/
def Obligations.ControlRegisterReads : Prop :=
  ∀ (x : Iss) (f : CtlForm) (s : State), Issues x s → x.long = none → f.a = 0 →
    let i := thrIx x.thr
    let n := f.crn.toNat
    let s1 := fetched x s
    let t := getThread s i
    (crListed n = true → t.ring.toNat ≤ crReadRing n → (n = 0x10 → (getArr s1 (i / 16)).pass = none) →
      ∃ u, exec (.cRd x f) s = .next u ∧
        completes x s u (fun th => setG th f.d (readControl s1 i n)) (nextPc x s)) ∧
    (∀ nv ∈ ([(0x0, BitVec.ofNat 64 (t.depth.toNat * 2 ^ 16 + t.fte.toNat * 2 ^ 8 + b2n t.ss * 16 +
          b2n t.em * 4 + t.ring.toNat)), (0x1, t.cause), (0x2, t.faultinfo), (0x4, t.tsb),
        (0x5, t.aspace), (0x8, getEntry t 0), (0x9, getEntry t 1), (0xA, getEntry t 2),
        (0xB, getEntry t 3), (0xC, t.gatebase), (0x10, t.fflags.zeroExtend 64),
        (0x11, t.frm.zeroExtend 64), (0x12, t.seed), (0x13, t.crcpoly), (0x18, t.vl.zeroExtend 64),
        (0x19, t.vgrp.zeroExtend 64), (0x1A, t.vstart.zeroExtend 64), (0x22, t.prio.zeroExtend 64),
        (0x38, t.oob), (0x40, t.pfctl.zeroExtend 64)] : List (Nat × Word)),
      readControl s1 i nv.1 = nv.2) ∧
    (crListed n = false → exec (.cRd x f) s = .next (takeFault false (countIssue s1 i) i 0x03 t.pc)) ∧
    (crListed n = true → crReadRing n < t.ring.toNat →
      exec (.cRd x f) s = .next (takeFault false (countIssue s1 i) i 0x04 (BitVec.ofNat 64 n)))

/-- A c.wr that issues in its short form with field d 0 and a granted ring writes its register and
completes with nothing else changed: a write of STATUS sets FTE, SS and EM and leaves RING and
DEPTH, reserved bits of CAUSE, TSB, ASPACE, GATEBASE and the ENTRY registers read as 0, a 1 written
to IPEND clears its latched bit, TSTART and APOS keep 0 on a control core, and VL, FRM, FFLAGS and
PFCTL take their fields. A value of VL above 4,096, a reserved value of FRM and a value of PFCTL
above 16 raise ILLEGAL_INSTR, an unlisted number ILLEGAL_INSTR and a ring that is not granted
PRIVILEGE, and the register keeps its value. -/
def Obligations.ControlRegisterWrites : Prop :=
  ∀ (x : Iss) (a : BitVec 5) (s : State), Issues x s → x.long = none →
    let i := thrIx x.thr
    let s1 := fetched x s
    let t := getThread s i
    let v := getG t a
    let ok (c : Instr) (g : Thread → Thread) : Prop :=
      ∃ u, exec c s = .next u ∧ completes x s u g (nextPc x s)
    let bad (c : Instr) : Prop := exec c s = .next (takeFault false (countIssue s1 i) i 0x03 t.pc)
    (∀ ng ∈ ([(0x00, fun th => { th with fte := BitVec.ofNat 6 (v.toNat / 256), ss := v.getLsbD 4,
                                         em := v.getLsbD 2 }),
        (0x01, fun th => { th with cause := v &&& 0xE0FF }), (0x02, fun th => { th with faultinfo := v }),
        (0x03, fun th => clearIpend th v), (0x04, fun th => { th with tsb := v &&& 0xFFFFFFFFFFFFF000 }),
        (0x05, fun th => { th with aspace := v &&& 0xFFFF3FFFFFFFF003 }),
        (0x08, fun th => setEntry th 0 (v &&& 0xFFFFFFFFFFFFFFFC)),
        (0x09, fun th => setEntry th 1 (v &&& 0xFFFFFFFFFFFFFFFC)),
        (0x0A, fun th => setEntry th 2 (v &&& 0xFFFFFFFFFFFFFFFC)),
        (0x0B, fun th => setEntry th 3 (v &&& 0xFFFFFFFFFFFFFFFC)),
        (0x0C, fun th => { th with gatebase := v &&& 0xFFFFFFFFFFFF1FFF }),
        (0x22, fun th => { th with prio := v.truncate 2 }),
        (0x28, fun th => if isControl (i / 16) then th else { th with tstart := v.truncate 8 }),
        (0x30, fun th => if isControl (i / 16) then th else { th with apos := v.truncate 32 }),
        (0x12, fun th => { th with seed := v }), (0x13, fun th => { th with crcpoly := v }),
        (0x19, fun th => { th with vgrp := v.truncate 2 }),
        (0x1A, fun th => { th with vstart := v.truncate 13 }),
        (0x38, fun th => { th with oob := v })] : List (Nat × (Thread → Thread))),
      (∃ r, crWriteRing ng.1 = some r ∧ t.ring.toNat ≤ r) →
        ok (.cWr x ⟨0, a, BitVec.ofNat 12 ng.1⟩) ng.2) ∧
    (v.toNat ≤ 4096 → ok (.vlWrite x ⟨0, a⟩) (fun th => { th with vl := BitVec.ofNat 13 v.toNat })) ∧
    (4096 < v.toNat → bad (.vlWrite x ⟨0, a⟩)) ∧
    (v.toNat % 8 ≤ 4 → ok (.frmWrite x ⟨0, a⟩) (fun th => { th with frm := BitVec.ofNat 3 v.toNat })) ∧
    (4 < v.toNat % 8 → bad (.frmWrite x ⟨0, a⟩)) ∧
    ((getArr s1 (i / 16)).pass = none →
      ok (.fflagsWrite x ⟨0, a⟩) (fun th => { th with fflags := BitVec.ofNat 6 v.toNat })) ∧
    (v.toNat % 32 ≤ 16 →
      ok (.pfctlWrite x ⟨0, a⟩) (fun th => { th with pfctl := BitVec.ofNat 5 v.toNat })) ∧
    (16 < v.toNat % 32 → bad (.pfctlWrite x ⟨0, a⟩)) ∧
    (∀ n : BitVec 12, crListed n.toNat = false → bad (.cWr x ⟨0, a, n⟩)) ∧
    (∀ n : BitVec 12, crListed n.toNat = true →
      (∀ r, crWriteRing n.toNat = some r → r < t.ring.toNat) →
      exec (.cWr x ⟨0, a, n⟩) s = .next (takeFault false (countIssue s1 i) i 0x04 (n.zeroExtend 64)))

/-- A c.wr to TCFG on a compute core whose new formats are tile formats takes effect at once where
no instruction names a tile of the thread whose format changes and the array has no pass; where an
instruction names one, the thread waits with the formats unchanged, and TCFG_APPLY, once no
instruction names an affected tile, the array has no pass, no stop of the thread and no exception
that it would take is due, changes the formats of all affected tiles and completes the write. No
tile of another thread changes its format. -/
def Obligations.FormatWritesWait : Prop :=
  (∀ (x : Iss) (a : BitVec 5) (s : State), Issues x s → x.long = none →
    let i := thrIx x.thr
    let s1 := fetched x s
    let v := getG (getThread s i) a
    isControl (i / 16) = false →
    (tcfgChanged s1 i v).all (fun k => tileFmt (tcfgFmt v k).toNat) = true →
    (tcfgClear s1 i v = true → (getArr s1 (i / 16)).pass = none →
      ∃ u, exec (.tcfgWrite x ⟨0, a⟩) s = .next u ∧ (getThread u i).pc = nextPc x s ∧
        ∀ k < 8, (tileOf u i k).fmt = if (tileOf s1 i k).owner = some (i % 16) then tcfgFmt v k
          else (tileOf s1 i k).fmt) ∧
    (tcfgClear s1 i v = false →
      ∃ u, exec (.tcfgWrite x ⟨0, a⟩) s = .next u ∧
        getThread u i = { getThread s1 i with hold := .tcfg v, begun := true, saveBad := false } ∧
        ∀ k, tileOf u i k = tileOf s1 i k)) ∧
  (∀ (th : Thr) (s : State) (v : Word),
    let i := thrIx th
    (getThread s i).mode = .run → (getThread s i).hold = .tcfg v → coreIssues s (i / 16) = true →
    tcfgClear s i v = true → (getArr s (i / 16)).pass = none →
    (getThread s i).stopping = false → nextEvent s i = none →
    ∃ u, exec (.tcfgApply th) s = .next u ∧ (getThread u i).pc = (getThread s i).pc + 4 ∧
      (getThread u i).hold = .none ∧
      ∀ k < 8, (tileOf u i k).fmt = if (tileOf s i k).owner = some (i % 16) then tcfgFmt v k
        else (tileOf s i k).fmt)

/-- A c.gate whose number is below the count, whose descriptor is read and passes every check and
whose push is valid goes to the descriptor's entry at its ring with the gate cause, the gate number
as FAULTINFO, and EM set where the descriptor says so and its ring is 0 or 1. A c.ret with OCC set
and legal ring, FRM and VL in the emergency frame clears OCC and restores from it; one with OCC
clear pops the frame below FRAME_PTR. Both continue at the frame's RETURN_PC with the frame's ring,
g1 to gn as they were and the other general registers from the frame. -/
def Obligations.GatesAndReturns : Prop :=
  ∀ (x : Iss) (f : CtlForm) (s : State), Issues x s → x.long = none → f.d = 0 → f.a = 0 →
    let i := thrIx x.thr
    let t := getThread s i
    let s1 := fetched x s
    let k := f.crn.toNat
    let back (u : State) (ws : List Word) : Prop :=
      (getThread u i).pc = ws.getD 0 0 ∧
      (getThread u i).ring = BitVec.ofNat 2 ((ws.getD 1 0).toNat) ∧
      (∀ r : BitVec 5, r.toNat ≤ k → getG (getThread u i) r = getG t r) ∧
      (∀ r : BitVec 5, k < r.toNat → getG (getThread u i) r = ws.getD (4 + r.toNat) 0) ∧
      (getThread u i).fflags = BitVec.ofNat 6 (ws.getD 41 0).toNat ∧
      (getThread u i).seed = ws.getD 43 0
    (∀ ws lo hi s2 s3, k < t.gatebase.toNat % 2 ^ 13 →
      readWords (monitorAgent s1 i) 2 s1
        (BitVec.ofNat 64 (t.gatebase.toNat / 2 ^ 16 * 2 ^ 16 + 16 * k)) = (s2, .inl ws) →
      ws = [lo, hi] → gateCheck t.ring lo hi = none →
      pushFrame s2 i (t.pc + 4) (causeWord t.ring false 0x83) (BitVec.ofNat 64 k) = (s3, .ok) →
      ∃ u, exec (.cGate x f) s = .next u ∧ (getThread u i).pc = lo ∧
        (getThread u i).ring = BitVec.ofNat 2 (hi.toNat / 2 ^ 58) ∧
        (getThread u i).faultinfo = BitVec.ofNat 64 k ∧
        (getThread u i).cause = causeWord t.ring false 0x83 ∧
        (getThread u i).em = ((getThread s3 i).em ||
          (hi.getLsbD 55 && decide (hi.toNat / 2 ^ 58 % 4 ≤ 1))) ∧
        (∀ r, getG (getThread u i) r = getG (getThread s3 i) r) ∧ u.mem = s3.mem ∧ u.l2 = s3.l2) ∧
    (k ≤ 29 → occBit s1 i = true → frameLegal t (eframeWords s1 i) = true →
      ∃ u, exec (.cRet x f) s = .next u ∧ occBit u i = false ∧ back u (eframeWords s1 i) ∧
        u.mem = s1.mem) ∧
    (∀ ws hs s2 s3 s4 s5 pa, k ≤ 29 → occBit s1 i = false → t.tsb ≠ 0 →
      readWords (monitorAgent s1 i) 2 s1 t.tsb = (s2, .inl hs) → 0x400 ≤ (hs.getD 1 0).toNat →
      (hs.getD 1 0).toNat % 0x200 = 0 →
      readWords (monitorAgent s1 i) 64 s2 (t.tsb + hs.getD 1 0 - 0x200) = (s3, .inl ws) →
      frameLegal t ws = true →
      xlat (monitorAgent s1 i) .store s3 (t.tsb + 8) = (s4, .to pa) →
      writePa s4 (monitorAgent s1 i) pa 8 ((hs.getD 1 0).toNat - 0x200) = (s5, none) →
      ∃ u, exec (.cRet x f) s = .next u ∧ back u ws ∧ u.mem = s5.mem ∧ u.l2 = s5.l2)

/-- c.nop completes and changes nothing but the pc; c.isync discards every line of its core's L1
instruction cache and microcode cache, forgets the lines that cache has asked for, and completes;
c.brk takes BREAKPOINT with its own address as FAULTINFO, or stops a thread that the debug port has
claimed in DEBUG with its pc unchanged; c.pf always completes, without a fault, and of a line that
translates, is in memory, not held, not pending and has room asks its home bank for a prefetch. -/
def Obligations.SmallControlInstructions : Prop :=
  ∀ (x : Iss) (f : CtlForm) (s : State), Issues x s → x.long = none →
    let i := thrIx x.thr
    let t := getThread s i
    let s1 := fetched x s
    (f.d = 0 → f.a = 0 → f.crn = 0 →
      (∃ u, exec (.cNop x f) s = .next u ∧ completes x s u id (nextPc x s)) ∧
      (∃ u, exec (.cIsync x f) s = .next u ∧ (getCore u (i / 16)).l1i = [] ∧
        (getCore u (i / 16)).ucache = [] ∧ (getCore u (i / 16)).imisses = [] ∧ (getCore u (i / 16)).l1d = (getCore s1 (i / 16)).l1d ∧
        (getThread u i).settled = Thread.settled { t with pc := nextPc x s } ∧ u.mem = s1.mem) ∧
      exec (.cBrk x f) s = .next (takeFault false (countIssue s1 i) i 0x11 t.pc) ∧
      (t.claimed = true → ∃ u, exec (.cBrk x f) s = .next u ∧ (getThread u i).mode = .debug ∧
        (getThread u i).pc = t.pc ∧ u.mem = s1.mem)) ∧
    (f.d.toNat < 4 → ∃ u, exec (.cPf x f) s = .next u ∧
      (getThread u i).settled = Thread.settled { t with pc := nextPc x s }) ∧
    (∀ s2 pa, f.d.toNat < 4 →
      xlat { threadAgent s1 i with cls := coreCls (i / 16) 5, age := 2 } .load s1
        (getG t f.a + f.crn.signExtend 64) = (s2, .to pa) →
      inMemory s2 (128 * (pa / 128)) = true → tabFind (getCore s2 (i / 16)).l1d (pa / 128) = none →
      missPending (getCore s2 (i / 16)) (pa / 128) = false → l1Blocks s2 (i / 16) = false →
      missFits s2 (i / 16) (pa / 128) = true →
      ((getCore s2 (i / 16)).misses.filter (fun m => m.pf)).length < 16 →
      ∃ u w, exec (.cPf x f) s = .next u ∧
        (getBank u (lineBank (pa / 128))).waiting =
          (getBank s2 (lineBank (pa / 128))).waiting ++ [w] ∧
        w.item.kind = .prefetch (f.d.getLsbD 0) ∧ w.item.line = pa / 128 ∧
        (getThread u i).settled = Thread.settled { t with pc := nextPc x s } ∧
        u.mem = s2.mem ∧ u.l2 = s2.l2)

/-- cust.k that issues in a quadrant with no microcode commit pending, with FN[5:4] and XF 0,
through an enabled slot its ring may use, starts its routine with every micro-temporary, LC and
condition flag 0 and its pc unchanged. A legal micro-word of a thread whose turn it is, with a
scalar operation, no vector operation and no memory access, whose destination is a micro-temporary,
writes its result there and goes on at NEXT inside the routine, or, at SEQ END, ends the
instruction, and its thread stands after the instruction's last word. No memory byte changes. -/
def Obligations.CustomInstructions : Prop :=
  (∀ (x : Iss) (f : CustForm) (s : State), Issues x s →
    let i := thrIx x.thr
    let s1 := fetched x s
    let t := getThread s i
    let w := decSlot s1 (i / 16 / 34) f.slot
    ucodePending s1 (i / 16 / 34) = false → custForm x f = true → slotOpen w t.ring = true →
    ∃ u c, exec (.cust x f) s = .next u ∧ (getThread u i).custom = some c ∧
      c.upc = w.toNat % 2 ^ 16 ∧ c.u = [] ∧ c.lc = 0 ∧ (c.z || c.n || c.c || c.v) = false ∧
      c.form = f ∧ c.long = x.long ∧ (getThread u i).pc = t.pc ∧ u.mem = s1.mem) ∧
  (∀ (th : Thr) (busy : BitVec 16) (s : State) (c : Custom),
    let i := thrIx th
    let t := getThread s i
    let key := 65536 * (i / 16 / 34) + c.upc
    let w := tabGet (fun _ => (0 : BitVec 96)) s.ucode key
    let slot := decSlot s (i / 16 / 34) c.form.slot
    let r := (sopApply t (mSop w)
      (microSrc t c slot (mImm w) (Config.freeWord s.fresh) (mSa w))
      (microSrc t c slot (mImm w) (Config.freeWord (s.fresh + 1)) (mSb w))).1
    t.custom = some c → canMicro s i = true → inTurn s busy i = true → key ∉ s.ucodeBad → microLegal w c.form = true →
    mUnit w = 0 → mMem w = 0 → mSop w ≠ 0 → mSd w < 8 →
    (mSeq w = 0 → inRoutine slot (mNext w) = true → c.count + 1 < 2 ^ 20 →
      ∃ u c', exec (.microWord th ⟨false, none, busy⟩) s = .next u ∧ (getThread u i).custom = some c' ∧
        c'.upc = mNext w ∧ tabGet zeroWord c'.u (mSd w) = r ∧
        (∀ k, k ≠ mSd w → tabGet zeroWord c'.u k = tabGet zeroWord c.u k) ∧
        (getThread u i).pc = t.pc ∧ (getThread u i).g = t.g ∧ u.mem = s.mem ∧ u.l2 = s.l2) ∧
    (mSeq w = 5 →
      ∃ u, exec (.microWord th ⟨false, none, busy⟩) s = .next u ∧ (getThread u i).custom = none ∧
        (getThread u i).pc = t.pc + BitVec.ofNat 64 (4 * (match c.long with
          | none => 1
          | some p => 2 + litWords p.lit)) ∧ (getThread u i).g = t.g ∧ u.mem = s.mem))

/-- THREAD_START of an OFF thread of a present core by a sender that may write CORE_THR_EN, whose
bit is 0, while no test holds the core and the core has not stopped issuing, puts the thread into
RUN at ENTRY1 with every general register and position register 0, RING 1, EM 1, DEPTH 0, TSB 0, no
latched interrupt, CAUSE THREAD_START and its TID in FAULTINFO; no frame is pushed, so memory is
unchanged, as is every other thread. -/
def Obligations.ThreadStart : Prop :=
  ∀ (src : Sender) (th : Thr) (s : State),
    let i := thrIx th
    mayWrite s src 1 = true → corePresent s (thrCore th) = true →
    (rget s (coreReg (i / 16) 0x8)).getLsbD (i % 16) = false → hasThread i = true →
    (getThread s i).mode = .off → underTest s i = false → (getCore s (i / 16)).stopped = false →
    ∃ u, exec (.threadStart src th) s = .next u ∧
      (getThread u i).mode = .run ∧ (getThread u i).pc = s.deckEntry1 ∧
      (∀ r, getG (getThread u i) r = 0) ∧ (getThread u i).vstart = 0 ∧ (getThread u i).tstart = 0 ∧
      (getThread u i).apos = 0 ∧ (getThread u i).ring = 1 ∧ (getThread u i).em = true ∧
      (getThread u i).depth = 0 ∧ (getThread u i).tsb = 0 ∧ (getThread u i).ipend = 0 ∧
      (getThread u i).cause = 0x60 ∧ (getThread u i).faultinfo = tidWord s i ∧
      (rget u (coreReg (i / 16) 0x8)).getLsbD (i % 16) = true ∧ u.mem = s.mem ∧
      (∀ j, j ≠ i → getThread u j = getThread s j)

/-- THREAD_STOP of a running thread clears its bit of CORE_THR_EN and leaves its registers; from
then on it can issue nothing but the rest of an instruction that runs to completion. THREAD_OFF of a
stopping thread at a boundary, halted or under the debugger, whose pass can end, with no grant on
its way and no test on its core, puts it into OFF with every register discarded, takes it out of
every waiter list, and leaves it no tile and no array. In every other state THREAD_OFF changes
nothing. -/
def Obligations.ThreadStopAndOff : Prop :=
  ∀ (src : Sender) (th : Thr) (s : State),
    let i := thrIx th
    (mayWrite s src 1 = true → corePresent s (thrCore th) = true →
      (rget s (coreReg (i / 16) 0x8)).getLsbD (i % 16) = true → (getThread s i).mode ≠ .off →
      underTest s i = false →
      ∃ u, exec (.threadStop src th) s = .next u ∧
        (rget u (coreReg (i / 16) 0x8)).getLsbD (i % 16) = false ∧
        ((getThread s i).midway = false → canIssue u i = false) ∧
        getThread u i = { getThread s i with stopping := true } ∧
        (∀ j, j ≠ i → getThread u j = getThread s j) ∧ u.mem = s.mem) ∧
    (mayTurnOff s i = true →
      ∃ u, exec (.threadOff th) s = .next u ∧ (getThread u i).mode = .off ∧
        (∀ r, getG (getThread u i) r = 0) ∧ (∀ r, getV (getThread u i) r = 0) ∧
        (∀ o, ∀ w ∈ (getObj u o).waiters, w.queue ≠ queueOf i) ∧
        (∀ k < 8, (tileOf u i k).owner ≠ some (i % 16)) ∧ (getArr u (i / 16)).owner ≠ some (i % 16)) ∧
    (mayTurnOff s i = false → exec (.threadOff th) s = .next s)

/-- TIMER_EXPIRE of a timer that runs and stands at 1 sets PEND and, where no further cycle has
passed with that step, leaves the reload value in the timer with AUTO 1 and 0 with AUTO 0. A write
of CORE_TIMER in the cycle of that step leaves PEND set and the written value in the timer, whatever
AUTO is; any other granted write leaves the written value. -/
def Obligations.CoreTimer : Prop :=
  ∀ (c : CoreRef) (s : State),
    let ctl := coreReg (cix c) 0x20
    let tim := coreReg (cix c) 0x28
    (timerDue s (cix c) = true →
      ∃ u, exec (.timerExpire c) s = .next u ∧ (rget u ctl).getLsbD 8 = true ∧
        ((getCore s (cix c)).timerOwed ≤ 1 →
          rget u tim = if (rget s ctl).getLsbD 30 then rget s (coreReg (cix c) 0x30) else 0) ∧
        u.threads = s.threads ∧ u.mem = s.mem) ∧
    (∀ (src : Sender) (val : Word) (z : Bool), mayWrite s src 1 = true →
      corePresent s (cix c) = true →
      ∃ u, exec (.coreTimerWrite src c val z) s = .next u ∧ rget u tim = val &&& 0xFFFFFFFF ∧
        (z && timerDue s (cix c) → (rget u ctl).getLsbD 8 = true) ∧ u.threads = s.threads ∧
        u.mem = s.mem)

/-- An exception of a thread that finds its entry ring r and makes a valid push continues at ENTRY r
of the state after the push, at ring r, with CAUSE and FAULTINFO of the event, in RUN, EM set only
by the events that set it; where the context manager holds the push, the entry is kept in progress
and the held write is listed. With EM 0, no deferred condition and one interrupt pending,
EXCEPTION_TAKE at a boundary takes that interrupt, clears its latch and sets EM. A thread whose TSB
is 0, with OCC clear and ENTRY0 not 0, has its state saved in the emergency frame, OCC set, and
enters ENTRY0 at ring 0 with CAUSE FRAME_INVALID. An instruction whose body would complete but that
reads a structure with an uncorrectable error at index n takes MEM_SRAM with FAULTINFO n in place of
its effect, and UE_CONSUMED is reported, its INFO naming the core (the model's coding, log entry
136). -/
def Obligations.ExceptionEntry : Prop :=
  (∀ (s : State) (i r : Nat) (ret info : Word) (code : BitVec 8) (em bad : Bool),
    let t := getThread s i
    let push := pushFrame s i ret (causeWord t.ring t.partway code) info
    let u := push.1
    let v := takeException bad s i ret code info em
    entryRing t (min t.ring.toNat (causeRing code)) = some r → r < 4 →
    (∀ need, push.2 = .held need → (getThread v i).hold = .entry ret code info em ∧
      (getThread v i).mode = .run ∧ ∃ h ∈ v.ctx.held, h.thr = some i ∧ h.need = need) ∧
    (push.2 = .ok → (getThread v i).ring.toNat = r ∧ (getThread v i).pc = getEntry (getThread u i) r ∧
      (getThread v i).cause = causeWord t.ring t.partway code ∧ (getThread v i).faultinfo = info ∧
      (getThread v i).mode = .run ∧ (getThread v i).em = ((getThread u i).em || em) ∧
      (∀ g, getG (getThread v i) g = getG (getThread u i) g) ∧ v.mem = u.mem ∧
      r ≤ t.ring.toNat)) ∧
  (∀ (th : Thr) (bad : Bool) (s u : State) (n r : Nat),
    let i := thrIx th
    let t := getThread s i
    corePresent s (i / 16) = true → (getCore s (i / 16)).stopped = false →
    (getCore s (i / 16)).testing = false → t.mode = .run → t.hold = .none → t.midway = false → t.em = false →
    t.custom = none → maskedPending s i = false → t.deferred = [] → n < 32 →
    lowestInterrupt (ipendWord s i) = some n →
    let s1 := setThread (clearEvent s i (BitVec.ofNat 8 (0x60 + n))) i
      { getThread (clearEvent s i (BitVec.ofNat 8 (0x60 + n))) i with
        custRestart := t.custRestart, custom := none }
    entryRing t (min t.ring.toNat 1) = some r → n < 16 →
    pushFrame s1 i t.pc (causeWord t.ring t.partway (BitVec.ofNat 8 (0x60 + n)))
      (tabGet zeroWord t.ipendInfo (0x60 + n)) = (u, .ok) →
    ∃ v, exec (.exceptionTake ⟨th, bad⟩) s = .next v ∧
      (getThread v i).pc = getEntry (getThread u i) r ∧ (getThread v i).em = true ∧
      (getThread v i).ipend = (getThread u i).ipend ∧ ((getThread s1 i).ipend).getLsbD n = false ∧
      (getThread v i).cause.toNat % 2 ^ 8 = 0x60 + n) ∧
  (∀ (s : State) (i : Nat) (ret info : Word) (code : BitVec 8) (em : Bool),
    let t := getThread s i
    t.tsb = 0 → occBit s i = false → getEntry t 0 ≠ 0 →
    let v := takeException false s i ret code info em
    (getThread v i).pc = getEntry t 0 ∧ (getThread v i).ring = 0 ∧ (getThread v i).em = true ∧
      (getThread v i).cause = causeWord t.ring t.partway 0x90 ∧ (getThread v i).faultinfo = 0 ∧
      occBit v i = true ∧ v.mem = s.mem) ∧
  (∀ (x : Iss) (body : Nat → State → Body) (s u : State) (n : Word),
    let i := thrIx x.thr
    x.code = none → x.ue = some (.index n) → canIssue s i = true → (getThread s i).begun = false →
    inTurn s x.busy i = true → (fetchOf x s).2 = .ok →
    (body i (fetched x s) = .done u ∨ ∃ pc, body i (fetched x s) = .goto u pc) →
    issue x body s = takeFault false (countIssue
      (ueIn (fetched x s) (unitOf (i / 16 / 34) (i / 16 % 34)) n inCore) i) i 0x41 n)

/-- A synchronous fault of an unclaimed thread with EM 1 and OCC clear whose quadrant has a monitor
thread that can take the event puts the thread into HALT with OCC set, its address in word 0 of its
emergency frame, its general registers in words 4 to 35, MASKED_FAULT and the fault's code in the
halt words, and makes MASKED_FAULT pending with the thread's TID for the monitor; memory is
unchanged. RESUME, while no test has the core, of a halted thread with OCC set puts it into RUN at
the address its emergency frame holds and clears OCC; of any other thread it changes nothing. -/
def Obligations.MaskedFaults : Prop :=
  (∀ (s : State) (i : Nat) (code : BitVec 8) (info : Word),
    let t := getThread s i
    let m := monitorOf s (i / 16 / 34)
    i < 2176 → t.em = true → t.claimed = false → occBit s i = false → m ≠ i →
    corePresent s (m / 16) = true → (getThread s m).mode ≠ .off → (getThread s m).mode ≠ .halt →
    let v := takeFault false s i code info
    (getThread v i).mode = .halt ∧ occBit v i = true ∧ rget v (eframeOff i 0) = t.pc ∧
      (∀ r : BitVec 5, rget v (eframeOff i (4 + r.toNat)) = getG t r) ∧
      rget v (eframeOff i 48) = 0x91 ∧ rget v (eframeOff i 49) = code.zeroExtend 64 ∧
      (rget v (qcmOff (i / 16 / 34) 0x18)).getLsbD 16 = true ∧
      tabGet zeroWord v.maskedTid (i / 16 / 34) = tidWord s i ∧ v.mem = s.mem) ∧
  (∀ (src : Sender) (th : Thr) (s : State),
    let i := thrIx th
    let t := getThread s i
    mayWrite s src 0 = true → corePresent s (thrCore th) = true → underTest s i = false →
    (t.mode = .halt → occBit s i = true → (getCore s (i / 16)).stopped = false →
      ∃ u, exec (.resume src th) s = .next u ∧ (getThread u i).mode = .run ∧
        occBit u i = false ∧ (getThread u i).pc = rget s (eframeOff i 0) ∧
        (∀ r : BitVec 5, r ≠ 0 → getG (getThread u i) r = rget s (eframeOff i (4 + r.toNat))) ∧
        u.mem = s.mem) ∧
    (¬(t.mode = .halt ∧ occBit s i = true ∧ (getCore s (i / 16)).stopped = false) →
      exec (.resume src th) s = .next s))

/-- For element widths that divide 4,096, after element i of an operand has been written it reads as
the low bits of the value, and every other element of that width in every operand, every mask
register, every general register and the rest of the thread are as before; writing a bit of a mask
register changes that bit only. -/
def Obligations.VectorElements : Prop :=
  (∀ (t : Thread) (n w i x : Nat), w ∈ [4, 8, 16, 32, 64] →
    vget (vput t n w i x) n w i = x % 2 ^ w ∧
    (∀ j, j ≠ i → vget (vput t n w i x) n w j = vget t n w j) ∧
    (∀ r, r ≠ n + i * w / 4096 → getV (vput t n w i x) r = getV t r) ∧
    { vput t n w i x with v := [] } = { t with v := [] }) ∧
  (∀ (t : Thread) (r i : Nat) (b : Bool), i < 4096 →
    (getM (maskPutAll t r [(i, b)]) r).getLsbD i = b ∧
    (∀ j, j ≠ i → (getM (maskPutAll t r [(i, b)]) r).getLsbD j = (getM t r).getLsbD j) ∧
    (∀ q, q ≠ r → getM (maskPutAll t r [(i, b)]) q = getM t q))

/-- A vector integer instruction that issues in a legal form under a legal configuration writes, for
every active element in ascending order, the result of its operation on the elements of va and of vb
(or the low bits of general register b where XF[2] is 1) at the class's width, leaves every other
element, sets VSTART to 0 and completes with nothing else changed since the fetch. Shift amounts are
taken modulo the width. Compares write one bit of mask register vd for each active element. An
illegal configuration raises VECTOR_CONFIG with VL. -/
def Obligations.VectorIntegers : Prop :=
  ∀ (x : Iss) (f : VClassForm) (s : State), Issues x s →
    vform x f.msk f.mreg 4 false false = true → f.cls.toNat < 4 →
    let i := thrIx x.thr
    let t := getThread s i
    let w := 8 * 2 ^ f.cls.toNat
    let sc := vxf x 2
    let a (k : Nat) : Nat := vget t f.va.toNat w k
    let b (k : Nat) : Nat := if sc then (getG t f.vb).toNat % 2 ^ w else vget t f.vb.toNat w k
    let act := vactives t f.msk f.mreg
    let srcs := vopnd t w f.va w :: (if sc then [] else [vopnd t w f.vb w])
    let ops : List (Instr × (Nat → Nat)) :=
      [(.vAdd x f, fun k => (a k + b k) % 2 ^ w), (.vSub x f, fun k => (a k + (2 ^ w - b k)) % 2 ^ w),
        (.vAnd x f, fun k => a k &&& b k), (.vOr x f, fun k => a k ||| b k),
        (.vXor x f, fun k => a k ^^^ b k), (.vSll x f, fun k => (a k <<< (b k % w)) % 2 ^ w),
        (.vSrl x f, fun k => a k >>> (b k % w)),
        (.vSra x f, fun k => intCode w (sext w (a k) / 2 ^ (b k % w))),
        (.vMin x f, fun k => if sext w (a k) ≤ sext w (b k) then a k else b k),
        (.vMax x f, fun k => if sext w (a k) ≤ sext w (b k) then b k else a k),
        (.vMinu x f, fun k => min (a k) (b k)), (.vMaxu x f, fun k => max (a k) (b k))]
    let cmps : List (Instr × (Nat → Bool)) :=
      [(.vCmpEq x f, fun k => decide (a k = b k)), (.vCmpNe x f, fun k => decide (a k ≠ b k)),
        (.vCmpLt x f, fun k => decide (sext w (a k) < sext w (b k))),
        (.vCmpLtu x f, fun k => decide (a k < b k))]
    (vconfig t w srcs [vopnd t w f.vd w] true false = true →
      ∀ co ∈ ops, ∃ u, exec co.1 s = .next u ∧ completes x s u (fun th =>
        { vputAll th f.vd.toNat w (act.map (fun k => (k, co.2 k))) with vstart := 0 }) (nextPc x s)) ∧
    (vconfig t w srcs [] true false = true → f.vd.toNat < 8 →
      ∀ co ∈ cmps, ∃ u, exec co.1 s = .next u ∧ completes x s u (fun th =>
        { maskPutAll th f.vd.toNat (act.map (fun k => (k, co.2 k))) with vstart := 0 }) (nextPc x s)) ∧
    (vconfig t w srcs [vopnd t w f.vd w] true false = false → ∀ co ∈ ops,
      exec co.1 s = .next (takeFault false (countIssue (fetched x s) i) i 0x0D (BitVec.ofNat 64 t.vl.toNat)))

/-- v.crc.s, v.par and v.brev that issue in a legal form and configuration write the CRC step of
64-bit elements with CRCPOLY, the parity or the bit reversal of every active element. Mask
instructions act on bits 0 to VL - 1: where VL is at most 4,096, and, or and not replace those bits
of vd and keep the rest, m.pop counts the 1 bits into a general register, m.first gives the lowest
index set or all ones. Each sets VSTART to 0 and completes with nothing else changed since the
fetch. -/
def Obligations.VectorBitsAndMasks : Prop :=
  (∀ (x : Iss) (f : VBitForm) (s : State), Issues x s →
    vform x f.msk f.mreg 0 false false = true →
    let t := getThread s (thrIx x.thr)
    let n := 8 * 2 ^ f.n.toNat
    let act := vactives t f.msk f.mreg
    let put (c : Instr) (w : Nat) (e : Nat → Nat) : Prop :=
      ∃ u, exec c s = .next u ∧ completes x s u (fun th =>
        { vputAll th f.vd.toNat w (act.map (fun k => (k, e k))) with vstart := 0 }) (nextPc x s)
    (vconfig t 64 [vopnd t 64 f.va 64, vopnd t 64 f.vb 64] [vopnd t 64 f.vd 64] true false = true →
      put (.vCrcS x f) 64 (fun k => (crcStep f.refl n t.crcpoly (BitVec.ofNat 64 (vget t f.va.toNat 64 k))
        (BitVec.ofNat 64 (vget t f.vb.toNat 64 k))).toNat)) ∧
    (vconfig t n [vopnd t n f.va n] [vopnd t n f.vd n] true false = true →
      put (.vPar x f) n (fun k => (parity n (BitVec.ofNat 64 (vget t f.va.toNat n k))).toNat) ∧
      put (.vBrev x f) n (fun k => (brev n (BitVec.ofNat 64 (vget t f.va.toNat n k))).toNat))) ∧
  (∀ (x : Iss) (f : VMaskForm) (s : State), Issues x s →
    vform x f.msk f.mreg 0 false false = true → f.msk = false → f.va.toNat < 8 →
    let t := getThread s (thrIx x.thr)
    let vl := t.vl.toNat
    vl ≤ 4096 →
    let a := (getM t f.va.toNat).toNat % 2 ^ vl
    let b := (getM t f.vb.toNat).toNat % 2 ^ vl
    let put (c : Instr) (r : Nat) : Prop :=
      ∃ u, exec c s = .next u ∧ completes x s u (fun th =>
        { setM th f.vd.toNat (vregPut (getM t f.vd.toNat) 0 vl r) with vstart := 0 }) (nextPc x s)
    let count (c : Instr) (r : Word) : Prop :=
      ∃ u, exec c s = .next u ∧ completes x s u (fun th => { setG th f.vd r with vstart := 0 }) (nextPc x s)
    (f.vd.toNat < 8 → f.vb.toNat < 8 → put (.mAnd x f) (a &&& b) ∧ put (.mOr x f) (a ||| b)) ∧
    (f.vd.toNat < 8 → put (.mNot x f) (2 ^ vl - 1 - a)) ∧
    count (.mPop x f) (BitVec.ofNat 64 ((List.range vl).countP (fun k => a.testBit k))) ∧
    (∃ r, count (.mFirst x f) r ∧ (a = 0 → r = BitVec.allOnes 64) ∧
      (∀ k, k < vl → a.testBit k = true → (∀ j < k, a.testBit j = false) → r = BitVec.ofNat 64 k)))

/-- A vector FP instruction of G16, FP32 or FP64 that issues in a legal form under a legal
configuration computes every active element from the elements of va, of vb (or general register b)
and, for the fused forms, the old element of vd, with the thread's FRM or the RND of its long form,
ORs the flags of all elements into FFLAGS together, moves SEED.CTR on by VL where it rounds a short
format stochastically, sets VSTART to 0 and completes; compares write mask bits. No other register
and no memory changes after the fetch. -/
def Obligations.VectorFloats : Prop :=
  ∀ (x : Iss) (f : VClassForm) (s : State), Issues x s →
    vform x f.msk f.mreg 7 false false = true → f.cls.toNat < 3 →
    let t := getThread s (thrIx x.thr)
    let fmt := 10 + f.cls.toNat
    let w := fmtWidth fmt
    let sc := vxf x 2
    let act := vactives t f.msk f.mreg
    let srcs := vopnd t w f.va w :: (if sc then [] else [vopnd t w f.vb w])
    let r (k e : Nat) : Nat × FFlags := vfloatOp k fmt t.frm.toNat (vrnd x)
      (if vrnd x = 2 then srBits (t.seed.toNat / 2 ^ 32) (t.seed.toNat % 2 ^ 32) e else 0)
      (vget t f.va.toNat w e) (if sc then (getG t f.vb).toNat % 2 ^ w else vget t f.vb.toNat w e)
      (vget t f.vd.toNat w e)
    let flags (k : Nat) : FFlags := act.foldl (fun acc e => acc ||| (r k e).2) 0
    let seedOf (th : Thread) : Word := if vrnd x = 2 ∧ fmt = 10 then
      setField th.seed 0 32 (th.seed.toNat % 2 ^ 32 + t.vl.toNat) else th.seed
    ∀ ck ∈ ([(.vFma x f, 0), (.vFms x f, 1), (.vFnma x f, 2), (.vFnms x f, 3), (.vMul x f, 4),
        (.vAddF x f, 5), (.vSubF x f, 6), (.vMaxF x f, 7), (.vMinF x f, 8), (.vCmpEqF x f, 9),
        (.vCmpLtF x f, 10), (.vCmpLeF x f, 11)] : List (Instr × Nat)),
      let old := if ck.2 < 4 then [vopnd t w f.vd w] else []
      (ck.2 < 9 → vconfig t w (srcs ++ old) [vopnd t w f.vd w] true false = true →
        ∃ u, exec ck.1 s = .next u ∧ completes x s u (fun th =>
          { vputAll th f.vd.toNat w (act.map (fun e => (e, (r ck.2 e).1))) with
            vstart := 0, seed := seedOf th, fflags := th.fflags ||| flags ck.2 }) (nextPc x s)) ∧
      (9 ≤ ck.2 → f.vd.toNat < 8 → vconfig t w srcs [] true false = true →
        ∃ u, exec ck.1 s = .next u ∧ completes x s u (fun th =>
          { maskPutAll th f.vd.toNat (act.map (fun e => (e, decide ((r ck.2 e).1 = 1)))) with
            vstart := 0, fflags := th.fflags ||| flags ck.2 }) (nextPc x s))

/-- Each of v.cvt, v.wmul, v.dot4, v.dot2, v.rng, v.exp.step and v.rcp.step that issues in a legal
form, and whose operation finds its configuration legal, completes with the registers its operation
gives, VSTART 0 and its flags ORed into FFLAGS; nothing outside the thread changes after the fetch.
v.rng writes the draws of its active elements and moves SEED.CTR on by VL times the draws of an
element. -/
def Obligations.VectorConversions : Prop :=
  ∀ (x : Iss) (f : VFmtForm) (s : State), Issues x s →
    let t := getThread s (thrIx x.thr)
    let fmt := f.fmt.toNat
    let dst := f.vb.toNat % 16
    let g4 := decide (fmt = 6 ∨ dst = 6)
    let done (c : Instr) (r : Option (Thread × FFlags)) : Prop :=
      ∀ v, r = some v → ∃ u, exec c s = .next u ∧ completes x s u (fun _ =>
        { v.1 with vstart := 0, fflags := v.1.fflags ||| v.2 }) (nextPc x s)
    (vform x f.msk f.mreg 3 g4 false = true → cvtFmt fmt = true → cvtFmt dst = true →
      f.vb.toNat < 16 → (g4 = true → x.long.isSome = true ∧ f.msk = false) →
      done (.vCvt x f) (vcvtApply fmt dst (vrnd x) f.vd f.va (vx1 x) f.msk f.mreg t)) ∧
    (vform x f.msk f.mreg 3 false false = true →
      (wideFmt fmt < 16 → done (.vWmul x f) (vwmulApply fmt (vrnd x) f t)) ∧
      (fmt = 2 ∨ fmt = 10 → done (.vDot2 x f) (vdotApply 2 fmt fmt f t)) ∧
      (10 ≤ fmt → fmt ≤ 12 → done (.vExpStep x f) (vstepApply fmt (vrnd x) f expOp expG16 t) ∧
        done (.vRcpStep x f) (vstepApply fmt (vrnd x) f rcpOp rcpG16 t)) ∧
      (0 < rngDraws fmt → vconfig t (fmtWidth fmt) [] [vopnd t (fmtWidth fmt) f.vd (fmtWidth fmt)]
          true false = true →
        ∃ u, exec (.vRng x f) s = .next u ∧ completes x s u (fun th =>
          { vputAll th f.vd.toNat (fmtWidth fmt) ((vactives t f.msk f.mreg).map (fun k =>
              (k, rngElem t fmt k))) with
            vstart := 0
            seed := setField th.seed 0 32 (th.seed.toNat % 2 ^ 32 + t.vl.toNat * rngDraws fmt) })
          (nextPc x s))) ∧
    (let fb : Nat := match x.long with
       | some p => p.xf.toNat / 16 % 16
       | none => fmt
     vform x f.msk f.mreg 0xF3 false false = true →
      (fmt < 2 ∧ fb < 2) ∨ ((fmt = 8 ∨ fmt = 9) ∧ (fb = 8 ∨ fb = 9)) →
      done (.vDot4 x f) (vdotApply 4 fmt fb f t))

/-- A permute that issues in a legal form and configuration with VSTART 0 gives each active element
of vd: v.perm the element of va at the index vb holds (0 for an index that is negative or at least
VL); a slide down the element i + n, or 0 past VL; a slide up the element i - n, elements below n
keeping their value; a broadcast the low bits of general register b. v.red, v.sort, v.merge,
v.isect, v.uniq and v.topk complete with the registers their operation gives. Each sets VSTART to 0,
and nothing else changes after the fetch but the flags of v.red. -/
def Obligations.VectorPermutes : Prop :=
  ∀ (x : Iss) (f : VFmtForm) (s : State), Issues x s →
    let t := getThread s (thrIx x.thr)
    let fmt := f.fmt.toNat
    let w := fmtWidth fmt
    let n := (getG t f.vb).toNat
    let act := vactives t f.msk f.mreg
    let el (k : Nat) : Nat := vget t f.va.toNat w k
    let ix (k : Nat) : Int := sext 16 (vget t f.vb.toNat 16 k)
    let put (c : Instr) (es : List (Nat × Nat)) : Prop :=
      ∃ u, exec c s = .next u ∧ completes x s u (fun th =>
        { vputAll th f.vd.toNat w es with vstart := 0 }) (nextPc x s)
    let done (c : Instr) (r : Option (Thread × FFlags)) : Prop :=
      ∀ v, r = some v → ∃ u, exec c s = .next u ∧ completes x s u (fun _ =>
        { v.1 with vstart := 0, fflags := v.1.fflags ||| v.2 }) (nextPc x s)
    let order := keyOrder fmt (vxf x 3)
    let keys := keysOf t f.va w
    (vform x f.msk f.mreg 0 false false = true → fmt < 13 →
      (vconfig t w [vopnd t w f.va w, vopnd t w f.vb 16] [vopnd t w f.vd w] false true = true →
        put (.vPerm x f) (act.map (fun k =>
          (k, if 0 ≤ ix k ∧ ix k < t.vl.toNat then el (ix k).toNat else 0)))) ∧
      (vconfig t w [vopnd t w f.va w] [vopnd t w f.vd w] false true = true →
        put (.vSlideUp x f) ((act.filter (fun k => decide (n ≤ k))).map (fun k => (k, el (k - n)))) ∧
        put (.vSlideDn x f) (act.map (fun k => (k, if k + n < t.vl.toNat then el (k + n) else 0)))) ∧
      (vconfig t w [] [vopnd t w f.vd w] false true = true →
        put (.vBcast x f) (act.map (fun k => (k, n % 2 ^ w)))) ∧
      (redFmt fmt = true → f.vb.toNat % 8 < 6 →
        done (.vRed x f) (vredApply fmt (f.vb.toNat % 8) f t))) ∧
    (vform x f.msk f.mreg 8 false false = true → f.msk = false → keyFmt fmt = true →
      done (.vSortKey x f) (vsetApply fmt w false f (fun _ => (rankSort order keys).map Prod.fst) t) ∧
      done (.vSortIdx x f) (vsetApply fmt 16 false f (fun _ => (rankSort order keys).map Prod.snd) t) ∧
      done (.vMerge x f) (vmergeApply fmt (vxf x 3) f t) ∧
      done (.vIsect x f) (vsetApply fmt 16 true f (fun _ => keys.map (fun a =>
        (keysOf t f.vb w).countP (fun b => keyEqual fmt a.1 b.1))) t) ∧
      done (.vUniq x f) ((vsetApply fmt w false f (fun _ => runHeads fmt none (keys.map Prod.fst)) t).map
        (fun r => (setG r.1 f.vb (BitVec.ofNat 64 (runHeads fmt none (keys.map Prod.fst)).length), r.2))) ∧
      (n ≤ t.vl.toNat → done (.vTopk x f) (vsetApply fmt 16 false f (fun _ =>
        ((rankSort (keyOrder fmt true) keys).map Prod.snd).take n) t)))

/-- The list that v.sort.key and v.sort.idx write is a permutation of the pairs of key and index; no
key ranks before one that stands earlier; and of two keys neither of which ranks before the other,
the one with the lower index stands first. The order is by value, -0 before +0 and NaNs last, or the
reverse of it. -/
def Obligations.SortsAreStable : Prop :=
  ∀ (fmt : Nat) (desc : Bool) (t : Thread) (r : BitVec 5), keyFmt fmt = true →
    let xs := keysOf t r (fmtWidth fmt)
    let ys := rankSort (keyOrder fmt desc) xs
    ys.Perm xs ∧
    ys.Pairwise (fun a b => keyOrder fmt desc b.1 a.1 = false ∧
      (keyOrder fmt desc a.1 b.1 = false → a.2 < b.2))

/-- A vector load that issues in a legal form and configuration on an L1 that serves accesses, and
for which every active element in ascending order finds its lines in L1, completes: each element
holds what was read at the address its form gives (unit stride, register stride, index or
descriptor; with a G4 descriptor the scales of its blocks go to register X1), VSTART is 0, general
registers are unchanged and the thread stands at the next instruction. A vector store performs, for
every active element (or block of 32 of a G4 descriptor) in ascending order, the write at the
address its form gives, and completes in the same way when every write is performed; what is in
memory afterwards is what those writes left, and no vector register changes. -/
def Obligations.VectorMemory : Prop :=
  ∀ (x : Iss) (f : VFmtForm) (s s1 s2 : State), Issues x s → s1 = fetched x s →
    let i := thrIx x.thr
    let t := getThread s i
    let w := fmtWidth f.fmt.toNat
    let n := fmtBytes f.fmt.toNat
    let a := threadAgent s1 i
    let act := vactives t f.msk f.mreg
    let fin (u : State) : Prop := (getThread u i).pc = nextPc x s ∧ (getThread u i).vstart = 0 ∧
      (∀ r, getG (getThread u i) r = getG t r) ∧ u.mem = s2.mem ∧ u.l2 = s2.l2 ∧
      (getThread u i).v = (getThread s2 i).v
    let elem (addr : ElemAt) (k : Nat) (vs : List Nat) (u : Thread) : Thread :=
      vput u f.vd.toNat w k (if w = 4 then nibOf (addr t k).2 (vs.headD 0) else vs.headD 0)
    let loads (c : Instr) (addr : ElemAt) : Prop :=
      let units := act.map (fun k => (k, [((addr t k).1, n)]))
      gatherAll x i a n (fun k vs s => modThread s i (elem addr k vs)) units
        (ahead i a n (units.map Prod.snd) s1).1 = (s2, none) →
      ∃ u, exec c s = .next u ∧ fin u
    let stores (c : Instr) (pairs : Bool) (addr : ElemAt) : Prop :=
      scatterAll a n (fun _ s => s) (act.map (fun k => (k, vstoreElem t f pairs addr k))) s1 =
        (s2, none) →
      ∃ u, exec c s = .next u ∧ fin u
    l1Closed s1 (i / 16) = false →
    (vmemForm x f false true = true →
      (vmemConfig t f false [] [vopnd t w f.vd w] = true →
        loads (.vLd x f) (unitAt x f) ∧ loads (.vLds x f) (strideAt x f)) ∧
      (vmemConfig t f true [vopnd t w f.vd w] [] = true →
        stores (.vSt x f) true (unitAt x f) ∧ stores (.vSts x f) false (strideAt x f))) ∧
    (vmemForm x f false false = true →
      (vmemConfig t f false [vopnd t w f.vb 64] [vopnd t w f.vd w] = true →
        loads (.vLdx x f) (indexAt f)) ∧
      (vmemConfig t f true [vopnd t w f.vd w, vopnd t w f.vb 64] [] = true →
        stores (.vStx x f) false (indexAt f))) ∧
    (∀ ws s0, vmemForm x f (decide (f.fmt = 6)) false = true →
      let g := if f.fmt = 6 then 32 else 1
      let cs (m k : Nat) : List (List Nat) :=
        (List.range m).map (fun j => posCoords ws ((getG t f.vb).toNat + k + j))
      let put (k : Nat) (vs : List Nat) (u : Thread) : Thread :=
        let r := rowVals ws (cs 1 k) vs
        let u := vput u f.vd.toNat w k (r.1.headD 0)
        if f.fmt = 6 ∧ (scaleWins (vopnd t w f.vd w) (vx1 x).toNat ||
            scaleApart f.vd.toNat (vx1 x).toNat (k / 32) t.vl.toNat) then
          vput u (vx1 x).toNat 8 (k / 32) (r.2.headD 0) else u
      (vdesc x f (vmemConfig t f false [] (vopnd t w f.vd w :: scaleOpnd x f)) i s1 = (s0, .inl ws) →
        let units := act.map (fun k => (k, readAccs ws (cs 1 k)))
        gatherAll x i (threadAgent s0 i) 1 (fun k vs s => modThread s i (put k vs)) units
          (ahead i (threadAgent s0 i) 1 (units.map Prod.snd) s0).1 = (s2, none) →
        ∃ u, exec (.vLdd x f) s = .next u ∧ fin u) ∧
      (vdesc x f (vmemConfig t f true (vopnd t w f.vd w :: scaleOpnd x f) []) i s1 = (s0, .inl ws) →
        scatterAll (threadAgent s0 i) 1 (fun k s => addOob s i (dropped ws (cs g k)))
          ((act.filter (fun k => decide (k % g = 0))).map (fun k => (k, rowWrites ws (cs g k)
            ((List.range g).map (fun j => vget t f.vd.toNat w (k + j)))
            [vget t (vx1 x).toNat 8 (k / 32)]))) s0 = (s2, none) →
        ∃ u, exec (.vStd x f) s = .next u ∧ fin u))

/-- A write of fewer than 128 bytes to a line that L2 holds readable puts the low bytes of its value
into the line from its offset up: those bytes of the line read as the value's bytes, every other
byte of the line, every other line of L2 and all of DRAM are as before. A write of a whole line that
L2 does not hold, in a set marked lost, changes nothing and answers MEM_TAG. -/
def Obligations.WritesAtHome : Prop :=
  ∀ (s : State) (wid : Option Nat) (whos : List Nat) (skip : Option Nat) (l off size v cls age : Nat),
    (∀ ln, tabFind s.l2 l = some ln → ln.bad = 0 → off + size ≤ 128 → size < 128 →
      let r := homeMask s wid whos skip l (byteMask off size) (byteData off size v) cls age
      r.2 = none ∧ r.1.mem = s.mem ∧ (∀ k, k ≠ l → tabFind r.1.l2 k = tabFind s.l2 k) ∧
      ∃ ln', tabFind r.1.l2 l = some ln' ∧ ln'.dirty = true ∧ ln'.bad = 0 ∧
        ∀ b < 128, lineGet ln'.data b 1 =
          if off ≤ b ∧ b < off + size then v / 2 ^ (8 * (b - off)) % 256 else lineGet ln.data b 1) ∧
    (refused s l = true → homeMask s wid whos skip l (byteMask 0 128) (byteData 0 128 v) cls age =
      (s, some 0x43))

/-- On a compute core, of a tile that no claim or free under way has: t.claim with a reserved format
code is illegal; t.claim of a free tile that is not being zeroed, without a restore, makes the
thread its owner in the format asked for with all zeros and answers 0; of its own tile in the same
format it answers 0 and changes nothing; of a tile whose owner's priority is not lower it answers 2
and changes nothing. t.free without a save gives the tile back and t.zero clears it and keeps the
owner, both leaving it zeroing; an instruction naming a tile its thread does not own raises
TILE_STATE with the tile's number. TILE_ZERO_DONE ends the zeroing of its tile only. Nothing else
changes. -/
def Obligations.TileOwnership : Prop :=
  (∀ (x : Iss) (f : TileOwnForm) (s : State), Issues x s → x.long = none → f.a = 0 → f.b = 0 →
    isControl (thrIx x.thr / 16) = false →
    let i := thrIx x.thr
    let t := f.tile.toNat
    let tl := tileOf s i t
    let gives (c : Instr) (r : Thread → Thread) (g : Core → Core) : Prop :=
      ∃ u, exec c s = .next u ∧ completesCore x s u r g (nextPc x s)
    tl.resv = none →
    (13 ≤ f.fmt.toNat → exec (.tClaim x f) s =
      .next (takeFault false (countIssue (fetched x s) i) i 0x03 (getThread s i).pc)) ∧
    (tl.zeroing = false → tl.owner = none → f.flag = false → tileFmt f.fmt.toNat = true →
      gives (.tClaim x f) (fun th => setG th f.d 0)
        (fun k => setTile k t { Tile.free with owner := some (i % 16), fmt := f.fmt })) ∧
    (tl.zeroing = false → tl.owner = some (i % 16) → f.fmt = tl.fmt → f.fmt.toNat < 13 →
      gives (.tClaim x f) (fun th => setG th f.d 0) id) ∧
    (∀ o, tl.zeroing = false → tl.owner = some o → o ≠ i % 16 → f.fmt.toNat < 13 →
      (getThread s i).prio ≤ (getThread s (coreThr (i / 16) o)).prio →
      gives (.tClaim x f) (fun th => setG th f.d 2) id) ∧
    (f.d = 0 → f.flag = false → f.fmt = 0 →
      (tl.owner ≠ some (i % 16) → ∀ c ∈ [Instr.tFree x f, .tZero x f],
        exec c s = .next (takeFault false (countIssue (fetched x s) i) i 0x0B (BitVec.ofNat 64 t))) ∧
      (tl.owner = some (i % 16) → tl.zeroing = false → ldwNames s i t = false →
        (∀ p, (getArr s (i / 16)).pass = some p → fromTile t p = false) →
        gives (.tFree x f) id (fun k => setTile k t { Tile.free with zeroing := true }) ∧
        gives (.tZero x f) id (fun k => setTile k t
          { owner := some (i % 16), fmt := tl.fmt, use := false, rows := [], scales := []
            zeroing := true, resv := none })))) ∧
  (∀ (c : CoreRef) (t : BitVec 3) (s : State), ∃ u, exec (.tileZeroDone c t) s = .next u ∧
    getTile (getCore u (cix c)) t.toNat =
      { getTile (getCore s (cix c)) t.toNat with zeroing := false } ∧
    (∀ k, k ≠ t.toNat → getTile (getCore u (cix c)) k = getTile (getCore s (cix c)) k) ∧
    { getCore u (cix c) with tiles := [] } = { getCore s (cix c) with tiles := [] } ∧
    (∀ k, k ≠ cix c → getCore u k = getCore s k) ∧
    { u with cores := [] } = { s with cores := [] })

/-- A tile load or store of a tile that its thread owns and that nothing else has, on an L1 that
serves accesses, in a legal form (the long form for G4), with a row count in range and TSTART below
it, works on the rows from TSTART in ascending order (groups of 8 for a transposed load). If every
access of a load hits, the tile holds in each row or column what its accesses returned; if every
write of a store is performed, memory is what those writes left and the tile is as before. TSTART is
then 0, general and vector registers are unchanged, and the thread stands at the next instruction.
The descriptor forms do the same at the addresses the descriptor gives. -/
def Obligations.TileMemory : Prop :=
  ∀ (x : Iss) (f : TileMemForm) (s s0 s2 : State), Issues x s → tileForm x f = true →
    isControl (thrIx x.thr / 16) = false →
    let i := thrIx x.thr
    let t := f.d.toNat
    let th := getThread s i
    let s1 := fetched x s
    let tl := tileOf s i t
    let fmt := tl.fmt.toNat
    let w := fmtWidth fmt
    let n := (getG th f.c).toNat
    let st := th.tstart.toNat
    let st8 := st / 8 * 8
    let rows := (List.range (n - st)).map (fun k => st + k)
    l1Closed s1 (i / 16) = false →
    tl.owner = some (i % 16) → tl.zeroing = false → ldwNames s i t = false →
    (∀ p, (getArr s (i / 16)).pass = some p → fromTile t p = false) → tl.resv = none → 1 ≤ n →
    let done (c : Instr) (same : Bool) : Prop := ∃ u, exec c s = .next u ∧
      (getThread u i).pc = nextPc x s ∧ (getThread u i).tstart = 0 ∧
      (∀ r, getG (getThread u i) r = getG th r) ∧ (getThread u i).v = th.v ∧
      u.mem = s2.mem ∧ u.l2 = s2.l2 ∧ tileOf u i t = (if same then tl else tileOf s2 i t)
    let load (c : Instr) (s : State) (align : Nat) (put : Nat → List Nat → State → State)
        (units : List (Nat × List (List (Word × Nat)))) : Prop :=
      gatherUnits x i (tileAgent s i) align put units s = (s2, none) → done c false
    let store (c : Instr) (s : State) (after : Nat → State → State)
        (units : List (Nat × List Wr)) : Prop :=
      storeRows i (hintAges s i x).1 { tileAgent s i with age := (hintAges s i x).2 } 1 after units s =
        (s2, none) → done c true
    let opened (ws : List Word) : Prop := tileDesc f i s1 = (s0, .inl ws)
    (n ≤ 256 → st < n → (fmt = 6 → x.long.isSome = true) →
      ((alignedRows x f th fmt st n).2 = none →
        load (.tLd x f) s1 1 (fun r vs s => putRow s i t r (joinLines (vs.take 2))
            (if fmt = 6 then some ((vs.drop 2).headD 0) else none))
          (rows.map (fun r => (r, [memLines (rowAddr th f r) 256 ++
            (rowScale x th fmt r).map (fun a => (a, 16))]))) ∧
        store (.tSt x f) s1 (fun _ s => s) (rows.map (fun r => (r,
          (linePieces (rowAddr th f r) 2 (tileRow tl r)).map (fun a => Wr.put a.1 a.2.1 a.2.2) ++
          (rowScale x th fmt r).map (fun a => Wr.put a 16 (tileScale tl r)))))) ∧
      (∀ ws, opened ws →
        let css (r : Nat) := rowCoords ws ((getG th f.b).toNat + r) (tileCols (dFmt ws))
        load (.tLdDesc x f) s0 1 (fun r vs s =>
            let v := rowVals ws (css r) vs
            putRow s i t r (packCodes (fmtWidth (dFmt ws)) v.1)
              (if dFmt ws = 6 then some (packCodes 8 v.2) else none))
          (rows.map (fun r => (r, [readAccs ws (css r)]))) ∧
        store (.tStDesc x f) s0 (fun r s => addOob s i (dropped ws (css r)))
          (rows.map (fun r => (r, rowWrites ws (css r)
            (unpackCodes (fmtWidth (dFmt ws)) (tileCols (dFmt ws)) (tileRow tl r))
            (unpackCodes 8 16 (tileScale tl r))))))) ∧
    (n ≤ tileCols fmt → is4 fmt = false → st8 < n →
      load (.tLdt x f) s1 128 (fun k vs s => ((List.range 8).zip (groupRows n k)).foldl (fun s e =>
          putColumn s i t w e.2
            (unpackCodes w 256 (joinLines ((vs.drop (e.1 * (32 * w / 128))).take (32 * w / 128))))) s)
        ((groupStarts st8 n).map (fun k => (k, (groupRows n k).map (fun r =>
          memLines (rowAddr th f r) (32 * w))))) ∧
      (∀ ws, opened ws →
        let css (r : Nat) := rowCoords ws ((getG th f.b).toNat + r) 256
        load (.tLdtDesc x f) s0 1 (fun k vs s =>
            ((groupRows n k).foldl (fun (p : State × List Nat) r =>
              let m := (readAccs ws (css r)).length
              (putColumn p.1 i t (fmtWidth (dFmt ws)) r (rowVals ws (css r) (p.2.take m)).1,
                p.2.drop m)) (s, vs)).1)
          ((groupStarts st8 n).map (fun k => (k, (groupRows n k).map (fun r =>
            readAccs ws (css r)))))))

/-- On a compute core whose array is not being zeroed or saved, and that no claim or free under way
has: a.claim of a free array, without a restore, gives it to the thread, all zero, and answers 0; of
the thread's own array it answers 0; of one whose owner's priority is not lower 2; of one whose
owner's priority is lower, once its pass has stopped and its state is saved, it takes the array and
the owner has lost it. With the array owned and neither a pass nor a load in it, a.free without a
save gives it back zeroing, a.swap exchanges the weight planes and a.ldw starts the load of the back
plane from a tile. a.swap by a thread that is not the owner raises ARRAY_STATE with reason OWNER or
LOST. A_LDW_DONE fills the back plane from the tile, or with a row error drops it and keeps the
error, and without a load changes nothing; ARRAY_ZERO_DONE ends the zeroing. A forced save whose
save succeeds takes the array from its owner; one whose save faults sets FAIL and leaves the array
with its owner; of a thread that does not own the array it changes nothing. -/
def Obligations.ArrayOwnership : Prop :=
  (∀ (x : Iss) (f : ArrOwnForm) (s : State), Issues x s → x.long = none → f.a = 0 → f.b = 0 →
    f.rsv = 0 → isControl (thrIx x.thr / 16) = false →
    let i := thrIx x.thr
    let ci := i / 16
    let t := f.tile.toNat
    let a := getArr s ci
    let gives (c : Instr) (r : Thread → Thread) (v : Arr) : Prop :=
      ∃ u, exec c s = .next u ∧ completesCore x s u r (fun k => { k with arr := v }) (nextPc x s)
    a.saving = false → a.resv = none →
    (f.tile = 0 → f.dbit = false → a.zeroing = false →
      (a.owner = none → f.flag = false →
        gives (.aClaim x f) (fun th => setG { th with astatReason := 0, astatStop := 0 } f.d 0)
          { Arr.free with
            owner := some (i % 16), lost := a.lost.filter (fun o => decide (o ≠ i % 16)) }) ∧
      (a.owner = some (i % 16) → gives (.aClaim x f) (fun th => setG th f.d 0) a) ∧
      (∀ o, a.owner = some o → o ≠ i % 16 →
        (getThread s i).prio ≤ (getThread s (coreThr ci o)).prio →
        gives (.aClaim x f) (fun th => setG th f.d 2) a) ∧
      (∀ o s1 s2, a.owner = some o → o ≠ i % 16 → f.flag = false →
        (getThread s (coreThr ci o)).prio < (getThread s i).prio →
        settleArray (fetched x s) ci o = (s1, true) →
        saveArray s1 (coreThr ci o) i (getArr s1 ci) = (s2, .ok) →
        ∃ u, exec (.aClaim x f) s = .next u ∧ (getThread u i).pc = nextPc x s ∧
          getG (getThread u i) f.d = 0 ∧ u.mem = s2.mem ∧ u.l2 = s2.l2 ∧
          getArr u ci = { Arr.free with
            owner := some (i % 16)
            lost := (insertNat o (getArr s2 ci).lost).filter (fun k => decide (k ≠ i % 16)) })) ∧
    (f.d = 0 → a.owner = some (i % 16) → a.ldw = none → a.pass = none →
      (f.tile = 0 → f.flag = false →
        gives (.aFree x f) (fun th => { th with astatStop := 0 })
          { Arr.free with zeroing := true, lost := a.lost } ∧
        (f.dbit = false → a.ldwErr = none →
          gives (.aSwap x f) id { a with front := a.back, back := a.front })) ∧
      (f.dbit = false → a.ldwErr = none → (tileOf s i t).owner = some (i % 16) →
        (tileOf s i t).zeroing = false → (tileOf s i t).resv = none → modeOf (tileOf s i t).fmt.toNat ≠ 6 →
        gives (.aLdw x f) id { a with ldw := some (t, f.flag) })) ∧
    (f.d = 0 → f.tile = 0 → f.flag = false → f.dbit = false → a.owner ≠ some (i % 16) →
      exec (.aSwap x f) s = .next (takeFault false (countIssue (modThread (fetched x s) i (fun th => { th with
        astatReason := if i % 16 ∈ a.lost then 2 else 1 })) i) i 0x0C 0))) ∧
  (∀ (c : CoreRef) (s : State),
    let ci := cix c
    let a := getArr s ci
    let gives (i : Instr) (v : Arr) : Prop := exec i s = .next (setArr s ci v)
    gives (.arrayZeroDone c) { a with zeroing := false } ∧
    (a.ldw = none → ∀ e, exec (.aLdwDone c e) s = .next s) ∧
    (∀ t h, a.ldw = some (t, h) →
      gives (.aLdwDone c none)
        { a with ldw := none, back := planeOfTile (getTile (getCore s ci) t) h } ∧
      ∀ row, ∃ u, exec (.aLdwDone c (some row)) s = .next u ∧
        getArr u ci = { a with
          ldw := none, ldwErr := some (BitVec.ofNat 64 (t * 256 + row.toNat))
          back := { a.back with use := false } } ∧ u.mem = s.mem ∧ u.threads = s.threads)) ∧
  (∀ (src : Sender) (t : Thr) (s s1 s2 : State),
    let ci := thrCore t
    let o := t.thr.toNat
    (mayWrite s src 1 = true → (getArr s ci).owner = some o → (getArr s ci).resv = none → settleArray s ci o = (s1, true) →
      (saveArray s1 (coreThr ci o) (coreThr ci o) (getArr s1 ci) = (s2, .ok) →
        ∃ u, exec (.arrayForcedSave src t) s = .next u ∧
          getArr u ci = { Arr.free with
            lost := insertNat o (getArr s2 ci).lost, resv := (getArr s2 ci).resv } ∧
          u.mem = s2.mem ∧ u.threads = s2.threads) ∧
      (∀ code info, saveArray s1 (coreThr ci o) (coreThr ci o) (getArr s1 ci) = (s2, .fault code info) →
        ∃ u, exec (.arrayForcedSave src t) s = .next u ∧
          (rget u (coreReg ci 0x58)).getLsbD 32 = true ∧
          getArr u ci = { getArr s2 ci with saving := false } ∧ u.mem = s2.mem)) ∧
    ((getArr s ci).owner ≠ some o → exec (.arrayForcedSave src t) s = .next s))

/-- a.pass by the array's owner with no pass, save, claim or wanted load in the way, its descriptors
aligned and legal and no ARRAY_STATE reason, starts a pass with the captured operands, and the
thread goes on. A row of a tile enters as the tile holds it, where no output has been refused; while
the array is paused nothing enters or leaves. The output of the oldest row of an integer
multiply-add pass to a plane adds to each accumulator element, or replaces it, the sum of the row's
products with the weights, modulo 2^32, and touches no other row and not the other plane. An
uncorrectable plane error stops the pass at the row being applied with MEM_SRAM. The stream port
captures the next wanted line. a.drain to an owned tile writes each row's elements, converted, and
clears them only if asked; to a descriptor it completes with what its writes left where every write
is performed. -/
def Obligations.ArrayPasses : Prop :=
  (∀ (x : Iss) (f : PassForm) (s sa sb : State) (src dst : List Word), Issues x s →
    passForm x f = true → isControl (thrIx x.thr / 16) = false →
    let i := thrIx x.thr
    let ci := i / 16
    let th := getThread s i
    let a := getArr s ci
    let v := getG th f.d
    let tl := tileOf s i f.a.toNat
    let dr (g : Pfx → BitVec 5) : Word := match x.long with
      | some p => getG th (g p)
      | none => 0
    let fmt := if f.src then dFmt src else tl.fmt.toNat
    let front := if f.sw then a.back else a.front
    a.owner = some (i % 16) → a.pass = none → a.saving = false → a.resv = none →
    (f.src = true → (getG th f.a).toNat % 64 = 0) → (bit v 63 = true → (dr Pfx.x1).toNat % 64 = 0) →
    (f.sw = true → a.ldw = none ∧ a.ldwErr = none) →
    (f.src = false → tl.owner = some (i % 16) ∧ tl.zeroing = false ∧ ldwNames s i f.a.toNat = false ∧
      tl.resv = none) →
    (bit v 63 = true → x.long.isSome = true) →
    passDesc (fetched x s) i f.src (getG th f.a) = (sa, .inl src) →
    passDesc sa i (bit v 63) (dr Pfx.x1) = (sb, .inl dst) →
    passReasons a f fmt th front dst = [] →
    ∃ u p, exec (.aPass x f) s = .next u ∧ getArr u ci = { a with
        front := front, back := if f.sw then a.front else a.back, pass := some p } ∧
      p.state = .running ∧ p.src = f.src ∧ p.ax = f.ax ∧ p.op = f.op ∧ p.count = (getG th f.c).toNat ∧
      p.spos = getG th f.b ∧ p.dspec = v ∧ p.srcDesc = src ∧ p.dstDesc = dst ∧
      p.dpos = dr Pfx.x2 ∧ p.enter = 0 ∧ p.done = 0 ∧ p.inside = [] ∧ p.fault = none ∧ p.due = none ∧
      p.srcAddr = (if f.src then getG th f.a else BitVec.ofNat 64 f.a.toNat) ∧
      (getThread u i).pc = nextPc x s ∧ (getThread u i).g = th.g ∧ (getThread u i).v = th.v ∧
      (getThread u i).astatCount = 0 ∧ (getThread u i).astatStop = 0 ∧ u.mem = sb.mem) ∧
  (∀ (c : CoreRef) (s : State) (o : Nat) (p : Pass),
    let ci := cix c
    let a := getArr s ci
    let t := getTile (getCore s ci) (p.srcAddr.toNat % 8)
    let k := p.enter
    a.pass = some p → a.owner = some o → p.state = .running →
    (p.src = false → k < p.count → (∀ d, p.due = some d → k < d.1) → p.refused = false →
      a.saving = false → arrayRuns s ci = true →
      exec (.passRowEnter c) s = .next (setArr s ci { a with pass := some { p with
        enter := k + 1
        inside := p.inside ++ [{
          idx := k, bits := BitVec.ofNat 8192 (tileRow t (p.spos.toNat + k))
          scales := BitVec.ofNat 256 (if p.fmt = 6 then tileScale t (p.spos.toNat + k) else 0) }] } })) ∧
    (arrayRuns s ci = false → ∀ up, exec (.passRowEnter c) s = .next s ∧
      exec (.passRowOutput c up) s = .next s ∧ exec (.streamPortFetch c) s = .next s) ∧
    (∀ row rest, p.inside = row :: rest → arrayRuns s ci = true → p.op = 0 → bit p.dspec 63 = false →
      modeFloat (modeOf a.front.fmt.toNat) = false → modeOf p.fmt.toNat = modeOf a.front.fmt.toNat →
      row.idx + 1 < p.count →
      let n := field p.dspec 0 1
      let base := 128 * field p.dspec 1 1
      let r := field p.dspec 8 8 + row.idx
      let m := modeOf a.front.fmt.toNat
      ∃ u p', exec (.passRowOutput c []) s = .next u ∧ (getArr u ci).pass = some p' ∧
        p'.inside = rest ∧ p'.done = row.idx + 1 ∧ p'.state = .running ∧
        (∀ j, j < axisOut m p.ax → base + j < 256 →
          (accElem (getAcc (getArr u ci) n) r (base + j) : Int) =
            ((if bit p.dspec 2 then 0 else (accElem (getAcc a n) r (base + j) : Int)) +
              ((List.range (axisLen m p.ax)).map (fun q => fpInt (rowVal p.fmt.toNat row q) *
                fpInt (if p.ax then planeVal a.front j q else planeVal a.front q j))).sum) % 2 ^ 32) ∧
        (∀ r', r' ≠ r → ∀ j, accElem (getAcc (getArr u ci) n) r' j = accElem (getAcc a n) r' j) ∧
        getAcc (getArr u ci) (1 - n) = getAcc a (1 - n) ∧ u.mem = s.mem) ∧
    (∀ e : PlaneErr, ∃ u p', exec (.passStop c (some e)) s = .next u ∧
      (getArr u ci).pass = some p' ∧ p'.state = .stopped ∧ p'.done = p.done ∧ p'.inside = [] ∧
      p'.fault = some (0x41, BitVec.ofNat 64
        (e.plane.toNat * 65536 + e.row.toNat * 256 + e.col.toNat)) ∧
      (getThread u (coreThr ci o)).apos = BitVec.ofNat 32 p.done ∧ u.mem = s.mem) ∧
    (∀ s1 s2 pa q d, p.src = true → p.due = none → arrayRuns s ci = true → p.buffer.length < 256 →
      wantedLine ci o a p (p.count - k) k s = (s1, some (q, .inl pa)) →
      homeRead s1 (passAgent ci o p) (pa / 128) = (s2, d, none) →
      ∃ u, exec (.streamPortFetch c) s = .next u ∧
        (getArr u ci).pass = some { p with buffer := p.buffer ++ [(pa / 128, d)] } ∧
        u.mem = s2.mem)) ∧
  (∀ (x : Iss) (f : DrainForm) (s : State), Issues x s → drainForm x f = true →
    isControl (thrIx x.thr / 16) = false →
    let i := thrIx x.thr
    let t := f.d.toNat
    let th := getThread s i
    let v := getG th f.a
    let n := (getG th f.c).toNat
    let fmt := (tileOf s i t).fmt.toNat
    let acc (s : State) := getAcc (getArr s (i / 16)) (field v 0 1)
    (getArr s (i / 16)).owner = some (i % 16) → (getArr s (i / 16)).pass = none →
    (getArr s (i / 16)).saving = false → (getArr s (i / 16)).resv = none → th.tstart = 0 →
    (f.dst = false → (tileOf s i t).owner = some (i % 16) → (tileOf s i t).zeroing = false →
    (tileOf s i t).resv = none → ldwNames s i t = false → is4 fmt = false → drainRange v n (tileCols fmt) = true →
    ∃ u, exec (.aDrain x f) s = .next u ∧ (getThread u i).pc = nextPc x s ∧
      (getThread u i).tstart = 0 ∧ (getThread u i).g = th.g ∧ u.mem = (fetched x s).mem ∧
      (∀ r, r < n → tileRow (tileOf u i t) r =
        packCodes (fmtWidth fmt) ((drainRow s i v fmt (vrnd x) (tileCols fmt) r).map Prod.fst) %
          2 ^ 2048) ∧
      (∀ r, n ≤ r → tileRow (tileOf u i t) r = tileRow (tileOf s i t) r) ∧
      (f.clr = false → acc u = acc s) ∧
      (f.clr = true → ∀ r c, accElem (acc u) r c =
        if r < n ∧ field v 8 8 ≤ c ∧ c < field v 8 8 + tileCols fmt then 0 else accElem (acc s) r c)) ∧
    (∀ s0 s2 ws, f.dst = true → passDesc (fetched x s) i true (getG th f.d) = (s0, .inl ws) →
      is4 (dFmt ws) = false → dFmt ws ≠ 7 → drainRange v n (dExt ws 0) = true →
      let css (r : Nat) := rowCoords ws ((getG th f.b).toNat + r) (dExt ws 0)
      let codes (r : Nat) := drainRow s i v (dFmt ws) (vrnd x) (dExt ws 0) r
      scatterAll { threadAgent s0 i with cls := 2, age := 2 } 1 (fun r s =>
          let s := orFlags (addOob s i (dropped ws (css r))) i (flagsOf (codes r))
          if f.clr then clearRow s i v (dExt ws 0) r else s)
        ((List.range n).map (fun r => (r, rowWrites ws (css r) ((codes r).map Prod.fst) []))) s0 =
          (s2, none) →
      ∃ u, exec (.aDrain x f) s = .next u ∧ (getThread u i).pc = nextPc x s ∧
        (getThread u i).tstart = 0 ∧ (getThread u i).g = th.g ∧ u.mem = s2.mem ∧ u.l2 = s2.l2 ∧
        acc u = acc s2))

/-- An update that arrives in a window first sends the entries of its line that have another key. In
blocking mode it is sent at once. Else it joins the entry of its key, or takes one of 64 entries,
the oldest being sent when all are taken. An entry of 256 cycles is sent. An I32 ADD sent to a
readable line of L2 adds to its element modulo 2^32 and changes no other byte. A command to power a
way changes ON of that way and starts the transition if none runs; the end of a clean leaves no line
of the quadrant in the way and clears its STATE bit; the end of a power-up, 1,024 cycles after it
began, sets it. L2_LOST_CLR clears the marks of its quadrant only. -/
def Obligations.WindowsWaysAndLostSets : Prop :=
  (∀ (b : BankRef) (s : State),
    let n := bankIx b
    let w := getWindow s n
    (∀ u t, w.arriving = u :: t →
      let keep := w.entries.filter (fun e => decide (e.line ≠ u.line) || sameKey e u)
      let out := w.sent ++ w.entries.filter (fun e => decide (e.line = u.line) && !sameKey e u)
      (bankBlocks s n = true → exec (.combiningUpdate b) s =
        .next (setWindow s n { arriving := t, entries := keep, sent := out ++ [u] })) ∧
      (bankBlocks s n = false →
        (keep.any (fun e => sameKey e u) = true → exec (.combiningUpdate b) s =
          .next (setWindow s n { arriving := t, entries := joinEntry u keep, sent := out })) ∧
        (keep.any (fun e => sameKey e u) = false → keep.length < 64 →
          exec (.combiningUpdate b) s = .next (setWindow s n
            { arriving := t, entries := keep ++ [{ u with age := 0 }], sent := out })) ∧
        (∀ e r, keep.any (fun e => sameKey e u) = false → keep = e :: r → 63 ≤ r.length →
          exec (.combiningUpdate b) s = .next (setWindow s n
            { arriving := t, entries := r ++ [{ u with age := 0 }], sent := out ++ [e] })))) ∧
    (∀ e r, w.entries = e :: r → 256 ≤ e.age →
      exec (.combiningSend b) s =
        .next (setWindow s n { w with entries := r, sent := w.sent ++ [e] })) ∧
    (∀ (line e : Nat) (v : Word) (ag : List Nat) (cls age : Nat) (t : List AccUpd) (ln : L2Line),
      w.sent = { line := line, acc := 1, fmt := 3, elems := [(e, v)], agents := ag, cls := cls, age := age } :: t →
      e < 32 → tabFind s.l2 line = some ln → ln.bad = 0 →
      ∃ u ln', exec (.accumulateApply b) s = .next u ∧ tabFind u.l2 line = some ln' ∧
        ln'.dirty = true ∧ (getWindow u n).sent = t ∧ u.mem = s.mem ∧
        (∀ k, k ≠ line → tabFind u.l2 k = tabFind s.l2 k) ∧
        ∀ j < 32, lineGet ln'.data (4 * j) 4 =
          if j = e then (lineGet ln.data (4 * j) 4 + v.toNat) % 2 ^ 32
          else lineGet ln.data (4 * j) 4)) ∧
  (∀ (src : Sender) (q : BitVec 2) (way : BitVec 5) (s : State),
    let p := l2Off q.toNat 0x100
    let w := way.toNat
    0 < w → w < 24 → mayWrite s src 0 = true →
    (∃ u, exec (.wayPowerDown src q way) s = .next u ∧ bit (rget u p) w = false ∧
      (∀ k, k < 48 → k ≠ w → bit (rget u p) k = bit (rget s p) k) ∧
      (∀ o, o ≠ p → rget u o = rget s o) ∧ u.mem = s.mem ∧ u.l2 = s.l2 ∧
      (bit (rget s p) 56 = true → ∀ k, k ≠ w → bit (rget u p) k = bit (rget s p) k) ∧
      (bit (rget s p) 56 = false → wayUsable s q.toNat w = true →
        (∀ k, k < 24 → k ≠ w → wayWanted s q.toNat k = wayUsable s q.toNat k) →
        transition u q.toNat false = some w)) ∧
    (∃ u, exec (.wayPowerUp src q way) s = .next u ∧ bit (rget u p) w = true ∧
      (∀ k, k < 48 → k ≠ w → bit (rget u p) k = bit (rget s p) k) ∧
      (∀ o, o ≠ p → rget u o = rget s o) ∧ u.mem = s.mem ∧ u.l2 = s.l2 ∧
      (bit (rget s p) 56 = false → wayUsable s q.toNat w = false → wayRetired s q.toNat w = false →
        (∀ k, k < 24 → k ≠ w → wayWanted s q.toNat k = wayUsable s q.toNat k) →
        transition u q.toNat true = some w))) ∧
  (∀ (q : BitVec 2) (s : State) (w : Nat), w < 24 →
    (transition s q.toNat false = some w → ∃ u, exec (.wayCleanDone q) s = .next u ∧
      wayUsable u q.toNat w = false ∧
      (∀ e ∈ u.l2, e.2.way = w → homeQuad (128 * e.1) ≠ q.toNat) ∧
      (∀ l, homeQuad (128 * l) ≠ q.toNat → tabFind u.l2 l = tabFind s.l2 l)) ∧
    (transition s q.toNat true = some w →
      (1024 ≤ tabGet (fun _ => 0) s.wayAge q.toNat → ∃ u, exec (.wayPowerUpDone q) s = .next u ∧
        wayUsable u q.toNat w = true ∧ u.l2 = s.l2 ∧ u.mem = s.mem) ∧
      (tabGet (fun _ => 0) s.wayAge q.toNat < 1024 → exec (.wayPowerUpDone q) s = .next s))) ∧
  (∀ (src : Sender) (q : BitVec 2) (s : State),
    (mayWrite s src 0 = true → ∃ u, exec (.l2LostClr src q) s = .next u ∧
      (∀ e, e ∈ u.lost ↔ e ∈ s.lost ∧ e / 32768 ≠ q.toNat) ∧
      { u with lost := [] } = { s with lost := [] }) ∧
    (mayWrite s src 0 = false → exec (.l2LostClr src q) s = .next s))

/-- With no test of the context manager in progress: MMU_INVAL with GO of a sender that may write
queues an invalidation; the end of the oldest drops the cached translations that it covers and no
other. A held first write to a stash page gets a page of the kitty mapped to its key, and goes on. A
held first write to a shared page gets a page with a copy mapped to its key, the shared page loses
one REF, and the write goes on; a write to a page no longer shared goes on without a copy. RELEASE
and RESTORE start when none is in progress; the end of RELEASE drops every before image, writes no
page, and counts the snapshot's epoch. Demotion moves a page down, a fetch up, and the end of a move
maps its entries to the new page. CTX_MB and CTX_STASH_FREE do what they name. Before-image copying
is not needed twice for a page. -/
def Obligations.ContextManager : Prop :=
  (∀ (src : Sender) (val : BitVec 64) (s : State), mayWrite s src 1 = true →
    let o := dealOff 0
    ∃ u, exec (.mmuInval src val) s = .next u ∧
      u.ctx.mmuQueued = s.ctx.mmuQueued ++
        (if bit val 62 then [(val &&& 0x300000000FFFF, rget s (dealOff 8))] else []) ∧
      bit (rget u o) 63 = !u.ctx.mmuQueued.isEmpty ∧ field (rget u o) 0 16 = field val 0 16 ∧
      (∀ k, k ≠ o → rget u k = rget s k) ∧ u.mem = s.mem ∧ u.threads = s.threads) ∧
  (∀ s : State, (s.ctx.mmuQueued = [] → exec .mmuInvalDone s = .next s) ∧
    (∀ x t, s.ctx.mmuQueued = x :: t → managerTested s = false → ∃ u, exec .mmuInvalDone s = .next u ∧ u.ctx.mmuQueued = t ∧
      bit (rget u (dealOff 0)) 63 = !t.isEmpty ∧ u.mem = s.mem ∧
      ∀ k, (∀ e ∈ getTlb u k, mmuCovers x.1 x.2 e = false) ∧
        (∀ e ∈ getTlb s k, mmuCovers x.1 x.2 e = false → e ∈ getTlb u k))) ∧
  (∀ (s : State) (h : CtxHeld) (i : Nat), h.thr = some i → (getThread s i).hold = .ctx →
    let u := releaseHeld s h
    h ∉ u.ctx.held ∧ (getThread u i).hold = .none ∧ u.mem = s.mem ∧ u.l2 = s.l2 ∧
      u.ctx.ents = s.ctx.ents ∧ u.ctx.pages = s.ctx.pages ∧
      (∀ j, j ≠ i → getThread u j = getThread s j)) ∧
  (∀ (s : State) (h : CtxHeld) (rest : List CtxHeld) (key ppn : Nat), s.ctx.held = h :: rest →
    (∀ i, h.need = .alloc key → h.thr = some i → (getThread s i).hold = .ctx →
      quarterTested s (keyQuad key) = false → findEnt s key = none → keyGone s key = false →
      keyLive s key = false → 0 < generalFree s →
      pickPage s (keyQuad key) = some ppn →
      ∃ u, exec .windowAlloc s = .next u ∧ (findEnt u key).map CtxEnt.ppn = some ppn ∧
        findPage u ppn = some (PageRec.plain 1 1) ∧ h ∉ u.ctx.held ∧
        (∀ k, k ≠ key → findEnt u k = findEnt s k) ∧ (getThread u i).hold = .none) ∧
    (∀ e p, h.need = .copy key → findEnt s key = some e → findPage s e.ppn = some p →
      quarterTested s (homeQuad (e.ppn * 65536)) = false →
      (p.ref ≤ 1 → exec .copyOnFirstWrite s = .next (releaseHeld s h)) ∧
      (∀ i s2, 1 < p.ref → p.state = 1 → h.thr = some i → (getThread s i).hold = .ctx →
        keyLive s key = false → 0 < generalFree s →
        pickPage s (homeQuad (e.ppn * 65536)) = some ppn →
        copyPage (setPage s ppn (.plain 1 1)) e.ppn ppn = (s2, true) →
        ∃ u, exec .copyOnFirstWrite s = .next u ∧ (findEnt u key).map CtxEnt.ppn = some ppn ∧
          findPage u ppn = some (PageRec.plain 1 1) ∧
          findPage u e.ppn = some { p with ref := p.ref - 1 } ∧ h ∉ u.ctx.held ∧
          (∀ k, k ≠ key → findEnt u k = findEnt s k) ∧ (getThread u i).hold = .none ∧
          u.mem = s2.mem ∧ u.l2 = s2.l2)) ∧
    (∀ i page pte v s1, h.need = .snap page pte → h.thr = some i → (getThread s i).hold = .ctx →
      s.ctx.snapCmd = 0 → quarterTested s (homeQuad (page * 65536)) = false →
      s.ctx.images.any (fun x => decide (x.1 = page)) = true →
      readPa s managerAgent pte 8 = (s1, v, none) →
      ∃ u, exec .snapshotCopy s = .next u ∧ h ∉ u.ctx.held ∧ u.ctx.images = s.ctx.images ∧
        (∀ k, ∀ e ∈ getTlb u k, tlbReaches page e = false) ∧
        u.mem = (writePa s1 managerAgent pte 8 (setField (wd v) 56 1 0).toNat).1.mem)) ∧
  (∀ (src : Sender) (s : State), mayWrite s src 1 = true → s.ctx.snapCmd = 0 →
    ∀ ck ∈ [(Instr.release src, 1), (.restore src, 2)], ∃ u, exec ck.1 s = .next u ∧
      u.ctx = { s.ctx with snapCmd := ck.2 } ∧ bit (rget u snapOff) 63 = true ∧
      (∀ o, o ≠ snapOff → rget u o = rget s o) ∧ u.mem = s.mem ∧ u.threads = s.threads) ∧
  (∀ s : State, s.ctx.snapCmd = 1 → managerTested s = false → ∃ u, exec .snapDone s = .next u ∧ u.ctx.images = [] ∧
    u.ctx.snapCmd = 0 ∧ u.ctx.shadowUsed = 0 ∧ u.ctx.ents = s.ctx.ents ∧
    ((∀ x ∈ s.ctx.images, ∀ m ∈ s.ctx.moves, m.src ≠ x.2) →
      ∀ x ∈ s.ctx.images, findPage u x.2 = none) ∧
    (s.channels = [] → s.banks = [] → s.windows = [] → (∀ c, (getCore s c).missWait = []) →
      u.mem = s.mem ∧ u.l2 = s.l2) ∧
    bit (rget u snapOff) 63 = false ∧ rfield u snapOff 0 32 = 0 ∧
    rfield u snapOff 32 8 = (rfield s snapOff 32 8 + 1) % 256) ∧
  (∀ (s : State) (e : Nat × CtxEnt) (dst : Nat) (p : PageRec), findPage s e.2.ppn = some p →
    quarterTested s (keyQuad e.1) = false → movesHeld s = false →
    (freeTier s false < rfield s (dealOff 0x1010) 0 28 → s.ctx.demoting = false →
      demoteChoice s false = some e → pickTier s (keyQuad e.1) true = some dst →
      ∃ u, exec .tierDemote s = .next u ∧ u.ctx.demoting = true ∧ u.mem = s.mem ∧
        u.ctx.moves = s.ctx.moves ++ [{ key := e.1, src := e.2.ppn, dst := dst, down := true }] ∧
        (∀ x ∈ u.ctx.ents, x.2.ppn = e.2.ppn → x.2.tier = 2)) ∧
    (leastBy (fun e => (fetchRank s e.1).getD (0, 0)) (s.ctx.ents.filter (fun e =>
        decide (e.2.tier = 1) && movable s e.2.ppn && (fetchRank s e.1).isSome)) = some e →
      pickTier s (keyQuad e.1) false = some dst →
      ∃ u, exec .tierFetch s = .next u ∧ u.mem = s.mem ∧
        u.ctx.moves = s.ctx.moves ++ [{ key := e.1, src := e.2.ppn, dst := dst, down := false }] ∧
        (∀ x ∈ u.ctx.ents, x.2.ppn = e.2.ppn → x.2.tier = 2))) ∧
  (∀ (s s2 : State) (m : CtxMove) (t : List CtxMove) (p : PageRec), s.ctx.moves = m :: t →
    findPage s m.src = some p → p.ref ≠ 0 → m.src ≠ m.dst → quarterTested s (keyQuad m.key) = false →
    (∀ h ∈ s.ctx.held, ∃ i, h.thr = some i ∧ (getThread s i).hold = .ctx) →
    copyPage { s with ctx := { s.ctx with moves := t } } m.src m.dst = (s2, true) →
    ∃ u, exec .tierMoveDone s = .next u ∧ u.ctx.moves = t ∧ findPage u m.src = none ∧
      findPage u m.dst = some p ∧ u.mem = s2.mem ∧ (∀ x ∈ u.ctx.ents, x.2.ppn ≠ m.src) ∧
      (∀ k x, findEnt s k = some x → x.ppn = m.src → (findEnt u k).map CtxEnt.ppn = some m.dst ∧
        ∀ h ∈ u.ctx.held, h.need ≠ .move k)) ∧
  (∀ (src : Sender) (val : BitVec 64) (s : State), mayWrite s src 3 = true →
    exec (.ctxMbWrite src val) s = .next (rset s (jobOff 0x58) (val &&& 0xFFF)) ∧
    ∃ u, exec (.ctxStashFree src val) s = .next u ∧
      (s.channels = [] → s.banks = [] → s.windows = [] → (∀ c, (getCore s c).missWait = []) →
        u.mem = s.mem) ∧
      u.ctx.ents = s.ctx.ents.filter (fun e => match stashSlot e.1 with
        | some k => !bit val 8 && decide (k ≠ field val 0 8)
        | none => true))

/-- Phase commands of a dealer that leads, in a state that lists them, do what they name: START_G in
IDLE or PACKED enters GENERATE at its version, END_G in GENERATE enters DRAINING, or PACKED with no
hand in flight and the dealer not held, STOP in PACKED enters IDLE; in every other state, and at a
dealer that does not lead, they record their refusal and change nothing. RESET ends every hand,
frees every stash page, parks what remains and enters IDLE. With its queue empty the dealer of the
lead, when not held, forms a decode hand of ready sequences. A unit of DONE completes the oldest
hand. DEAL_RETIRE retires a sequence into its pool, after its hand if it is in one (the model's
choice, log entry 44). A sender that may not write changes nothing. -/
def Obligations.Dealer : Prop :=
  (∀ (src : Sender) (v : BitVec 32) (id : BitVec 12) (val : BitVec 64) (s : State),
    mayWrite s src 3 = false →
    ∀ c ∈ [Instr.startG src v, .endG src, .stop src, .reset src v, .dealRetire src id,
      .poolHeadAdvance src val], exec c s = .next s) ∧
  (∀ (src : Sender) (v : BitVec 32) (s : State), mayWrite s src 3 = true →
    (isLead s = false → ∀ c ∈ [Instr.startG src v, .endG src, .stop src],
      exec c s = .next (rsetField s (jobOff 8) 4 4 2)) ∧
    (isLead s = true → dealState s = 2 → ∀ c ∈ [Instr.startG src v, .endG src, .stop src],
      exec c s = .next (rsetField s (jobOff 8) 4 4 1)) ∧
    (isLead s = true → dealState s = 1 → ∀ c ∈ [Instr.startG src v, .stop src],
      exec c s = .next (rsetField s (jobOff 8) 4 4 1)) ∧
    (isLead s = true → dealState s = 0 ∨ dealState s = 3 →
      exec (.endG src) s = .next (rsetField s (jobOff 8) 4 4 1)) ∧
    (isLead s = true → dealState s = 0 → exec (.stop src) s = .next (rsetField s (jobOff 8) 4 4 1)) ∧
    (isLead s = true → dealState s = 0 ∨ dealState s = 3 → ∃ u, exec (.startG src v) s = .next u ∧
      dealState u = 1 ∧ u.dealer.version = v ∧ u.dealer.shrinking = false ∧
      rfield u (jobOff 8) 4 4 = 0 ∧ u.dealer.hands = s.dealer.hands ∧
      ∀ e ∈ u.dealer.seqs, e.2.state ≠ .carry) ∧
    (isLead s = true → dealState s = 1 → ∃ u, exec (.endG src) s = .next u ∧
      dealState u = (if s.dealer.hands.isEmpty && !dealerHeld s then 3 else 2) ∧ u.dealer.hands = s.dealer.hands ∧
      rfield u (jobOff 8) 4 4 = 0 ∧ u.dealer.version = s.dealer.version) ∧
    (isLead s = true → dealState s = 3 → ∃ u, exec (.stop src) s = .next u ∧ dealState u = 0 ∧
      u.dealer = { s.dealer with shrinking := false } ∧ u.mem = s.mem ∧ u.ctx = s.ctx) ∧
    (∃ u, exec (.reset src v) s = .next u ∧ dealState u = 0 ∧ u.dealer.hands = [] ∧
      (∀ e ∈ u.ctx.ents, stashSlot e.1 = none) ∧
      (∀ q x, tabFind u.dealer.seqs q = some x → x.state = .parked ∧ x.inHand = false ∧
        (x.part = false → ∀ c ∈ x.changes, c.2 ≤ v)))) ∧
  (∀ s : State,
    (dealState s = 2 → s.dealer.hands = [] → dealerHeld s = false → ∃ u, exec .lastHandDrained s = .next u ∧
      dealState u = 3 ∧ u.dealer.shrinking = true ∧ u.dealer.hands = []) ∧
    (dealState s ≠ 2 ∨ s.dealer.hands ≠ [] ∨ dealerHeld s = true → exec .lastHandDrained s = .next s) ∧
    (dealState s ≠ 1 ∨ isLead s = false ∨ dealerHeld s = true → exec .formHand s = .next s) ∧
    (∀ q x, isLead s = true → dealerHeld s = false → dealState s = 1 → bit (rget s (jobOff 8)) 10 = false → handSlots s ≠ [] →
      dealCount s 0 = 0 → s.dealer.requeued = [] →
      waitingGroups (returnParked s) s.dealer.turn = [] →
      rfield s (dealOff 0x10000) 0 9 ≠ 0 → (q, x) ∈ s.dealer.seqs → x.part = s.dealer.turn →
      seqReady s q x = true →
      ∃ u h, exec .formHand s = .next u ∧ u.dealer.hands = s.dealer.hands ++ [h] ∧
        h.id = s.dealer.nextHand ∧ h.prefill = false ∧ h.part = s.dealer.turn ∧
        h.slot ∈ handSlots s ∧ u.dealer.nextHand = s.dealer.nextHand + 1 ∧
        u.dealer.turn = !s.dealer.turn ∧ h.entries ≠ [] ∧
        ∀ e ∈ h.entries, ∃ y, (e.1, y) ∈ u.dealer.seqs ∧ y.inHand = true ∧
          y.lastHand = h.id + 1 ∧ e.2 = (y.len - 1, 1)) ∧
    (∀ h t, s.dealer.hands = h :: t → (getObj s (doneObject s)).value ≠ 0 →
      dealerTested s = false → ∃ u, exec .handDone s = .next u ∧ u.dealer.hands = t ∧
        (getObj u (doneObject s)).value = (getObj s (doneObject s)).value - 1 ∧
        (∀ o, o ≠ doneObject s → getObj u o = getObj s o)) ∧
    (s.dealer.hands = [] ∨ (getObj s (doneObject s)).value = 0 ∨ dealerTested s = true →
      exec .handDone s = .next s)) ∧
  (∀ (src : Sender) (id : BitVec 12) (s : State) (x : Sequence), mayWrite s src 3 = true →
    tabFind s.dealer.seqs id.toNat = some x → x.state ≠ .carry → x.ending = none →
    (x.inHand = true → ∃ u, exec (.dealRetire src id) s = .next u ∧
      tabFind u.dealer.seqs id.toNat = some { x with ending := some 5 } ∧ u.mem = s.mem) ∧
    (x.inHand = false → x.part = false → poolFull s false = false →
      ∃ u, exec (.dealRetire src id) s = .next u ∧ tabFind u.dealer.seqs id.toNat = none ∧
        poolTail u = (poolTail s + 1) % 2 ^ 32 ∧ ∀ e ∈ u.ctx.ents, keySeq e.1 ≠ some id.toNat)) ∧
  (∀ (src : Sender) (val : BitVec 64) (s : State), mayWrite s src 3 = true →
    ∃ u, exec (.poolHeadAdvance src val) s = .next u ∧
      rget u (jobOff 0x28) = val &&& 0xFFFFFFFF ∧ u.dealer.hands = s.dealer.hands)

/-- A local s.sig, s.wait, s.take or s.set that issues is sent to the home of its object and its
thread waits for the answer; s.set above ring 1 is ILLEGAL_INSTR; a remote signal that a port serves
leaves and its thread goes on; s.dump completes when its table is written, and else takes the fault
or holds its thread. The home adds a signal, stores a set, raises ERR, answers a wait the value
meets and grants a take, or lets the queue join the list; the thread then goes on after the
instruction. A release reaches its waiting thread. A fence whose condition holds completes, else
holds its thread until it does. SYNC_HOST_OP sends its operation, and a deadlock is declared when
armed and met. -/
def Obligations.SynchronisationAndFences : Prop :=
  (∀ (x : Iss) (f : SyncForm) (s : State), Issues x s → f.rsv = 0 →
    let i := thrIx x.thr
    let t := getThread s i
    let s1 := fetched x s
    let obj := getG t f.a
    let arg := getG t f.b
    let begins (u : State) : State :=
      modThread (countIssue u i) i (fun th => { th with begun := true, saveBad := false })
    let op (k : SyncKind) (d : BitVec 5) : SyncOp :=
      { seq := 0, kind := k, src := .thread (thrOf i) d, obj := obj.truncate 16, arg := arg.truncate 32 }
    let sends (c : Instr) (k : SyncKind) (d : BitVec 5) : Prop := exec c s =
      .next (begins (modThread (sendSync s1 (op k d)) i (fun th => { th with hold := .sync })))
    (x.long = none → sends (.sWait x f) .wait f.d ∧ sends (.sTake x f) .take f.d ∧
      (f.d = 0 → sends (.sSig x f) .sig 0 ∧ (t.ring.toNat < 2 → sends (.sSet x f) .set 0) ∧
        (2 ≤ t.ring.toNat →
          exec (.sSet x f) s = .next (takeFault false (countIssue s1 i) i 0x03 t.pc)))) ∧
    (∀ p q s2, f.d = 0 → x.long = some p → p.lit = .none → p.x2 = 0 → p.x3 = 0 → p.xf = 0 →
      (getG t p.x1).truncate 20 ≠ s.devId →
      emitPacket s1 5 (queueOf i) none (sigFrom s1 ((getG t p.x1).truncate 20) 0xFE (queueOf i)
        (field obj 0 16) (field arg 0 32) 0) = (s2, some q) →
      ∃ u, exec (.sSig x f) s = .next u ∧ (getThread u i).pc = nextPc x s ∧
        (getThread u i).sigOut = t.sigOut ++ [((getG t p.x1).truncate 20, obj.truncate 16, q)] ∧
        (getThread u i).g = t.g ∧ u.ports = s2.ports ∧ u.mem = s1.mem) ∧
    (f.d = 0 → x.long = none → t.ring.toNat < 2 → obj.toNat % 64 = 0 →
      match scatterAll (threadAgent s1 i) 16 (fun _ s => s) (dumpWrites s1 (field arg 0 2) obj) s1 with
      | (s2, some (_, .fault code info)) =>
        exec (.sDump x f) s = .next (takeFault false (countIssue s2 i) i code info)
      | (s2, some (_, .held need)) => exec (.sDump x f) s = .next (begins (modThread
          (holdWrite s2 (some i) need) i (fun th => { th with midway := true })))
      | (s2, _) => ∃ u, exec (.sDump x f) s = .next u ∧ (getThread u i).pc = nextPc x s ∧
        (getThread u i).g = t.g ∧ u.mem = s2.mem ∧ u.l2 = s2.l2 ∧ u.sync = s.sync) ∧
    (∀ ck ∈ [(Instr.fLd x f, FenceKind.ld), (.fSt x f, .st), (.fAll x f, .all), (.fDev x f, .dev),
        (.fSys x f, .sys)],
      f.d = 0 → f.a = 0 → f.b = 0 → x.long = none → (getArr s (i / 16)).pass = none →
      let s' := flushAgent s1 (queueOf i)
      (fenceMet s' i ck.2 = true → (ck.2 = .sys → t.sigErr = none) →
        ∃ u, exec ck.1 s = .next u ∧ (getThread u i).pc = nextPc x s ∧
          (getThread u i).hold = .none ∧ (getThread u i).g = t.g ∧ u.windows = s'.windows ∧
          u.mem = s1.mem) ∧
      (fenceMet s' i ck.2 = false →
        exec ck.1 s = .next (begins (modThread s' i (fun th => { th with hold := .fence ck.2 })))))) ∧
  (∀ (q : BitVec 2) (s : State) (op : SyncOp) (rest : List SyncOp),
    takeFirst (opReady s) (tabGet (fun _ => []) s.syncQ q.toNat) = some (op, rest) →
    outOfRange s op = false → unitTested s q.toNat 7 = false →
    let k := op.obj.toNat
    let o := getObj s k
    let s' := { s with syncQ := tabSet (fun _ => []) s.syncQ q.toNat rest }
    let leaves (v : SyncObj) (u : State) : Prop := exec (.syncHomeOp q) s = .next u ∧
      getObj u k = v ∧ ∀ n, n ≠ k → getObj u n = getObj s n
    (op.kind = .sig → o.value.toNat + op.arg.toNat < 2 ^ 32 → o.waiters = [] →
      ∃ u, leaves { o with value := o.value + op.arg } u) ∧
    (op.kind = .set → o.waiters = [] → ∃ u,
      leaves { value := op.arg, err := false, waiters := [] } u) ∧
    (op.kind = .setErr → op.src = .unit → ∃ u,
      leaves { o with err := true, waiters := [] } u ∧ u.releases = s.releases ++
        o.waiters.map (fun w => { queue := w.queue, take := w.take, status := true })) ∧
    (∀ t d, op.src = .thread t d → (getCore s (thrIx t / 16)).stopped = false →
      let i := thrIx t
      let goes (u : State) (st : Word) : Prop := (getThread u i).mode = .run ∧
        (getThread u i).hold = .none ∧ (getThread u i).pc = (getThread s i).pc + 4 ∧
        (d ≠ 0 → getG (getThread u i) d = st) ∧
        (∀ r, r ≠ d → getG (getThread u i) r = getG (getThread s i) r)
      (op.kind = .sig → 2 ^ 32 ≤ o.value.toNat + op.arg.toNat → exec (.syncHomeOp q) s =
        .next (takeSync s' i 0x0F (BitVec.ofNat 64 k))) ∧
      (op.kind = .wait ∨ op.kind = .take → o.err = true → ∃ u, leaves o u ∧ goes u 1) ∧
      (op.kind = .wait → o.err = false → op.arg ≤ o.value → ∃ u, leaves o u ∧ goes u 0) ∧
      (op.kind = .take → o.err = false → op.arg ≤ o.value →
        o.waiters.any (fun w => w.take) = false →
        ∃ u, leaves { o with value := o.value - op.arg } u ∧ goes u 0) ∧
      (op.kind = .wait ∨ op.kind = .take → o.err = false → o.value < op.arg →
        ∃ u, leaves { o with waiters := o.waiters ++ [{
            queue := queueOf i, take := decide (op.kind = .take), arg := op.arg }] } u ∧
          (getThread u i).mode = .wait ∧ (getThread u i).waitReg = d ∧
          (getThread u i).pc = (getThread s i).pc))) ∧
  (∀ (queue : BitVec 12) (s : State) (r : Release) (rest : List Release),
    takeFirst (fun r : Release => decide (r.queue = queue.toNat)) s.releases = some (r, rest) →
    r.queue < 2080 → (getCore s (threadOfQueue r.queue / 16)).testing = false →
    let i := threadOfQueue r.queue
    let t := getThread s i
    t.mode = .wait → ∃ u, exec (.waitRelease queue) s = .next u ∧ u.releases = rest ∧
      (getThread u i).mode = .run ∧ (getThread u i).pc = t.pc + 4 ∧
      (t.waitReg ≠ 0 → getG (getThread u i) t.waitReg = BitVec.ofNat 64 (b2n r.status)) ∧
      u.sync = s.sync ∧ u.mem = s.mem) ∧
  (∀ (th : Thr) (s : State) (k : FenceKind),
    let i := thrIx th
    let t := getThread s i
    t.mode = .run → t.hold = .fence k →
    (coreIssues s (i / 16) = true → fenceMet s i k = true → sysError s i k = none →
      ∃ u, exec (.fenceComplete th) s = .next u ∧ (getThread u i).hold = .none ∧
        (getThread u i).pc = t.pc + 4 ∧ (getThread u i).g = t.g ∧ u.mem = s.mem) ∧
    (fenceMet s i k = false → exec (.fenceComplete th) s = .next s)) ∧
  (∀ (src : Sender) (q : BitVec 2) (n : BitVec 14) (v : BitVec 32) (s : State),
    mayWrite s src 1 = true →
    ∀ ck ∈ [(Instr.syncHostOpSig src q n v, SyncKind.sig), (.syncHostOpSet src q n v, .set)],
      exec ck.1 s = .next (sendSync s { seq := 0, kind := ck.2, src := senderSync src,
                                        obj := BitVec.ofNat 16 (16384 * q.toNat + n.toNat), arg := v })) ∧
  (∀ s : State,
    let o := syncOff 0 0x100
    let met := bit (rget s o) 63 && !bit (rget s o) 62 && s.deadArmed && deadlocked s
    (met = true → ∃ u, exec .deadlockDeclare s = .next u ∧ bit (rget u o) 62 = true ∧
      u.deadArmed = false ∧ u.sync = s.sync ∧
      rfield u (syncOff 0 0x110) 0 32 = min (2 ^ 32 - 1) (rfield s (syncOff 0 0x110) 0 32 + 1)) ∧
    (met = false → exec .deadlockDeclare s = .next s))

/-- A port goes from DETECT to NEGOTIATE on a signal, on to TRAIN where the peer fits and a
generation is common (else DOWN with reason 5 and a report to the safety controller, or it stays),
to ALIGN and INIT as each step succeeds, and INIT makes it UP with 256 credits on each channel and
sequence numbers 0. An attempt of 1 s counts as failed, and the port starts again or enters DOWN.
RETRAIN and a port that leaves UP start again at DETECT where nothing blocks the port; DISABLE turns
it OFF. An idle link flit closes the open group and returns the credits owed. A NAK counts a resend
and sends every group held again as it was. That a mismatched port enters DOWN and that a failed
step waits for its attempt's end are the model's choices of log entry 78, the sequence number of an
empty link flit that of log entry 45. The link flit of a group carries its sequence number, its
number of payload flits with their channels, and an LCRC that matches; the FCRCs kept for the next
one are those of its payload flits. A header reads back as its packet without data. -/
def Obligations.LinkBringUp : Prop :=
  ∀ (port : BitVec 4) (s : State),
    let p := port.toNat
    let t := getPort s p
    let o := portOff p 8
    let tries := rfield s o 12 4
    let moves (c : Instr) (st : Nat) : Prop := ∃ u, exec c s = .next u ∧ portState u p = st ∧
      (∀ k, k ≠ o → rget u k = rget s k) ∧ (∀ k, k ≠ p → getPort u k = getPort s k) ∧ u.mem = s.mem
    (portState s p = 1 → moves (.detect port true) 2 ∧ moves (.detect port false) 1) ∧
    (∀ (gens : BitVec 3) (peer : BitVec 20), portState s p = 2 →
      (peerFits s p peer.toNat = true → commonGen s p gens.toNat ≠ 0 →
        moves (.negotiate port gens peer) 3) ∧
      (peerFits s p peer.toNat = true → commonGen s p gens.toNat = 0 →
        moves (.negotiate port gens peer) 2) ∧
      (peerFits s p peer.toNat = false → moves (.negotiate port gens peer) 7 ∧
        ∃ u, exec (.negotiate port gens peer) s = .next u ∧ rfield u o 8 4 = 5 ∧
          u.safety.reports = s.safety.reports ++
            [{ code := 0x000E, unit := BitVec.ofNat 16 (p / 4 * 2 ^ 14 + p % 4), loc := rget u o, info := 0 }])) ∧
    (portState s p = 3 → moves (.train port true) 4 ∧ moves (.train port false) 3) ∧
    (portState s p = 4 → moves (.align port true) 5 ∧ moves (.align port false) 4) ∧
    (portState s p = 5 → ∃ u, exec (.init port) s = .next u ∧ portState u p = 6 ∧
      (∀ c, c < 8 → tabGet (fun _ => 0) (getPort u p).credits c = 256) ∧
      (getPort u p).rxNext = 0 ∧ (getPort u p).txSeq = 0 ∧ (getPort u p).txHeld = [] ∧
      (∀ k, k ≠ p → getPort u k = getPort s k) ∧ u.mem = s.mem) ∧
    (1 ≤ portState s p → portState s p ≤ 5 → 100000000 ≤ t.attempt →
      (rfield s (portOff p 0) 32 4 ≤ tries + 1 → moves (.attemptTimeout port) 7) ∧
      (tries + 1 < rfield s (portOff p 0) 32 4 → portBlocked s p = none →
        moves (.attemptTimeout port) 1)) ∧
    (∀ src, mayWrite s src 1 = true →
      (portBlocked s p = none → ∃ u, exec (.retrain src port) s = .next u ∧ portState u p = 1 ∧
        getPort u p = { Port.down with trained := s.boot.recordGood } ∧
        (portState s p = 7 → rfield u o 12 4 = 0)) ∧
      ∃ u, exec (.disable src port) s = .next u ∧ bit (rget u (portOff p 0x10)) 0 = true ∧
        portState u p = if portRetired s p then 7 else 0) ∧
    (portUp s p = true →
      (∀ reason, tries + 1 < rfield s (portOff p 0) 32 4 → t.upTime < hourCycles →
        portBlocked s p = none → ∃ u, exec (.portLeavesUp port reason) s = .next u ∧
          portState u p = 1 ∧ rfield u o 8 4 = reason.toNat ∧ rfield u o 12 4 = tries + 1 ∧
          getPort u p = { Port.down with trained := s.boot.recordGood }) ∧
      exec (.idleLinkFlit port) s = .next (setPort s p (idleFlit (closeGroup t))) ∧
      (∀ ack, ackGroups ack t.txHeld = t.txHeld → t.txHeld ≠ [] →
        (t.resends < 8 → ∃ u, exec (.nak port ack) s = .next u ∧
          getPort u p = { resendGroups t with resends := t.resends + 1 } ∧
          (∀ k, k ≠ p → getPort u k = getPort s k) ∧ { u with ports := [] } = { s with ports := [] }) ∧
        (8 ≤ t.resends → ∃ u, exec (.nak port ack) s = .next u ∧ portUp u p = false))) ∧
    (let f := idleFlit (closeGroup t)
     let g : Group := { link := f.wire.headD [], flits := [], fecu := 0, fecc := 0 }
     f.wire.length = 1 ∧ f.owed = [] ∧ openGroup f = none ∧ lcrcGood g = true ∧ linkSeq g = f.txSeq ∧ linkAck g = ackSeq f ∧
       linkNak g = t.nakOut ∧ linkNpf g = 0) ∧
    (∀ x : SentGroup, openGroup t = some x → x.flits.length ≤ 32 →
      let g : Group := { link := (closeGroup t).wire.headD [], flits := x.flits.map sentFlit
                         fecu := 0, fecc := 0 }
      (closeGroup t).wire = g.link :: g.flits ∧ (resendGroups t).wire = (closeGroup t).txHeld.flatMap groupWire ∧
      lcrcGood g = true ∧ linkSeq g = x.gseq ∧ linkNpf g = x.flits.length ∧
        (∀ k, k < x.flits.length → ∀ y ∈ x.flits[k]?, linkVc g k = vcEntry y) ∧
        (closeGroup t).txCrcs = g.flits.map linkCrc) ∧
    (∀ y : Packet, readHeader (headerBytes y) = some { y with data := [] })

/-- A group whose LCRC, sequence number or checks of the group held before fail asks for a replay
and is counted; while one is asked for, groups of another number are passed over. A good one is held
until the next verifies it, and a packet of the group held before it joins the queue of its channel.
The packet at the head of a channel then leaves it: PUT and PUT_ACC perform their writes and are
acknowledged once these are performed, GET_REQ is answered with the bytes read, GET_RESP and
WRITE_ACK take their tag off the descriptor that awaits it, SIG goes to the home of its object,
SIG_ACK ends a thread's signal, RED goes to the pot, and RED_ABORT aborts its slot. -/
def Obligations.LinkPackets : Prop :=
  (∀ (port : BitVec 4) (g : Group) (s : State), portUp s port.toNat = true →
    let p := port.toNat
    let t := getPort s p
    let good := lcrcGood g && decide (linkSeq g = t.rxNext) && heldGood t g
    (t.nakOut = false → good = false → ∃ u, exec (.groupReceive port g) s = .next u ∧
      getPort u p = { t with
        rxNext := (t.rxHeld.map linkSeq).getD t.rxNext, rxHeld := none, nakOut := true } ∧
      (∀ k, k ≠ p → getPort u k = getPort s k) ∧ u.mem = s.mem ∧
      rfield u (portOff p 0x18) 32 16 = min 0xFFFF (rfield s (portOff p 0x18) 32 16 + 1) ∧
      rfield u (portOff p 0x18) 48 16 = min 0xFFFF (rfield s (portOff p 0x18) 48 16 + g.fecu.toNat)) ∧
    (t.nakOut = true → lcrcGood g = true → linkSeq g ≠ t.rxNext →
      ∃ u, exec (.groupReceive port g) s = .next u ∧ u.ports = s.ports ∧ u.mem = s.mem) ∧
    (good = true → linkNpf g ≠ 0 → linkNak g = false →
      let takes (u : State) : Prop := exec (.groupReceive port g) s = .next u ∧
        (getPort u p).rxHeld = some g ∧ (getPort u p).rxNext = t.rxNext + 1 ∧
        (getPort u p).nakOut = false ∧ (getPort u p).txHeld = ackGroups (linkAck g) t.txHeld ∧
        u.mem = s.mem
      (t.rxHeld = none → ∃ u, takes u ∧ ∀ vc, rxQueue u p vc = rxQueue s p vc) ∧
      (∀ h vc y part, t.rxHeld = some h → readGroup h t.rxPart = ([(vc, some [y])], part) →
        y.dst = s.devId → y.type ≠ .mgmt →
        ∃ u, takes u ∧ rxQueue u p vc = rxQueue s p vc ++ [y]))) ∧
  (∀ (port : BitVec 4) (vc : BitVec 3) (s s1 : State) (y : Packet),
    let p := port.toNat
    let c := vc.toNat
    let a := rxAgent s p c
    let gone (i : Instr) (u : State) : Prop := exec i s = .next u ∧
      rxQueue u p c = (rxQueue s p c).drop 1
    let replied (u : State) (r : Packet) : Prop := ∀ q,
      pickPort responderAgent r.dst 1 (routePorts s none r.dst).1 = some q →
      ∃ w ∈ (getPort u q).egress.waiting, w.item.pkt = r
    let ack : Packet := { packetTo s .writeAck y.src y.sq.toNat y.tag with addr := y.addr }
    let writes (i : Instr) (ws : List Wr) : Prop :=
      (headWritten s p c = false → engWrite a ws s = (s1, .ok) →
        (agentDone (flushAgent s1 a.who) a.who = true →
          ∃ u, gone i u ∧ u.mem = s1.mem ∧ u.l2 = s1.l2 ∧ replied u ack) ∧
        (agentDone (flushAgent s1 a.who) a.who = false → ∃ u, exec i s = .next u ∧
          rxQueue u p c = rxQueue s p c ∧ headWritten u p c = true ∧ u.mem = s1.mem ∧
          u.l2 = s1.l2 ∧ u.windows = (flushAgent s1 a.who).windows)) ∧
      (headWritten s p c = true → agentDone (flushAgent s a.who) a.who = true →
        ∃ u, gone i u ∧ u.mem = s.mem ∧ u.l2 = s.l2 ∧ replied u ack)
    (rxHead s p c .put = some y →
      writes (.put port vc) (putWrites y)) ∧
    (y.fmt ≠ 5 → putWrites y = [.put (y.addr.zeroExtend 64) y.data.length (ofBytes y.data)]) ∧
    (rxHead s p c .putAcc = some y → accLegal y = true →
      writes (.putAcc port vc) (accWrites y.acc.toNat y.fmt.toNat
        (y.data.length / fmtBytes y.fmt.toNat) (y.addr.zeroExtend 64) y.data)) ∧
    (∀ v, rxHead s p c .getReq = some y →
      readSpan a y.len.toNat y.len.toNat (popRx s p c) (y.addr.zeroExtend 64) = (s1, .inl v) →
      ∃ u, gone (.getReq port vc) u ∧ u.mem = s1.mem ∧
        replied u { packetTo s .getResp y.src y.sq.toNat y.tag with
          addr := y.addr, len := y.len, data := bytesOf y.len.toNat v }) ∧
    (∀ f, rxHead s p c .getResp = some y → flightOf s y.sq.toNat y.tag = some f → y.status = 0 →
      let r := readyWrites f y.tag (ofBytes y.data)
      wouldHold (engAgent s y.sq.toNat) r.1.flatten s = none →
      writeGroups (engAgent s y.sq.toNat) r.1 s = (s1, .ok) →
      ∃ u, gone (.getResp port vc) u ∧ u.mem = s1.mem ∧ u.l2 = s1.l2 ∧
        ∀ g ∈ begunFlights (getQueue u y.sq.toNat), g.id = f.id →
          g.ready = r.2 ∧ ∀ t ∈ g.awaits, t.1 ≠ y.tag) ∧
    (∀ f, rxHead s p c .writeAck = some y → y.sq.toNat < 0xFE → flightOf s y.sq.toNat y.tag = some f →
      y.status = 0 → ∃ u, gone (.writeAck port vc) u ∧ u.mem = s.mem ∧
        ∀ g ∈ begunFlights (getQueue u y.sq.toNat), g.id = f.id → ∀ t ∈ g.awaits, t.1 ≠ y.tag) ∧
    (∀ e, rxHead s p c .writeAck = some y → y.sq = 0xFF → slotOf s y.tag = some e →
      ∃ u, gone (.writeAck port vc) u ∧ u.mem = s.mem ∧ getSlot u e.1 =
        { e.2 with unacked := e.2.unacked.filter (fun n => decide (n ≠ y.tag)) }) ∧
    (rxHead s p c .sig = some y → y.status = 0 → ∃ u, gone (.sig port vc) u ∧
      tabGet (fun _ => []) u.syncQ (y.obj.toNat / 2 ^ 14) =
        tabGet (fun _ => []) s.syncQ (y.obj.toNat / 2 ^ 14) ++
          [{ seq := s.nextSync, kind := .sig, src := .remote y port, obj := y.obj, arg := y.value }] ∧
      u.mem = s.mem) ∧
    (∀ q rest, rxHead s p c .sigAck = some y → y.sq = 0xFE → y.tag < 0x80000000 → y.status = 0 →
      let i := threadOfQueue y.tag.toNat
      (getThread s i).sigOut = (y.src, y.obj, q) :: rest →
      ∃ u, gone (.sigAck port vc) u ∧ getThread u i = { getThread s i with sigOut := rest } ∧
        (∀ k, k ≠ i → getThread u k = getThread s k) ∧ u.mem = s.mem) ∧
    (rxHead s p c .red = some y → y.data.length ≤ 256 →
      let r := y.obj.toNat
      let k := y.value.toNat
      unitTested s (r / 2 ^ 14) 0 = false → (getSlot s r).state = 1 → (getSlot s r).base ≤ k →
      k < (getSlot s r).base + slotBlocks (getSlot s r) →
      ∃ u, gone (.red port vc) u ∧ u.mem = s.mem ∧ u.potSlots = s.potSlots ∧
        (getPot u (r / 2 ^ 14)).waiting.map (fun w => w.item) =
          (getPot s (r / 2 ^ 14)).waiting.map (fun w => w.item) ++
            [{ rid := y.obj, idx := k, vals := BitVec.ofNat 2048 (ofBytes (y.data.take 256))
               from? := some y, abort := false }]) ∧
    (rxHead s p c .redAbort = some y → unitTested s (y.obj.toNat / 2 ^ 14) 0 = false → (getSlot s y.obj.toNat).state = 1 →
      ∃ u, gone (.redAbort port vc) u ∧ (getSlot u y.obj.toNat).state = 2 ∧
        (getSlot u y.obj.toNat).blocks = []))

/-- d.post appends the descriptor it reads where its queue takes it, and answers the status; d.query
answers free entries. An engine serves its queues in turn, a line of a descriptor at a time (the
turn is the model's choice of log entry 130, the order of the statuses of d.post that of log entry
46). A legal descriptor begins, each turn of a local one moves the elements or bytes of its next
line, and with the last it leaves the head; an illegal one halts the queue with reason 1. WAIT and
TAKE send their operation and stall. A finished descriptor ends or sends its signal. SKIP drops the
head of a halted queue, FLUSH and clearing EN what has not started. While no test has the engine or
the pot: a CONTRIB takes an idle slot; a contribution adds each of its values to its block in FP32,
and one whose block holds an uncorrectable error aborts a slot that does not forward; a slot that
has output everything becomes idle; CLEAR frees aborted slots and drops their flits. -/
def Obligations.EnginesAndPots : Prop :=
  (∀ (x : Iss) (f : SyncForm) (s s2 : State) (vs : List Nat), Issues x s → f.rsv = 0 →
    x.long = none →
    let i := thrIx x.thr
    let t := getThread s i
    let va := getG t f.a
    let n := field (getG t f.b) 0 8
    let st := postStatus s i n
    (va.toNat % 64 = 0 → l1Closed (fetched x s) (i / 16) = false →
      gather x i (threadAgent (fetched x s) i) 64 [(va, 64)] (fetched x s) = (s2, .vals vs) →
      ∃ u, exec (.dPost x f) s = .next u ∧ (getThread u i).pc = nextPc x s ∧
        (f.d ≠ 0 → getG (getThread u i) f.d = BitVec.ofNat 64 st) ∧
        (∀ r, r ≠ f.d → getG (getThread u i) r = getG t r) ∧ u.mem = s2.mem ∧
        getQueue u n = (if st = 0 then { getQueue s n with descs := (getQueue s n).descs ++ [{
          words := (List.range 8).map (fun k => BitVec.ofNat 64 (vs.headD 0 / 2 ^ (64 * k)))
          addr := va, poster := some i }] } else getQueue s n)) ∧
    (f.a = 0 → ∃ u, exec (.dQuery x f) s = .next u ∧ completes x s u (fun th => setG th f.d
      (BitVec.ofNat 64 ((if queueState s n = 0 ∨ queueState s n = 3 then 2 ^ 63 else 0) +
        queueFree s n))) (nextPc x s))) ∧
  (∀ (n : BitVec 8) (s s1 : State) (d : Desc) (ws : List (List Word)),
    let k := n.toNat
    let q := getQueue s k
    let s0 := { s with teTurn := tabSet (fun _ => 15) s.teTurn (k / 16) (k % 16) }
    let moved (c u : State) : Prop := ∀ r r1 c1 c2, (getQueue c k).run = some r →
      r.pos < runTotal r.flight.desc r → descRemote c r.flight.desc = false →
      enterItem c k r = (c1, .inl r1) →
      let bs := turnBatches r1.flight.desc r1
      let r2 := { r1 with pos := r1.pos + bs.length }
      wouldHold (engAgent c1 k) (allWrites bs) c1 = none → runLocal (engAgent c1 k) k bs c1 = (c2, .ok) →
      u.mem = c2.mem ∧ u.l2 = c2.l2 ∧ getQueue u k =
        if runTotal r1.flight.desc r2 ≤ r2.pos
        then { getQueue c k with run := none, flight := (getQueue c k).flight ++ [r1.flight] }
        else { getQueue c k with run := some r2 }
    (nextQueue s (k / 16) ≠ some k ∨ engineTested s k = true → exec (.descStart n) s = .next s) ∧
    (nextQueue s (k / 16) = some k → engineTested s k = false → q.run.isSome = true →
      ∃ u, exec (.descStart n) s = .next u ∧ moved s0 u) ∧
    (engineTested s k = false → headStarts s k = some d →
      (descKind d < 7 → nextQueue s (k / 16) = some k → descGood k d = true →
        (moves d = true → tensorsAligned d = true ∧ runGood d (firstRun 0 d ws) = true) →
        (descRemote s d = true → (routePorts s none (descDev d)).1 ≠ []) →
        openAll (engAgent s k) d (if moves d then tensorsOf d else []) s0 = (s1, .inl ws) →
        ∃ u, exec (.descStart n) s = .next u ∧ moved (beginRun s1 k d ws) u ∧
          (runTotal d (firstRun s.nextFlight d ws) = 0 → u.mem = s1.mem ∧ getQueue u k = { q with
            descs := q.descs.drop 1, flight := q.flight ++ [Flight.start s.nextFlight d] })) ∧
      (descKind d < 7 ∨ 9 < descKind d → nextQueue s (k / 16) = some k →
        (descGood k d = false ∨ (moves d = true ∧ tensorsAligned d = false)) →
        (d.poster.isSome = true ∨ copyQueue s k = false) → ∃ u, exec (.descStart n) s = .next u ∧
        getQueue u k = { q with halted := true, waiting := false, busy := false, stalled := 0 } ∧
        rfield u (teOff k 0x10) 40 8 = 1 ∧ rget u (teOff k 0x28) = d.addr ∧ u.mem = s.mem) ∧
      (∀ ck ∈ [(Instr.wait n, 8, SyncKind.wait), (.take n, 9, .take)], descKind d = ck.2.1 →
        descGood k d = true →
        (queueRing s k < 2 ∨ inSyncRange s ((descWord d 4).truncate 16) = true) →
        exec ck.1 s = .next (sendSync (setQueue s k { q with waiting := true, stalled := 0 })
          { seq := 0, kind := ck.2.2, src := .queue k, obj := (descWord d 4).truncate 16
            arg := BitVec.ofNat 32 (field (descWord d 4) 16 32) })) ∧
      (descKind d = 7 → descGood k d = true → bit (descWord d 4) 32 = true →
        let rid := field (descWord d 4) 0 16
        unitTested s (k / 64) 0 = false → (getSlot s rid).state = 0 → 2 ^ field (descWord d 4) 40 4 ≤ potFree s (k / 64) →
        ∃ u f, exec (.contrib n) s = .next u ∧ f.desc = d ∧ f.pot = true ∧ f.id = s.nextFlight ∧
          getSlot u rid = { PotSlot.idle with
            state := 1, queue := k, flight := f.id, words := d.words } ∧
          getQueue u k = { q with
            descs := q.descs.drop 1, flight := q.flight ++ [f], busy := false } ∧ u.mem = s.mem)) ∧
    (∀ f, q.flight.find? (flightDone (flushAgent s (queueAgent k)) k) = some f →
      (descCen f.desc = false → ∃ u, exec (.descComplete n) s = .next u ∧
        (getQueue u k).flight = q.flight.filter (fun g => decide (g.id ≠ f.id)) ∧ u.mem = s.mem) ∧
      (descCen f.desc = true → descCdev f.desc = s.devId →
        ∃ u, exec (.descComplete n) s = .next u ∧ u.mem = s.mem ∧
          (∀ g ∈ begunFlights (getQueue u k), g.id = f.id → g.signalled = true) ∧
          tabGet (fun _ => []) u.syncQ (descCobj f.desc / 2 ^ 14) =
            tabGet (fun _ => []) s.syncQ (descCobj f.desc / 2 ^ 14) ++
              [{ seq := s.nextSync, kind := .sig, src := .flight k f.id, obj := BitVec.ofNat 16 (descCobj f.desc)
                 arg := BitVec.ofNat 32 (descCval f.desc) }]))) ∧
  (∀ (src : Sender) (n : BitVec 8) (s : State), mayWrite s src 1 = true →
    let k := n.toNat
    let q := getQueue s k
    (queueState s k = 3 → exec (.skip src n) s =
      .next (setQueue s k { q with descs := q.descs.drop 1, halted := false })) ∧
    (queueState s k ≠ 3 → exec (.skip src n) s = .next s) ∧
    (q.busy = false → q.waiting = false →
      exec (.flush src n) s = .next (setQueue s k { q with
        descs := [], waiting := false, halted := false, stalled := 0 }) ∧
      ∃ u, exec (.queueDisable src n) s = .next u ∧ queueState u k = 0 ∧
        getQueue u k = { q with descs := [], waiting := false, halted := false, stalled := 0 } ∧
        (∀ o, o ≠ teOff k 0 → rget u o = rget s o))) ∧
  (∀ (q : BitVec 2) (s : State) (f : PotFlit) (t : List PotFlit),
    let r := f.rid.toNat
    let x := getSlot s r
    let old := tabFind x.blocks f.idx
    unitTested s q.toNat 0 = false → takeFirst (slotTakes s) (getPot s q.toNat).granted = some (f, t) →
    f.abort = false → (∀ p, f.from? = some p → ∀ e ∈ s.potSlots, e.1 = r → p.tag ∉ e.2.unacked) →
    x.state = 1 → x.base ≤ f.idx → f.idx ∉ x.outs →
    slotNoData x = true → (∀ e ∈ x.blocks, e.2.count < slotCount x) →
    (old.map PotBlock.count).getD 0 + 1 < slotCount x →
    ∃ u b, exec (.potContribution q false) s = .next u ∧ tabFind (getSlot u r).blocks f.idx = some b ∧
      b.count = (old.map PotBlock.count).getD 0 + 1 ∧ u.mem = s.mem ∧
      (∀ k, k ≠ f.idx → tabFind (getSlot u r).blocks k = tabFind x.blocks k) ∧
      ∀ e, e < 128 → sumAt b e = (match old with
        | none => widen16 (flitVal f.vals e)
        | some c => (fpAdd 11 0 (sumAt c e) (widen16 (flitVal f.vals e))).1) % 2 ^ 32) ∧
  (∀ (q : BitVec 2) (s : State) (f : PotFlit) (t : List PotFlit) (b : PotBlock),
    let r := f.rid.toNat
    let x := getSlot s r
    unitTested s q.toNat 0 = false → takeFirst (slotTakes s) (getPot s q.toNat).granted = some (f, t) →
    f.abort = false → (∀ p, f.from? = some p → ∀ e ∈ s.potSlots, e.1 = r → p.tag ∉ e.2.unacked) →
    x.state = 1 → x.base ≤ f.idx → f.idx ∉ x.outs →
    tabFind x.blocks f.idx = some b → b.count < slotCount x → slotFwd x = false →
    ∃ u, exec (.potContribution q true) s = .next u ∧ (getSlot u r).state = 2 ∧
      (getSlot u r).blocks = [] ∧ u.mem = s.mem) ∧
  (∀ (rid : BitVec 16) (s : State),
    let x := getSlot s rid.toNat
    unitTested s (rid.toNat / 2 ^ 14) 0 = false → x.state = 1 → x.blocks = [] → slotFlits x ≤ x.base → slotFlits x ≤ x.localNext →
    x.unacked = [] → agentDone s (potAgent rid.toNat) = true →
    ∃ u, exec (.potSlotComplete rid) s = .next u ∧ getSlot u rid.toNat = PotSlot.idle ∧
      (∀ f ∈ (getQueue u x.queue).flight, f.id = x.flight → f.pot = false) ∧ u.mem = s.mem) ∧
  (∀ (src : Sender) (q : BitVec 2) (s : State), mayWrite s src 1 = true →
    let p := getPot s q.toNat
    ∃ u, exec (.clear src q) s = .next u ∧ u.mem = s.mem ∧ u.queues = s.queues ∧
      (∀ e ∈ u.potSlots, ¬ (e.1 / 2 ^ 14 = q.toNat ∧ e.2.state = 2)) ∧
      (getPot u q.toNat).granted = p.granted.filter (fun f => !slotGone s f) ∧
      (getPot u q.toNat).waiting = p.waiting.filter (fun w => !slotGone s w.item) ∧
      ((∀ f ∈ p.granted ++ p.waiting.map (fun w => w.item), slotGone s f = false) →
        { u with potSlots := [], pots := [] } = { s with potSlots := [], pots := [] } ∧
        ∀ e, e ∈ u.potSlots ↔ e ∈ s.potSlots ∧ ¬ (e.1 / 2 ^ 14 = q.toNat ∧ e.2.state = 2)))

/-- START sets U, C and S, makes the anchor stale and enters RUN, or is REFUSED; ANCHOR sets A only
where VERSION equals S in RUN; ABORT and an ABORT message stop the job, record the reason and tell
the tree; STOP forgets the children. UPD_COUNT takes a unit and raises U; a gate opens after its
time; ready, committed, copied and secured versions rise through the tree; the header ends a copy
and the SEC object counts it; a copy whose device no port serves aborts the job with reason 2, and
one whose descriptor is illegal with reason 3; holders are settled by their reply or its absence. A
message of another job is counted and dropped, and outside RUN all but HELLO are dropped. -/
def Obligations.CommitUnitCommands : Prop :=
  ∀ s : State,
    let n := commitQueue s
    let served (d : BitVec 20) : Prop := (postCommit s d 1 0 0).2.isSome = true
    let result (u : State) : Nat := rfield u (commitOff 0x48) 56 4
    let reason (u : State) : Nat := rfield u (commitOff 0x48) 48 8
    let elseKept (u : State) : Prop := u.mem = s.mem ∧ u.threads = s.threads ∧ u.sync = s.sync ∧
      (∀ o, o ≠ commitOff 0x38 → o ≠ commitOff 0x40 → o ≠ commitOff 0x48 → rget u o = rget s o)
    let versions (u : State) : Prop :=
      verU u = verU s ∧ verC u = verC s ∧ verS u = verS s ∧ verA u = verA s
    let aborted (u : State) (why : Nat) : Prop := commitState u = 2 ∧ reason u = why ∧
      rfield u (commitOff 0x48) 0 32 = (verU s).toNat ∧ u.commit.securing = none ∧ versions u ∧
      (∃ r, u.safety.reports = s.safety.reports ++ [r] ∧ r.code = 0x0023) ∧ elseKept u
    let tells (t : State) (skip : Option (BitVec 20)) : State := (treeDevices s).foldl (fun t d =>
      if skip = some d then t else (postCommit t d 6 (verU s) (verS s).toNat).1) t
    (∀ (src : Sender) (v : BitVec 32),
      (mayWrite s src 1 = false →
        exec (.commitCtlStart src v) s = .next s ∧ exec (.anchor src v) s = .next s ∧
        exec (.commitCtlAbort src) s = .next s ∧ exec (.commitCtlStop src) s = .next s) ∧
      (mayWrite s src 1 = true →
        (inRun s = true ∨ secInterval s = 0 →
          exec (.commitCtlStart src v) s = .next (setResult s 1)) ∧
        (inRun s = false → secInterval s ≠ 0 →
          (bit (rget s (commitOff 0x10)) 63 = true → served (partnerDev s)) →
          (bit (rget s (commitOff 0x10)) 62 = true → served (secondDev s)) →
          (isCoordinator s = false → served (parentDev s)) →
          ∃ u, exec (.commitCtlStart src v) s = .next u ∧ commitState u = 1 ∧ result u = 0 ∧
            verU u = v ∧ verC u = v ∧ verS u = v ∧ verA u = verA s ∧ anchorStale u = true ∧
            rfield u (commitOff 0x48) 60 2 = 2 ∧ u.commit.r0 = v ∧ u.commit.goOut = false ∧
            u.commit.gates = [] ∧
            u.commit.children.map (·.dev) = s.commit.children.map (·.dev) ∧
            (bit (rget s (commitOff 0x10)) 63 = false → bit (rget s (commitOff 0x10)) 62 = false →
              u.commit.ownCopied = some v) ∧ elseKept u) ∧
        (inRun s = true → v = verS s →
          ∃ u, exec (.anchor src v) s = .next u ∧ verA u = v ∧ anchorStale u = false ∧
            result u = 0 ∧ commitState u = 1 ∧
            verU u = verU s ∧ verC u = verC s ∧ verS u = verS s ∧ elseKept u ∧
            (u.commit.goOut = true ↔ s.commit.goOut = true ∨
              ((verU s).toNat ≤ (verC s).toNat + 3 ∧ (isSecuring s (verU s) = true → verU s = v) ∧
                (getObj s (goObj s)).value = 0))) ∧
        (¬ (inRun s = true ∧ v = verS s) → exec (.anchor src v) s = .next (setResult s 1)) ∧
        (inRun s = true → ∃ u, exec (.commitCtlAbort src) s = .next u ∧ aborted u 5 ∧ result u = 0 ∧
          u.ports = (tells s none).ports) ∧
        (inRun s = false → exec (.commitCtlAbort src) s = .next (setResult s 0)) ∧
        (∃ u, exec (.commitCtlStop src) s = .next u ∧ commitState u = 0 ∧ result u = 0 ∧
          u.commit = .idle ∧ versions u ∧ u.ports = s.ports ∧ u.syncQ = s.syncQ ∧ elseKept u ∧
          ∀ k, k ≠ n → k ≠ n + 16 → getQueue u k = getQueue s k))) ∧
    (let o := getObj s (updObj s)
     let v := verU s + 1
     (inRun s = true → o.value ≠ 0 →
       ∃ u, exec .updCount s = .next u ∧ verU u = v ∧
         getObj u (updObj s) = { o with value := o.value - 1 } ∧
         (∀ k, k ≠ updObj s → getObj u k = getObj s k) ∧ u.mem = s.mem ∧ u.threads = s.threads ∧
         (isSecuring s v = false → verC u = verC s ∧ verS u = verS s ∧ verA u = verA s ∧
           u.commit.gates =
             s.commit.gates ++ [{ version := v, age := 0, opened := false, since := 0 }]) ∧
         (isSecuring s v = true → s.commit.partner ≠ 1 → s.commit.second ≠ 1 →
           (holderTakes s.commit.partner || holderTakes s.commit.second) = false →
           u.commit.ownCopied = some v)) ∧
     (inRun s = false ∨ o.value = 0 → exec .updCount s = .next s)) ∧
    (∀ v : BitVec 32,
      let due (g : GateRec) : Prop := g.version = v ∧ 30000000 ≤ g.age ∧ g.opened = false
      (inRun s = false ∨ gatesShut s = true ∨ (∀ g ∈ s.commit.gates, ¬ due g) →
        exec (.gateOpen v) s = .next s) ∧
      (inRun s = true → gatesShut s = false → (∃ g ∈ s.commit.gates, due g) →
        (treeComplete s = false → ∃ u, exec (.gateOpen v) s = .next u ∧ versions u ∧ elseKept u ∧
          u.commit.gates.map (·.version) = s.commit.gates.map (·.version) ∧
          ∀ g ∈ u.commit.gates, g.version = v → 30000000 ≤ g.age → g.opened = true) ∧
        (treeComplete s = true → isCoordinator s = true → s.commit.children = [] → verC s < v →
          (∀ g ∈ s.commit.gates, g.opened = true → g.version ≤ v) →
          ∃ u, exec (.gateOpen v) s = .next u ∧ verU u = verU s ∧ verC u = v ∧ elseKept u ∧
            ∀ g ∈ u.commit.gates, v < g.version))) ∧
    ((∃ g ∈ s.commit.gates, g.opened = true ∧ verC s < g.version ∧ commitTmo s ≤ g.since) →
      inRun s = true → ∃ u, exec .commitTimeout s = .next u ∧ aborted u 4 ∧
        u.ports = (tells s none).ports) ∧
    ((∀ g ∈ s.commit.gates, g.opened = true → verC s < g.version → g.since < commitTmo s) →
      exec .commitTimeout s = .next s) ∧
    (inRun s = true → commitTmo s ≤ s.commit.feedAge →
      ∃ u, exec .feedTimeout s = .next u ∧
        u.commit.partner = (if s.commit.partner = 1 then 4 else s.commit.partner) ∧
        u.commit.second = (if s.commit.second = 1 then 4 else s.commit.second)) ∧
    (inRun s = false ∨ s.commit.feedAge < commitTmo s → exec .feedTimeout s = .next s) ∧
    (inRun s = true → isCoordinator s = false → s.commit.heardParent = false →
      100000 ≤ s.commit.helloAge → served (parentDev s) →
      ∃ u, exec .helloRepeat s = .next u ∧ u.commit = { s.commit with helloAge := 0 } ∧
        u.regs = s.regs ∧ u.mem = s.mem ∧
        (s.commit.ready = none → s.commit.copied = none →
          u.ports = (postCommit s (parentDev s) 1 0 0).1.ports)) ∧
    (∀ v, inRun s = true → s.commit.securing = some v →
      (∀ (k : BitVec 8) (d : Desc), copyQueue s k.toNat = true → d.poster = none →
        headStarts s k.toNat = some d → descKind d = 2 → descGood k.toNat d = false →
        nextQueue s (k.toNat / 16) = some k.toNat → engineTested s k.toNat = false →
        ∃ u, exec (.descStart k) s = .next u ∧ commitState u = 2 ∧ reason u = 3) ∧
      (s.commit.targets ≠ [] →
        s.commit.targets.length * shardPages s ≤ s.commit.posted →
        queueClear s n = true → queueClear s (n + 16) = true →
        (s.commit.header = false → (∃ t ∈ s.commit.targets, (routePorts s none t.1).1 = []) →
          ∃ u, exec .securingCopyDone s = .next u ∧ commitState u = 2 ∧ reason u = 2) ∧
        (s.commit.header = false → (∀ t ∈ s.commit.targets, (routePorts s none t.1).1 ≠ []) →
          ∃ u, exec .securingCopyDone s = .next u ∧
          u.commit = { s.commit with header := true } ∧ u.mem = s.mem ∧ u.threads = s.threads) ∧
        (s.commit.header = true → ∃ u, exec .securingCopyDone s = .next u ∧
          u.commit.ownCopied = some v ∧ u.commit.securing = none ∧ verU u = verU s ∧
          verC u = verC s ∧ elseKept u))) ∧
    (∀ (port : BitVec 4) (vc : BitVec 3),
      let s1 := popRx s port.toNat vc.toNat
      let cmds : List (Instr × Nat) := [(.hello port vc, 1), (.ready port vc, 2), (.commit port vc, 3),
        (.copied port vc, 4), (.secured port vc, 5), (.abort port vc, 6), (.feedQuery port vc, 7),
        (.feedReply port vc, 8)]
      (∀ c ∈ cmds, rxHead s port.toNat vc.toNat .mgmt = none → exec c.1 s = .next s) ∧
      ∀ m, rxHead s port.toNat vc.toNat .mgmt = some m →
        (∀ c ∈ cmds, m.obj.toNat ≠ c.2 → exec c.1 s = .next s) ∧
        (∀ c ∈ cmds, m.obj.toNat = c.2 → m.tag.toNat ≠ jobTag s →
          ∃ u, exec c.1 s = .next u ∧ u.commit = s.commit ∧ versions u ∧ elseKept u ∧
            u.ports = s1.ports ∧ rfield u (commitOff 0x48) 32 15 =
              min (2 ^ 15 - 1) (rfield s (commitOff 0x48) 32 15 + 1)) ∧
        (∀ c ∈ cmds, m.obj.toNat = c.2 → m.tag.toNat = jobTag s → inRun s = false → c.2 ≠ 1 →
          exec c.1 s = .next s1) ∧
        (m.tag.toNat = jobTag s →
          (m.obj = 1 →
            (s.commit.children.all (fun c => decide (c.dev ≠ m.src)) = true →
              exec (.hello port vc) s = .next (modCommit s1 (fun c => { c with
                children := c.children ++ [{ dev := m.src, ready := none, copied := none }] }))) ∧
            (s.commit.children.all (fun c => decide (c.dev ≠ m.src)) = false →
              exec (.hello port vc) s = .next s1)) ∧
          (inRun s = true →
            let heard := s.commit.heardParent || decide (m.src = parentDev s)
            (m.obj = 2 →
              let t := modChild s1 m.src (fun c => { c with ready := some m.value })
              (treeComplete s = false ∨ readyVersion t = none → exec (.ready port vc) s = .next t) ∧
              (∀ v, treeComplete s = true → readyVersion t = some v →
                (isCoordinator s = true → verC s < v → ∃ u, exec (.ready port vc) s = .next u ∧
                  verC u = v ∧ verU u = verU s ∧ elseKept u ∧
                  ∀ g ∈ u.commit.gates, v < g.version) ∧
                (isCoordinator s = true → v ≤ verC s → exec (.ready port vc) s = .next t) ∧
                (isCoordinator s = false → s.commit.ready = none → served (parentDev s) →
                  exec (.ready port vc) s = .next
                    (postCommit (modCommit t (fun c => { c with ready := some v })) (parentDev s)
                      2 v 0).1))) ∧
            (m.obj = 3 →
              (m.value ≤ verC s → ∃ u, exec (.commit port vc) s = .next u ∧
                u.commit = { s.commit with heardParent := heard } ∧ u.regs = s.regs ∧
                u.ports = s1.ports ∧ elseKept u) ∧
              (verC s < m.value → ∃ u, exec (.commit port vc) s = .next u ∧ verC u = m.value ∧
                verU u = verU s ∧ u.commit.heardParent = heard ∧ elseKept u ∧
                ∀ g ∈ u.commit.gates, m.value < g.version)) ∧
            (m.obj = 4 →
              let t := modChild s1 m.src (fun c => { c with copied := some m.value })
              (treeComplete s = false ∨ copiedVersion t = none → exec (.copied port vc) s = .next t) ∧
              (∀ v, treeComplete s = true → copiedVersion t = some v →
                (isCoordinator s = true → isSecuring s v = true → v ≤ verC s → verS s < v →
                  ∃ u, exec (.copied port vc) s = .next u ∧ verS u = v ∧ verC u = verC s ∧
                    u.commit.firstSecured = true ∧ elseKept u) ∧
                (isCoordinator s = false → s.commit.copied = none → served (parentDev s) →
                  exec (.copied port vc) s = .next
                    (postCommit (modCommit t (fun c => { c with copied := some v })) (parentDev s)
                      4 v 0).1))) ∧
            (m.obj = 5 →
              (verS s < m.value ∨ (m.value = s.commit.r0 ∧ s.commit.firstSecured = false) →
                ∃ u, exec (.secured port vc) s = .next u ∧ verS u = m.value ∧ verC u = verC s ∧
                  u.commit.firstSecured = true ∧ elseKept u) ∧
              (m.value ≤ verS s → s.commit.firstSecured = true →
                ∃ u, exec (.secured port vc) s = .next u ∧
                  u.commit = { s.commit with heardParent := heard } ∧ u.regs = s.regs)) ∧
            (m.obj = 6 → ∃ u, exec (.abort port vc) s = .next u ∧ aborted u 6 ∧
              u.ports = (tells s1 (some m.src)).ports) ∧
            (m.obj = 7 → served m.src → exec (.feedQuery port vc) s =
              .next (postCommit s1 m.src 8 0 (ownFeed s)).1) ∧
            (m.obj = 8 → s.commit.partner = 1 → partnerDev s = m.src →
              ∃ u, exec (.feedReply port vc) s = .next u ∧
                u.commit.partner = (if m.addr.toNat % 2 ^ 32 = ownFeed s then
                  (if bit (rget s (commitOff 0)) 30 then 3 else 4) else 2) ∧
                (m.addr.toNat % 2 ^ 32 ≠ ownFeed s → rfield u (commitOff 0x48) 60 2 = 0) ∧
                verU u = verU s ∧ verC u = verC s ∧ u.mem = s.mem ∧ u.threads = s.threads))))

/-- A report that is classified takes one log sequence number; one dropped for a full ring is
counted; a STEP event aborts a running job, a DEVICE event or a lockstep mismatch lowers SAFE_N and
asks for a reset. A targeted test starts when its quadrant is free and no slice comes first: a core
stops with its caches and translations empty, a port leaves UP. A region that passes is in service;
one that fails is retired, or asks for replacement where it cannot be; a core that fails stops
issuing in every case, and no test holds it. Recovery clears the lost marks of a quadrant and ends
when its tests have. A scrub reports what it corrected or found unreadable, now or before, once
requests that were ahead of it at the channel have been served. Every command whose condition fails
changes nothing. -/
def Obligations.SafetyController : Prop :=
  ∀ s : State,
    let seq := rget s (safeOff 8)
    let testsOf (u : State) (q : Nat) : List Region := tabGet (fun _ => []) u.safety.tests q
    let isTesting (u : State) (q : Nat) : Bool := tabGet (fun _ => false) u.safety.testing q
    let st (u : State) (q : Nat) : Nat := rfield u (stOff (0x100 + 8 * q)) 0 3
    let devs (u : State) (code : Nat) : Prop := u.safety.resetDue = true ∧
      bit (rget u (safeOff 0)) 0 = false ∧
      u.kept.lastDev = wd (code * 2 ^ 48 + seq.toNat % 2 ^ 48)
    (s.safety.reports = [] → exec (.safetyEvent none) s = .next s) ∧
    (∀ (src : Option Report) (r : Report) (s1 : State),
      ((src = some r ∧ s1 = s) ∨ (src = none ∧ ∃ rest, s.safety.reports = r :: rest ∧
        s1 = { s with safety := { s.safety with reports := rest } })) →
      let log := rget s (safeOff 0x10)
      let tail := rfield s (safeOff 0x18) 0 32
      let full := (tail + 2 ^ 32 - rfield s (safeOff 0x20) 0 32) % 2 ^ 32 = field log 48 16
      let pa := field log 0 48 + 32 * (tail % max 1 (field log 48 16))
      (classOf r = 0 → r.code ≠ 4 → (r.code.toNat < 0x21 ∨ 0x23 < r.code.toNat) →
        (full → exec (.safetyEvent src) s =
          .next (raddSat (rset s1 (safeOff 8) (seq + 1)) (safeOff 0) 32 16 1)) ∧
        (¬ full → inMemory s pa = true →
          let w := (writePa (rset s1 (safeOff 8) (seq + 1)) (unitAgent 7) pa 32
            (ofWords (logWords s r 0))).1
          ∃ u, exec (.safetyEvent src) s = .next u ∧ u.mem = w.mem ∧ u.l2 = w.l2 ∧
            rfield u (safeOff 0x18) 0 32 = (tail + 1) % 2 ^ 32)) ∧
      (classOf r = 2 → inRun s = true → ∃ u, exec (.safetyEvent src) s = .next u ∧
        commitState u = 2 ∧ rfield u (commitOff 0x48) 48 8 = 1) ∧
      (classOf r = 3 → ∃ u, exec (.safetyEvent src) s = .next u ∧ devs u r.code.toNat)) ∧
    (∃ u, exec .lockstepMismatch s = .next u ∧ devs u 0x10) ∧
    (∀ q : BitVec 2,
      let n := q.toNat
      (∀ r rest, testsOf s n = r :: rest →
        (quadFree s n = true → sliceNext s n = false →
          (∀ c, r = .core c → ∃ u, exec (.targetedTest q) s = .next u ∧ isTesting u n = true ∧
            st u n = 3 ∧ (getCore u c).testing = true ∧ (getCore u c).l1d = [] ∧
            (getCore u c).l1i = [] ∧ (getCore u c).ucache = [] ∧ getTlb u c = [] ∧
            rfield u (stOff (0x100 + 8 * n)) 8 6 = c % 34) ∧
          (∀ p, r = .port p → ∃ u, exec (.targetedTest q) s = .next u ∧ portState u p = 0 ∧
            st u n = 5) ∧
          ((∀ c, r ≠ .core c) → (∀ p, r ≠ .port p) → ∃ u, exec (.targetedTest q) s = .next u ∧
            isTesting u n = true ∧ st u n = 5)) ∧
        (quadFree s n = false ∨ sliceNext s n = true → exec (.targetedTest q) s = .next s)) ∧
      (testsOf s n = [] → exec (.targetedTest q) s = .next s) ∧
      (∀ pass, testedRegion s n = none → exec (.targetedTestDone q pass) s = .next s) ∧
      (∀ r, testedRegion s n = some r →
        (∃ u, exec (.targetedTestDone q true) s = .next u ∧ u.kept = s.kept ∧
          isTesting u n = false ∧ testsOf u n = (testsOf s n).drop 1) ∧
        (∀ e, retireEnt s r = some e → e ∉ s.kept.retire → s.kept.retire.length < 256 →
          sparesSpent s r = false → ∃ u, exec (.targetedTestDone q false) s = .next u ∧
            u.kept = { s.kept with retire := s.kept.retire ++ [e] }) ∧
        (∀ c, r = .core c → ∃ u, exec (.targetedTestDone q false) s = .next u ∧
          (getCore u c).stopped = true ∧ (getCore u c).testing = false) ∧
        (∀ e, retireEnt s r = some e → e ∉ s.kept.retire ∨ isRow r = true → sparesSpent s r = true → ∃ u,
          exec (.targetedTestDone q false) s = .next u ∧ u.kept = s.kept ∧
          u.safety.reports = s.safety.reports ++ [{ code := 0xF, unit := BitVec.ofNat 16 (retireUnit r)
                                                    loc := retireWord e, info := 0 }] ∧
          ((∀ a, r ≠ .ddrRow a) → bit (rget u (safeOff 0)) 1 = true) ∧
          (∀ a, r = .ddrRow a → bit (rget u (safeOff 0)) 2 = true)) ∧
        (retireEnt s r = none → ∃ u, exec (.targetedTestDone q false) s = .next u ∧
          u.kept = s.kept ∧ bit (rget u (safeOff 0)) 1 = true ∧ isTesting u n = false)) ∧
      (∀ src : Sender,
        (mayWrite s src 0 = false → exec (.safeRecover src q) s = .next s) ∧
        (mayWrite s src 0 = true →
          (s.safety.recover = none → mayRecover s n = true →
            ∃ u, exec (.safeRecover src q) s = .next u ∧ u.safety.recover = some n ∧
              (∀ x ∈ u.lost, x / 32768 ≠ n) ∧ bit (rget u (safeOff 0x50)) 62 = true) ∧
          (s.safety.recover ≠ none ∨ mayRecover s n = false →
            exec (.safeRecover src q) s = .next (rsetField s (safeOff 0x50) 61 1 1))))) ∧
    (∀ q, s.safety.recover = some q →
      (testsOf s q = [] → exec .recoveryDone s = .next
        (rsetField { s with safety := { s.safety with recover := none } } (safeOff 0x50) 62 1 0)) ∧
      (testsOf s q ≠ [] → exec .recoveryDone s = .next s)) ∧
    (∀ (l : BitVec 39) (good bad : BitVec 16),
      let pa := 128 * l.toNat
      let unit := unitOf (homeQuad pa) (lineChannel l.toNat % 64)
      (inMemory s pa = false → exec (.dramScrub l good bad) s = .next s) ∧
      let s1 := passChannel s (lineChannel l.toNat) 32
      let bads := badWords s1 l.toNat ||| bad
      (inMemory s pa = true → good ≠ 0 → bads = 0 → exec (.dramScrub l good bad) s =
        .next (report s1 1 unit (wd pa) (good.zeroExtend 64))) ∧
      (inMemory s pa = true → bads ≠ 0 → exec (.dramScrub l 0 bad) s =
        .next (report { s1 with memBad := tabSet (fun _ => 0) s1.memBad l.toNat bads } 4 unit
          (wd pa) 0)) ∧
      (tabFind s.l2 l.toNat = none → exec (.l2Scrub l good bad) s = .next s) ∧
      (∀ ln, tabFind s.l2 l.toNat = some ln →
        let unit := unitOf (homeQuad pa) (l.toNat % 32)
        let part := inWay (lineBank l.toNat) ln.way
        (good ≠ 0 → ln.bad ||| bad = 0 → exec (.l2Scrub l good bad) s =
          .next (report s 2 unit (wd (16 * (24 * lineSet l.toNat + ln.way) + lowestBit good)) part)) ∧
        (ln.bad ||| bad ≠ 0 → exec (.l2Scrub l 0 bad) s =
          .next (report { s with l2 := tabPut s.l2 l.toNat { ln with bad := ln.bad ||| bad } } 4
            unit (wd pa) part))))

/-- A slot makes the slice of its core due in each quadrant; the oldest slice starts when its
quadrant is free and no test comes first, holds its core with empty caches, and ends with the core
in service or, with another signature or an uncorrectable error, retired. A slice that is late makes
its core PENDING, which shuts the gates. An analogue check that passes ends an overdue one; one that
fails has the action of its part. A monitor below the alarm raises the voltage by one step, or at
the ceiling lowers the clock; a re-plan sets a number of steps within the ceiling, each of which a
voltage step takes. Every command whose condition fails changes nothing. -/
def Obligations.SelfTestAndAgeing : Prop :=
  ∀ s : State,
    let seq := rget s (safeOff 8)
    let testsOf (u : State) (q : Nat) : List Region := tabGet (fun _ => []) u.safety.tests q
    let runs (u : State) (q : Nat) : Option Nat := tabGet (fun _ => none) u.selfTest.running q
    let st (u : State) (q : Nat) : Nat := rfield u (stOff (0x100 + 8 * q)) 0 3
    let devs (u : State) (code : Nat) : Prop := u.safety.resetDue = true ∧
      bit (rget u (safeOff 0)) 0 = false ∧
      u.kept.lastDev = wd (code * 2 ^ 48 + seq.toNat % 2 ^ 48)
    (∀ q : BitVec 2,
      let n := q.toNat
      (∀ (c a k : Nat) (rest : List (Nat × Nat × Nat)),
        tabGet (fun _ => []) s.selfTest.due n = (c, a, k) :: rest →
        (quadFree s n = true → slicesRun s = true → k = 0 →
          ((getCore s c).stopped = true → exec (.sliceStart q) s = .next (setDue s n rest)) ∧
          ((getCore s c).stopped = false → ∃ u, exec (.sliceStart q) s = .next u ∧
            runs u n = some c ∧ st u n = 3 ∧ (getCore u c).testing = true ∧
            (getCore u c).l1d = [] ∧ rfield u (stOff (0x100 + 8 * n)) 8 6 = c % 34)) ∧
        (quadFree s n = false ∨ slicesRun s = false ∨ k ≠ 0 →
          exec (.sliceStart q) s = .next s) ∧
        (slicesRun s = true → lateCycles s < a → c ∉ s.safety.lapses →
          ∃ u, exec (.stLapse q) s = .next u ∧ coreIx n (c % 34) ∈ u.safety.lapses ∧
            gatesShut u = true ∧ u.selfTest = s.selfTest)) ∧
      (tabGet (fun _ => []) s.selfTest.due n = [] →
        exec (.sliceStart q) s = .next s ∧ exec (.stLapse q) s = .next s) ∧
      (∀ (sig : BitVec 64) (ue : Bool),
        (runs s n = none → exec (.sliceEnd q sig ue) s = .next s) ∧
        (∀ c, runs s n = some c →
          let good := ue = false ∧ sig = rget s (stOff (0x400 + 8 * b2n (isControl c)))
          (good → ∃ u, exec (.sliceEnd q sig ue) s = .next u ∧ runs u n = none ∧ u.kept = s.kept ∧
            c ∉ u.safety.lapses ∧ (c, 0) ∈ u.selfTest.passed) ∧
          (¬ good → ∃ u, exec (.sliceEnd q sig ue) s = .next u ∧
              runs u n = none ∧ c ∉ u.safety.lapses ∧ (getCore u c).stopped = true ∧
              (getCore u c).testing = false ∧
              ({ kind := 3, region := BitVec.ofNat 48 (coreIsland s c) } ∈ s.kept.retire ∨
                s.kept.retire.length < 256 →
                { kind := 3, region := BitVec.ofNat 48 (coreIsland s c) } ∈ u.kept.retire))))) ∧
    (isReady s = true → 750000 ≤ s.selfTest.elapsed →
      ∃ u, exec .selfTestSlot s = .next u ∧ u.selfTest.elapsed = 0 ∧
        u.selfTest.slot = (if 33 ≤ s.selfTest.slot then 0 else s.selfTest.slot + 1) ∧
        u.selfTest.running = s.selfTest.running ∧ u.mem = s.mem ∧ u.threads = s.threads ∧
        ∀ q, q < 4 →
          let c := coreIx q u.selfTest.slot
          tabGet (fun _ => []) u.selfTest.due q = tabGet (fun _ => []) s.selfTest.due q ++
            (if slicesRun s && corePresent s c && !(getCore s c).stopped
             then [(c, 0, (testsOf s q).length)] else [])) ∧
    (isReady s = false ∨ s.selfTest.elapsed < 750000 → exec .selfTestSlot s = .next s) ∧
    (∀ (part : AnaPart) (i : BitVec 14) (v : BitVec 64),
      let n := i.toNat
      (exec (.analogueCheck part i v false) s = .next (lapseBit { s with
        safety := { s.safety with overdue := s.safety.overdue.filter (fun x => decide (x ≠ (part, n))) } })) ∧
      (∃ u, exec (.analogueCheck part i v true) s = .next u ∧
        (part = .vref ∨ part = .bref → devs u 0xB) ∧
        (part = .phy → n ∈ u.safety.retrain) ∧ (part = .temp → n ∈ u.safety.excluded) ∧
        (part = .osc → n ∈ u.power.halted) ∧
        (part = .serdes → Region.port (n / 4 % 16) ∈ testsOf u (n / 4 % 16 / 4)) ∧
        (part ≠ .serdes → (part, n) ∉ u.safety.overdue)) ∧
      ((part, n) ∈ s.safety.overdue → exec (.analogueOverdue part i) s = .next s) ∧
      ((part, n) ∉ s.safety.overdue → ∃ u, exec (.analogueOverdue part i) s = .next u ∧
        u.safety.overdue = s.safety.overdue ++ [(part, n)] ∧ gatesShut u = true ∧
        bit (rget u (safeOff 0)) 3 = true)) ∧
    (∀ (island : BitVec 8) (slack : BitVec 16),
      let n := island.toNat
      let v := getIsland s n
      let lowered (c : Instr) : Prop := islandMoves n = true → ∃ u, exec c s = .next u ∧
        getIsland u n = { v with
          lowered := BitVec.ofNat 8 (min 255 (v.lowered.toNat + 1)), limit := true } ∧
        n ∈ u.power.changing ∧ (∀ c, islandCore s n = some c →
          rfield u (coreReg c 0x38) 0 8 = rfield s (coreReg c 0x38) 0 8 - 1)
      let raised (u : State) : Prop := getIsland u n = { v with
        steps := BitVec.ofNat 8 (min 255 (v.steps.toNat + 1)) } ∧ u.mem = s.mem ∧ u.regs = s.regs
      let alarm : Int := (rfield s (ageOff 0) 32 8 : Nat)
      let target : Int := (rfield s (ageOff 0) 40 8 : Nat)
      let left := rfield s (ageOff 0) 56 8 - v.steps.toNat
      let k := tabGet (fun _ => 0) s.power.raising n
      (alarm ≤ slack.toInt → exec (.monitorSample island slack) s = .next { s with
        power := { s.power with slack := tabSet (fun _ => 0) s.power.slack n slack } }) ∧
      (slack.toInt < alarm → atCeiling s n = false →
        ∃ u, exec (.monitorSample island slack) s = .next u ∧ raised u ∧
          tabGet (fun _ => 0) u.power.slack n = slack) ∧
      (slack.toInt < alarm → atCeiling s n = true → lowered (.monitorSample island slack) ∧
        (islandMoves n = false → ∃ u, exec (.monitorSample island slack) s = .next u ∧
          u.kept = s.kept ∧ bit (rget u (safeOff 0)) 1 = true)) ∧
      (target ≤ slack.toInt → exec (.rePlan island slack) s = .next s) ∧
      (slack.toInt < target → left ≠ 0 → ∃ u, exec (.rePlan island slack) s = .next u ∧
        1 ≤ tabGet (fun _ => 0) u.power.raising n ∧ tabGet (fun _ => 0) u.power.raising n ≤ left ∧
        u.kept = s.kept ∧ u.regs = s.regs) ∧
      (slack.toInt < target → left = 0 → lowered (.rePlan island slack)) ∧
      (k = 0 → exec (.voltageStep island) s = .next s) ∧
      (k ≠ 0 → ∃ u, exec (.voltageStep island) s = .next u ∧
        tabGet (fun _ => 0) u.power.raising n = k - 1 ∧
        (atCeiling s n = false → raised u) ∧ (atCeiling s n = true → u.kept = s.kept)) ∧
      (exec (.clockChangeEnd island) s = .next { s with power := { s.power with
        changing := s.power.changing.filter (fun x => decide (x ≠ n)) } })) ∧
    (∀ ch : BitVec 9, exec (.channelRetrainDone ch) s = .next { s with safety := { s.safety with
      retrain := s.safety.retrain.filter (fun x => decide (x ≠ ch.toNat)) } })

/-- A device reset keeps the flash, fuses, stores, reset count and (but at power-on) SAFE_LASTDEV,
the commands that wait and the draw counter of the model (log entries 1 and 3); way 0 of each
quadrant moves to its lowest healthy physical way, every other part of the state takes its reset
value and boot step 1 is in progress. One asked for during another merges into it, but for the first
rise of PGOOD. A software reset needs ring 0, its key and, from the host, that its earlier writes
are done. A PCIe reset resets the configuration space, the BARs, the MSI-X table, HOST_EVT and the
host's transaction, and nothing else; PWR_EN falling stops the stages and PGOOD and loses everything
volatile. -/
def Obligations.DeviceResets : Prop :=
  ∀ s : State,
    let resets (c : Instr) (kind : Nat) (pg : Bool) : Prop := ∃ u, exec c s = .next u ∧
      u.pending = s.pending ∧ u.kept = { s.kept with
        resets := if s.kept.lc = 0 then 0 else s.kept.resets + 1
        diag := s.kept.diag && decide (kind = 4)
        lastDev := if kind = 0 then 0 else s.kept.lastDev } ∧
      rget u 0x18 = setField (regReset 0x18) 24 4 kind ∧ rget u (safeOff 0x48) = u.kept.lastDev ∧
      (∀ o, o ≠ 0x18 → o ≠ safeOff 0x48 → rget u o = regReset o) ∧
      u.power = { Power.reset with tripped := s.power.tripped, supplyHeld := s.power.supplyHeld,
                                   stages := s.power.stages, pgood := pg } ∧
      u.security = { Security.idle with nonceDraw := some s.fresh } ∧
      u.wayZero = waysZero u.kept ∧
      { u with pending := [], fresh := State.reset.fresh, regs := [], kept := .new, power := .reset
               security := .idle, wayZero := [] } = State.reset
    let merged : State := { s with safety := { s.safety with resetDue := false } }
    (s.power.stages = true → s.power.pgood = false ∨ inReset s = false → resets .powerOnReset 0 true) ∧
    (s.power.stages = true → s.power.pgood = true → inReset s = true →
      exec .powerOnReset s = .next merged) ∧
    (s.power.stages = false → exec .powerOnReset s = .next s ∧ exec .moduleReset s = .next s) ∧
    (s.power.stages = true → inReset s = false → resets .moduleReset 1 s.power.pgood) ∧
    (s.power.stages = true → inReset s = true → exec .moduleReset s = .next merged) ∧
    (s.safety.resetDue = true → inReset s = false → resets .safetyReset 2 s.power.pgood) ∧
    (s.safety.resetDue = true → inReset s = true → exec .safetyReset s = .next merged) ∧
    (s.safety.resetDue = false → exec .safetyReset s = .next s) ∧
    (∀ (src : Sender) (v : BitVec 64),
      (senderRing s src = 0 → inReset s = false → hostClear s src = true → field v 0 8 = 0xA5 →
        resets (.softwareReset src v) 3 s.power.pgood) ∧
      (senderRing s src ≠ 0 ∨ inReset s = true ∨ hostClear s src = false ∨ field v 0 8 ≠ 0xA5 →
        exec (.softwareReset src v) s = .next s)) ∧
    (∃ u, exec .pcieReset s = .next u ∧ rget u (hostOff 0) = 0 ∧ u.host.reply = none ∧
      u.host.config = [] ∧ u.host.bar0 = 0 ∧ u.host.bar2 = 0 ∧
      (∀ o, hostOff 0x8000 ≤ o → o < hostOff 0x10100 → rget u o = regReset o) ∧
      (∀ o, o ≠ hostOff 0 → o < hostOff 0x8000 ∨ hostOff 0x10100 ≤ o → rget u o = rget s o) ∧
      (∀ t, t ∈ u.txn.txns ↔ t ∈ s.txn.txns ∧ (t.who ≠ 0 ∨ t.committed = true)) ∧
      { u with regs := [], txn := .idle, host := .idle } =
        { s with regs := [], txn := .idle, host := .idle }) ∧
    (exec .powerStagesStart s = .next { s with power := { s.power with stages := true } }) ∧
    (∃ u, exec .pwrEnFall s = .next u ∧ u.pending = s.pending ∧
      u.kept = { s.kept with lastDev := 0, diag := false } ∧
      u.power = { Power.reset with stages := false, pgood := false } ∧ (∀ o, rget u o = regReset o) ∧
      { u with pending := [], fresh := State.reset.fresh, kept := .new, power := .reset
               security := .idle } = State.reset)

/-- Each boot command ends its step where the stage is its own, with its effect and the next stage,
NODECK or FAILED; at any other stage it changes nothing. Step 1 holds the retired ways off, step 2
picks the copy of the highest generation that passes its header checks and reads it with its
training record, step 3 records the outcome of its verification and tries the next, which step 2
reads anew, step 4 applies the sections read (an entry of REGS as a write of the register), or ends
where one resets the device, step 5 gives numbers to healthy cores, steps 6 and 7 record the
memories and which of them train fully, step 8 waits for the links, and step 9 loads the control
image, starts the first control core of each quadrant and reports READY. -/
def Obligations.BootSequence : Prop :=
  ∀ s : State,
    let stage (u : State) : Nat := rfield u 0x18 0 4
    (bootAt s 1 = true → ∃ u, exec .bootRom s = .next u ∧ stage u = 2 ∧ u.kept = s.kept ∧
      u.boot = s.boot ∧
      (∀ q w, q < 4 → w < 24 → bit (rget u (l2Off q 0x100)) (24 + w) =
        (bit (rget s (l2Off q 0x100)) (24 + w) && !wayRetired s q w)) ∧
      ∀ e ∈ s.kept.retire, e.kind = 2 →
        let way := field (e.region.zeroExtend 64) 0 5
        way ≠ 0 → way < 24 →
        bit (rget u (l2Off (field (e.region.zeroExtend 64) 8 2) 0x100)) (24 + way) = false) ∧
    (bootAt s 1 = false → exec .bootRom s = .next s) ∧
    (∀ errA errB : Bool,
      let c : Instr := .bootRead errA errB
      let a := headerCode s 1 errA
      let b := headerCode s 2 errB
      let takes (n : Nat) (rest : List Nat) : Prop := ∃ u, exec c s = .next u ∧ stage u = 3 ∧
        u.boot = { s.boot with
          todo := rest, copy := n, svn := BitVec.ofNat 8 (deckSvn s n), gen := BitVec.ofNat 32 (deckGen s n)
          flags := BitVec.ofNat 8 (headerField s n 7 1), size := deckSize s n
          sections := deckSections s n
          image := flashBytes s (copyBase n) (deckSize s n)
          record := flashBytes s (recordBase n) recordSize } ∧ u.kept = s.kept
      let fails (why : State → Prop) : Prop := ∃ u, exec c s = .next u ∧ stage u = 0xB ∧ why u ∧
        bit (rget u (hostOff 0)) 22 = true ∧ u.kept = s.kept
      (bootAt s 2 = false → exec c s = .next s) ∧
      (bootAt s 2 = true → lcState s = 4 → fails (fun _ => True)) ∧
      (bootAt s 2 = true → lcState s ≠ 4 → s.boot.copy = 0 →
        (a = 0xF → (b ≠ 0xF ∨ deckGen s 2 ≤ deckGen s 1) → takes 1 (if b = 0xF then [2] else [])) ∧
        (b = 0xF → (a ≠ 0xF ∨ deckGen s 1 < deckGen s 2) → takes 2 (if a = 0xF then [1] else [])) ∧
        (a ≠ 0xF → b ≠ 0xF →
          fails (fun u => rfield u 0x18 8 4 = a ∧ rfield u 0x18 12 4 = b))) ∧
      (bootAt s 2 = true → lcState s ≠ 4 → s.boot.copy ≠ 0 →
        let code := headerCode s s.boot.copy (if s.boot.copy = 2 then errB else errA)
        let records (u : State) : Prop := rfield u 0x18 (if s.boot.copy = 2 then 12 else 8) 4 = code
        (code = 0xF → takes s.boot.copy s.boot.todo) ∧
        (code ≠ 0xF → s.boot.todo = [] → fails records) ∧
        (∀ n rest, code ≠ 0xF → s.boot.todo = n :: rest → ∃ u, exec c s = .next u ∧ stage u = 2 ∧
          records u ∧ u.boot = { s.boot with todo := rest, copy := n } ∧ u.kept = s.kept))) ∧
    (bootAt s 3 = false → exec .bootVerify s = .next s) ∧
    (bootAt s 3 = true → verifyCode s = 0 → ∃ u, exec .bootVerify s = .next u ∧ stage u = 4 ∧
      rfield u 0x18 (if s.boot.copy = 2 then 12 else 8) 4 = 0 ∧ u.boot = s.boot) ∧
    (bootAt s 3 = true → verifyCode s ≠ 0 →
      (s.boot.todo = [] → ∃ u, exec .bootVerify s = .next u ∧ stage u = 0xB ∧
        rfield u 0x18 (if s.boot.copy = 2 then 12 else 8) 4 = verifyCode s) ∧
      (∀ n rest, s.boot.todo = n :: rest → ∃ u, exec .bootVerify s = .next u ∧ stage u = 2 ∧
        rfield u 0x18 (if s.boot.copy = 2 then 12 else 8) 4 = verifyCode s ∧
        u.boot = { s.boot with todo := rest, copy := n })) ∧
    (bootAt s 4 = false → exec .bootApply s = .next s) ∧
    (bootAt s 4 = true →
      let a := s.boot.sections.foldl applySection s
      (inReset a = true → exec .bootApply s = .next a) ∧
      (inReset a = false → ∃ u, exec .bootApply s = .next u ∧ stage u = 5 ∧
        u.boot.deckApplied = true ∧ u.kept = a.kept ∧
        rget u 0x20 = wd (a.boot.svn.toNat * 2 ^ 48 + a.boot.gen.toNat) ∧
        rfield u 0x18 16 4 = a.boot.copy % 16 ∧
        ∀ x o v, s.boot.sections = [x] → x.1 = 0xB → regsEntries (sectionBytes s x) = [(o, v)] →
          s.boot.deckApplied = false → (regAt o).w1c = 0 → o ≠ 0x18 → o ≠ 0x20 →
          (∀ q, o ≠ l2Off q 0x100 ∧ o ≠ qcmOff q 0x108 ∧ o ≠ qcmOff q 0x110) →
          (∀ ci, o ≠ coreReg ci 8 ∧ o ≠ coreReg ci 0x38) →
          (∀ t, putReg t .host o v = plainWrite t .host o v) →
          rget u o &&& deckMask o = v &&& deckMask o)) ∧
    (∀ failed : List CoreRef,
      (bootAt s 5 = false → exec (.bootZero failed) s = .next s) ∧
      (bootAt s 5 = true → ∃ u, exec (.bootZero failed) s = .next u ∧ stage u = 6 ∧
        (failed = [] → (∀ e ∈ s.kept.retire, e.kind ≠ 3) → ∀ ci, ci < 136 → corePresent u ci = true) ∧
        (s.kept.retire.length + failed.length ≤ 256 → ∀ f ∈ failed, f.core.toNat < 36 →
          { kind := 3, region := BitVec.ofNat 48 (64 * f.quad.toNat + f.core.toNat) } ∈
            u.kept.retire) ∧ ∀ e ∈ s.kept.retire, e ∈ u.kept.retire)) ∧
    (∀ stk : List MemInfo,
      (bootAt s 6 = false → exec (.bootHbm stk) s = .next s) ∧
      (bootAt s 6 = true → ∃ u, exec (.bootHbm stk) s = .next u ∧ stage u = 7 ∧ u.kept = s.kept ∧
        u.mem = s.mem ∧ ∀ k, k < 8 → rfield u (mcOff (k / 2) (0x100 + 8 * (k % 2))) 62 2 =
          memState ((stk[k]?).getD noMem) ∧
          bit (rget u (mcOff (k / 2) (0x100 + 8 * (k % 2)))) 61 = trainsFully s k ((stk[k]?).getD noMem))) ∧
    (∀ chs : List MemInfo,
      (bootAt s 7 = false → exec (.bootDdr chs) s = .next s) ∧
      (bootAt s 7 = true → ∃ u, exec (.bootDdr chs) s = .next u ∧ stage u = 8 ∧ u.kept = s.kept ∧
        (∀ k, k < 16 → rfield u (mcOff (k / 4) (8 * (k % 4))) 62 2 = memState ((chs[k]?).getD noMem) ∧
          bit (rget u (mcOff (k / 4) (8 * (k % 4)))) 61 = trainsFully s (8 + k) ((chs[k]?).getD noMem)) ∧
        (∀ p, p < 16 → portBlocked s p = none → portState u p = 1) ∧
        ∀ q, q < 4 → ddrCapacity u q = installed chs q ∧
          (let share := rfield s (dealOff (0x1108 + 16 * q)) 0 30
           rfield u (dealOff (0x1108 + 16 * q)) 0 30 =
             (if installed chs q < share * 65536 then 0 else share)) ∧
          (installed chs q < rfield s (dealOff (0x1108 + 16 * q)) 0 30 * 65536 →
            bit (rget u 0x18) 23 = true))) ∧
    (bootAt s 8 = true → (∀ p, p < 16 → portSettled s p = true) →
      exec .bootLinks s = .next (setStage s 9)) ∧
    (bootAt s 8 = false ∨ (∃ p, p < 16 ∧ portSettled s p = false) →
      exec .bootLinks s = .next s) ∧
    (bootAt s 9 = false → exec .bootStart s = .next s) ∧
    (bootAt s 9 = true → s.present.any (fun e => isControl e.1) = false →
      ∃ u, exec .bootStart s = .next u ∧ stage u = 0xC ∧ rfield u 0x18 20 3 = 1 ∧
        bit (rget u (hostOff 0)) 22 = true ∧ u.threads = s.threads) ∧
    (bootAt s 9 = true → s.present.any (fun e => isControl e.1) = true →
      ∃ u, exec .bootStart s = .next u ∧ stage u = 0xA ∧ bit (rget u (safeOff 0)) 0 = true ∧
        bit (rget u (hostOff 0)) 22 = true ∧ u.mem = (loadImage s).mem ∧
        u.kept.svnMin = (if s.boot.flags.getLsbD 0 ∧ s.kept.svnMin.toNat < s.boot.svn.toNat
          then BitVec.ofNat 6 (min 63 s.boot.svn.toNat) else s.kept.svnMin) ∧
        (∀ q, q < 4 → corePresent s (coreIx q 32) = true → (getCore s (coreIx q 32)).testing = false →
          bit (rget u (coreReg (coreIx q 32) 8)) 0 = true) ∧
        ∀ q, q < 4 → corePresent s (coreIx q 32) = false → corePresent s (coreIx q 33) = true →
          (getCore s (coreIx q 33)).testing = false →
          bit (rget u (coreReg (coreIx q 33) 8)) 0 = true)

/-- A register write that reaches its register gives each field what its access code says, one of a
wrong size is counted, and a read answers the register; one that does not reach it writes nothing
and reads 0. The host's access waits for its earlier writes to memory. Transactions open, stage,
commit, apply, roll back and time out with the results the rules give: an entry takes its place in
the store or fails the transaction, a conflict or a forbidden value ends it, the oldest accepted
commit is applied whole at its safe point, and a changed port setting takes the port through
bring-up. A sender without the right changes nothing. -/
def Obligations.RegistersAndTransactions : Prop :=
  ∀ s : State,
    let rwMask (o : Nat) : Word := if s.boot.deckApplied then (regAt o).rw else (regAt o).rw ||| (regAt o).rwl
    let written (o : Nat) (v : Word) : Word :=
      ((rget s o &&& ~~~(rwMask o)) ||| (v &&& rwMask o)) &&& ~~~(v &&& (regAt o).w1c)
    let answers (c : Instr) (who code : Nat) (id : BitVec 16) (f : Option Txn) : Prop := ∃ u,
      exec c s = .next u ∧ txnOf u who = f ∧ txnResult u who = { result := code, last := id } ∧
      (∀ w, w ≠ who → txnOf u w = txnOf s w ∧ txnResult u w = txnResult s w) ∧ u.mem = s.mem
    let reaches (src : Sender) (o : Nat) : Bool :=
      regDefined o && reach s src (blockOf o).1 (blockOf o).2 && responds s (blockOf o).1
    (∀ (src : Sender) (off : BitVec 28) (v : BitVec 64),
      let o := off.toNat
      (src ≠ .board → hostClear s src = true →
        (o % 8 ≠ 0 → exec (.registerWrite src off 8 v) s = .next (badWrite s)) ∧
        (o % 8 = 0 → reaches src o = false → exec (.registerWrite src off 8 v) s = .next s ∧
          ∃ u, exec (.bar0Read src off 8) s = .next u ∧ u.host.reply = some (.data 0)) ∧
        (o % 8 = 0 → reaches src o = true →
          (putReg s src o v = plainWrite s src o v → (regAt o).txn = 0 →
            exec (.registerWrite src off 8 v) s = .next (rset s o (written o v))) ∧
          ∃ u, exec (.bar0Read src off 8) s = .next u ∧
            u.host.reply = some (.data (regView s src o)) ∧ u.mem = s.mem ∧ u.threads = s.threads ∧
            ∀ k, (∀ q, k ≠ qcmOff q 0x100) → rget u k = rget s k)) ∧
      (hostClear s src = false → exec (.registerWrite src off 8 v) s = .next s ∧
        exec (.bar0Read src off 8) s = .next s ∧ exec (.txnStage src off v) s = .next s) ∧
      (inReset s = false → src = .board →
        (exec (.bar0Read src off 8) s = .next { s with host := { s.host with
          reply := some (.data (wd (boardRead s o))) } }) ∧
        (o = 0x0E → exec (.registerWrite src off 8 v) s = .next { s with power := { s.power with
          alert := s.power.alert &&& ~~~(v.truncate 16) } }) ∧
        (o ≠ 0x0E → exec (.registerWrite src off 8 v) s = .next s)) ∧
      (let who := requester src
       src ≠ .board → hostClear s src = true → o % 8 = 0 → (regAt o).txn ≠ 0 → reaches src o = true →
       putReg s src o v = plainWrite s src o v →
        (openTxn s who = none → answers (.txnStage src off v) who 2 0 (txnOf s who)) ∧
        (∀ t, openTxn s who = some t →
          (mayStage s src o = false →
            answers (.txnStage src off v) who 5 t.id (some { t with age := 0 })) ∧
          (mayStage s src o = true → t.failed = true →
            answers (.txnStage src off v) who 7 t.id (some t)) ∧
          (mayStage s src o = true → t.failed = false →
           (∀ q, q < 4 → o ≠ qcmOff q 0x108 ∧ o ≠ qcmOff q 0x110) →
            ((tabFind t.regs o).isSome = true ∨ 0 < txnFree s →
              answers (.txnStage src off v) who 0 t.id
                (some { t with regs := tabPut t.regs o (v &&& (regAt o).txn), age := 0 })) ∧
            ((tabFind t.regs o).isSome = false → txnFree s = 0 →
              answers (.txnStage src off v) who 7 t.id (some { t with failed := true, age := 0 })))))) ∧
    (∀ (src : Sender) (v : BitVec 64) (id : BitVec 16),
      let who := requester src
      let opens := Instr.cfgTxnBegin src v
      let commit := Instr.cfgTxnCommit src id
      let back := Instr.cfgTxnRollback src id
      (mayWrite s src 1 = false →
        exec opens s = .next s ∧ exec commit s = .next s ∧ exec back s = .next s) ∧
      (mayWrite s src 1 = true →
        (bit v 0 = false → exec opens s = .next s) ∧
        (bit v 0 = true → txnOf s who = none → answers opens who 0 s.txn.nextId (some
          { who := who, id := s.txn.nextId, regs := [], words := [], ucodeAddr := [], ucodeLo := []
            failed := false, committed := false, began := s.txn.commits, age := 0 })) ∧
        (∀ t, bit v 0 = true → txnOf s who = some t →
          answers opens who 1 t.id (some { t with age := 0 })) ∧
        (openTxn s who = none →
          answers commit who 3 id (txnOf s who) ∧ answers back who 3 id (txnOf s who)) ∧
        (∀ t, openTxn s who = some t →
          (t.id ≠ id → answers commit who 3 id (some { t with age := 0 }) ∧
            answers back who 3 id (some { t with age := 0 })) ∧
          (t.id = id →
            answers back who 0 id none ∧
            (t.failed = true → answers commit who 7 id none) ∧
            (t.failed = false → txnConflict s t = true → answers commit who 4 id none) ∧
            (t.failed = false → txnConflict s t = false → txnForbidden s t = true →
              answers commit who 6 id none) ∧
            (t.failed = false → txnConflict s t = false → txnForbidden s t = false →
              answers commit who 0 id (some { t with committed := true })))))) ∧
    (∀ (id : BitVec 16) (t : Txn),
      (s.txn.txns.find? (fun t => decide (t.id = id ∧ t.committed = false)) = some t →
        (t.age < 2 ^ 24 → exec (.txnTimeout id) s = .next s) ∧
        (2 ^ 24 ≤ t.age → ∃ u, exec (.txnTimeout id) s = .next u ∧ txnOf u t.who = none ∧
          txnResult u t.who = { result := 8, last := id } ∧ u.mem = s.mem)) ∧
      (s.txn.txns.find? (fun t => t.committed) = some t →
        (t.id ≠ id ∨ txnSafe s t = false → exec (.txnApply id) s = .next s) ∧
        (t.id = id → txnSafe s t = true → ∃ u, exec (.txnApply id) s = .next u ∧
          txnOf u t.who = none ∧ txnResult u t.who = { result := 0, last := id } ∧
          (∀ o v, t.regs = [(o, v)] → (∀ q, (blockOf o).1 ≠ .link q) →
            rget u o &&& (regAt o).txn = v &&& (regAt o).txn) ∧
          (∀ p v, p < 16 → t.regs = [(portOff p 0, v)] → portUp s p = false →
            let o := portOff p 0
            let m := (regAt o).txn
            let s1 := rset s o ((rget s o &&& ~~~m) ||| (v &&& m))
            (rget s o ^^^ rget s1 o) &&& 0xFFFFF0F000000307 ≠ 0 → portBlocked s1 p = none →
            portState u p = 1) ∧
          (∀ k w, t.words = [(k, w)] → tabGet (fun _ => 0) u.ucode k = w ∧
            ∀ c, c / 34 = k / 65536 → (getCore u c).ucache = [])))) ∧
    (∀ id, (∀ t ∈ s.txn.txns, t.committed = false) → exec (.txnApply id) s = .next s)

/-- The host reads and writes memory through BAR2, answered with an Unsupported Request outside
memory and before READY, and with a Completer Abort for an unreadable line. Unmasking a vector sends
it where it was pending; HOST_RAISE sends one or sets its pending bit. A doorbell takes a value
while it is empty, and else sets OVR. The debug port claims, releases, stops and runs threads where
the life-cycle state lets it, and signals or sets objects; the boundary-scan instructions change
nothing. -/
def Obligations.HostInterface : Prop :=
  ∀ s : State,
    (∀ (off : BitVec 36) (len : BitVec 13) (data : List (BitVec 8)),
      let ws := cutRun (data.length / 128 + 2) (bar2Addr s off) data.length (ofBytes data)
      (isReady s = false → exec (.bar2Read off len) s = .next (hostReply s .unsupported) ∧
        exec (.bar2Write off data) s = .next s) ∧
      (isReady s = true → hostClear s .host = false →
        exec (.bar2Read off len) s = .next s ∧ exec (.bar2Write off data) s = .next s) ∧
      (isReady s = true → hostClear s .host = true →
        (∀ u v, readSpan bar2Agent (len.toNat / 128 + 2) len.toNat s (bar2Addr s off) = (u, .inl v) →
          exec (.bar2Read off len) s = .next (hostReply u (.bytes (bytesOf len.toNat v)))) ∧
        (∀ u c i, readSpan bar2Agent (len.toNat / 128 + 2) len.toNat s (bar2Addr s off) = (u, .inr (c, i)) →
          exec (.bar2Read off len) s = .next (hostReply u (if c = 9 then .unsupported else .abort))) ∧
        (∀ u ps, xlatAll bar2Agent .store 1 (ws.map (fun w => (w.addr, 0))) s = (u, .inl ps) →
          exec (.bar2Write off data) s = .next (performAll bar2Agent (ps.zip ws) u).1) ∧
        (∀ u e, xlatAll bar2Agent .store 1 (ws.map (fun w => (w.addr, 0))) s = (u, .inr e) →
          exec (.bar2Write off data) s = .next (raddSat u (hostOff 0x18) 0 32 1)))) ∧
    (∀ (vec : BitVec 11) (k : BitVec 4) (v : BitVec 64) (t : Thr),
      let n := vec.toNat
      let pba := hostOff (0x10000 + n / 64 * 8)
      let h2d := hostOff (0x108 + 0x20 * k.toNat)
      let d2h := hostOff (0x110 + 0x20 * k.toNat)
      let takes (c : Instr) (o : Nat) (evt : State → Prop) : Prop :=
        (bit (rget s o) 63 = true → exec c s = .next (rsetField s o 62 1 1)) ∧
        (bit (rget s o) 63 = false → ∃ u, exec c s = .next u ∧ rfield u o 0 32 = field v 0 32 ∧
          bit (rget u o) 63 = true ∧ evt u ∧ u.mem = s.mem)
      (mayWrite s .host 0 = true →
        (∃ u, exec (.msixUnmask vec) s = .next u ∧ bit (rget u (msixCtl n)) 32 = false ∧
          u.host.msgs = (if bit (rget s (msixCtl n)) 32 && bit (rget s pba) (n % 64)
            then n :: s.host.msgs else s.host.msgs) ∧ u.mem = s.mem ∧ u.threads = s.threads) ∧
        takes (.mbxH2d k v) h2d (fun _ => True)) ∧
      (mayWrite s .host 0 = false → exec (.msixUnmask vec) s = .next s ∧
        exec (.mbxH2d k v) s = .next s) ∧
      (mayWrite s (.thread t) 1 = true →
        (n < 32 → exec (.hostRaise t vec) s = .next s) ∧
        (32 ≤ n → bit (rget s (msixCtl n)) 32 = false → exec (.hostRaise t vec) s =
          .next { s with host := { s.host with msgs := n :: s.host.msgs } }) ∧
        (32 ≤ n → bit (rget s (msixCtl n)) 32 = true → ∃ u, exec (.hostRaise t vec) s = .next u ∧
          bit (rget u pba) (n % 64) = true ∧ u.host = s.host) ∧
        takes (.mbxD2h t k v) d2h (fun u => bit (rget u (hostOff 0)) k.toNat = true)) ∧
      (mayWrite s (.thread t) 1 = false → exec (.hostRaise t vec) s = .next s ∧
        exec (.mbxD2h t k v) s = .next s)) ∧
    (∀ c ∈ [TapOp.bypass, .idcode, .sample, .extest, .scan], exec (.tapInstruction c) s = .next s) ∧
    (∀ t : Thr,
      let i := thrIx t
      let th := getThread s i
      let sets (op : TapOp) (x : Thread) : Prop := exec (.tapInstruction op) s = .next (setThread s i x)
      let may := mayClaim s && corePresent s (thrCore t)
      (may = true → th.mode ≠ .off →
        sets (.dbgClaim t) { th with claimed := true } ∧
        sets (.dbgRelease t) { th with
          claimed := false, mode := if th.mode = .debug then .run else th.mode } ∧
        (th.claimed = true → atInstruction th = true → sets (.dbgStop t) { th with mode := .debug }) ∧
        (th.claimed = true → th.mode = .debug → sets (.dbgRun t) { th with mode := .run })) ∧
      (may = false ∨ th.mode = .off → ∀ op ∈ [TapOp.dbgClaim t, .dbgRelease t, .dbgStop t, .dbgRun t],
        exec (.tapInstruction op) s = .next s)) ∧
    (∀ (set : Bool) (obj : BitVec 16) (v : BitVec 32), isReady s = true → lcState s ≠ 4 →
      exec (.tapInstruction (.dbgSync set obj v)) s = .next (sendSync s
        { seq := 0, kind := if set then .set else .sig, src := .debug, obj := obj, arg := v }))

/-- A power sample records the run above 2,800 W, the cap, the duty of a peak above 3,400 W, and the
voltage and mean power; a period takes the readings, records the coolant and the hottest junction,
lowers the power duty by one where the cap was met and raises it otherwise, and moves each die's
thermal duty; a window counts up to 7. A sag below 42.0 V is in force, latched and reported until
VIN has stayed above 43.0 V for 1 ms, which each reading below 42.0 V restarts; below 38.0 V the
supply holds the device in reset. A junction of 110 °C trips, and THERM_N is low; an inlet above 40
°C is recorded and its rise latched. Without the power stages these change nothing. An excluded
sensor's reading is the higher of its neighbours' (which these are: log entry 153). -/
def Obligations.PowerAndTemperature : Prop :=
  ∀ s : State,
    (s.power.stages = false → ∀ (a b c d : BitVec 16) (ts : List SensorTemp) (w : Coolant),
      exec (.powerSample a b c d) s = .next s ∧ exec (.dutyPeriod ts w) s = .next s ∧
      exec .dutyWindow s = .next s ∧ exec (.inputSag a) s = .next s ∧ exec (.inletHigh w) s = .next s) ∧
    (s.power.stages = true →
      (∀ watts mean1ms mean1s vin : BitVec 16,
        let run := if 2800 < watts.toNat then s.power.runOver + 10 else 0
        ∃ u, exec (.powerSample watts mean1ms mean1s vin) s = .next u ∧ u.power.runOver = run ∧
          u.power.capped = (s.power.capped || decide (sustained s < mean1s.toNat) || decide (4000 ≤ run)) ∧
          u.power.dp = (if 3400 < watts.toNat then 4 else s.power.dp) ∧
          rfield u (pwrOff 0) 48 16 = vin.toNat ∧ rfield u (pwrOff 0) 32 16 = mean1ms.toNat ∧
          rfield u (pwrOff 0) 8 4 = dutyLow u ∧ u.mem = s.mem ∧ u.kept = s.kept) ∧
      (∀ (temps : List SensorTemp) (w : Coolant), ∃ u, exec (.dutyPeriod temps w) s = .next u ∧
        u.power.temps = temps.foldl (fun m x => tabPut m x.sensor.toNat x.temp) s.power.temps ∧
        rfield u (pwrOff 0x20) 48 16 = w.inlet.toNat ∧ rfield u (pwrOff 0x20) 32 16 = w.outlet.toNat ∧
        (∀ v k, hottest u = some (v, k) → rfield u (pwrOff 0x20) 16 16 = (BitVec.ofInt 16 v).toNat ∧
          rfield u (pwrOff 0x20) 0 3 = k) ∧
        u.power.dp = (if s.power.capped then max 1 (s.power.dp - 1) else min 8 (s.power.dp + 1)) ∧
        (∀ k, k < 5 → tabGet (fun _ => 8) u.power.dt k =
          nextThermal (tabGet (fun _ => 8) s.power.dt k) (dieHot u k) (dieCool u k)) ∧
        thermN u = !(thermLow u || s.power.tripped) ∧
        u.power.window = 0 ∧ u.power.capped = false ∧ rfield u (pwrOff 0) 8 4 = dutyLow u ∧
        u.mem = s.mem ∧ u.kept = s.kept) ∧
      (exec .dutyWindow s = .next
        { s with power := { s.power with window := min 7 (s.power.window + 1) } }) ∧
      (∀ vin : BitVec 16,
        (vin.toNat < 42000 → sagging s = false → ∃ u, exec (.inputSag vin) s = .next u ∧
          sagging u = true ∧ rfield u (pwrOff 0) 48 16 = vin.toNat ∧ u.power.sagClear = 0 ∧
          u.power.alert.getLsbD 0 = true ∧ (∃ r, u.safety.reports = s.safety.reports ++ [r] ∧
            r.code = 0x30 ∧ r.loc = wd vin.toNat) ∧ u.mem = s.mem) ∧
        (vin.toNat < 42000 → sagging s = true → ∃ u, exec (.inputSag vin) s = .next u ∧
          sagging u = true ∧ rfield u (pwrOff 0) 48 16 = vin.toNat ∧ u.power.sagClear = 0 ∧
          u.safety = s.safety ∧ u.mem = s.mem) ∧
        (42000 ≤ vin.toNat → exec (.inputSag vin) s = .next s) ∧
        (vin.toNat < 38000 → s.power.supplyHeld = false → exec (.supplyReset vin) s =
          .next (report { s with power := { s.power with supplyHeld := true } } 0x12 0
            (wd vin.toNat) 0)) ∧
        (38000 ≤ vin.toNat ∨ s.power.supplyHeld = true → exec (.supplyReset vin) s = .next s)) ∧
      (∀ (sensor : BitVec 8) (temp : BitVec 16),
        (880 ≤ temp.toInt → sensor.toNat ∉ s.safety.excluded →
          ∃ u, exec (.thermalTrip sensor temp) s = .next u ∧ u.power.tripped = true ∧
            thermN u = false ∧ tabGet (fun _ => 0) u.power.temps sensor.toNat = temp ∧
            (∃ r, u.safety.reports = s.safety.reports ++ [r] ∧ r.code = 0x11) ∧ u.mem = s.mem) ∧
        (temp.toInt < 880 ∨ sensor.toNat ∈ s.safety.excluded →
          exec (.thermalTrip sensor temp) s = .next s) ∧
        ∀ w : Coolant,
        (320 < w.inlet.toInt → ∃ u, exec (.inletHigh w) s = .next u ∧
          rfield u (pwrOff 0x20) 48 16 = w.inlet.toNat ∧ rfield u (pwrOff 0x20) 32 16 = w.outlet.toNat ∧
          (inletTemp s ≤ 320 → u.power.alert.getLsbD 2 = true ∧ alertN u = false) ∧ u.mem = s.mem) ∧
        (w.inlet.toInt ≤ 320 → exec (.inletHigh w) s = .next s))) ∧
    (sagging s = true → 1000 ≤ s.power.sagClear → ∃ u, exec .sagEnd s = .next u ∧
      sagging u = false ∧ u.power = s.power ∧ u.mem = s.mem) ∧
    (sagging s = false ∨ s.power.sagClear < 1000 → exec .sagEnd s = .next s) ∧
    (exec .supplyRecover s = .next { s with power := { s.power with supplyHeld := false } }) ∧
    (exec .thermalBootRelease s = .next { s with power := { s.power with tripped := false } })

/-- A command of SEC_CMD starts where its sender reaches the block and none is in progress, else it
is refused with BUSY. At its end a token that fails a check changes nothing but the nonce, and a
good one writes the fuses and resets the device; ATTEST writes the signed report, or is refused
without a key; FLASH commands read, program and erase the flash but for the active slot; SCAN_ENABLE
wipes the memories, the caches, the threads' registers, the certificate, the measurements and the
nonce in BLANK and DIAGNOSTIC (what counts as SRAM is log entry 156). The byte layout of the report
is the model's (log entry 51). -/
def Obligations.SecurityCommands : Prop :=
  ∀ s : State,
    (∀ (src : Sender),
      ∀ c ∈ [(Instr.lcToken src, (1 : BitVec 8)), (.attest src, 2), (.flashRead src, 3), (.flashProgram src, 4),
        (.flashErase src, 5), (.scanEnable src, 6)],
      (secReach s src = false → exec c.1 s = .next s) ∧
      (secReach s src = true → s.security.busy = none → exec c.1 s =
        .next (setSecStat { s with security := { s.security with busy := some c.2 } } true 0)) ∧
      (secReach s src = true → s.security.busy ≠ none →
        exec c.1 s = .next (setSecStat s true 1))) ∧
    (∀ err : Bool,
      let c := Instr.secCommandDone err
      let ends (result : Nat) (p : State → Prop) : Prop := ∃ u, exec c s = .next u ∧
        u.security.busy = none ∧ rget u (secOff 8) = wd result ∧ p u
      let same (u : State) : Prop := u.kept = s.kept ∧ u.mem = s.mem ∧ u.threads = s.threads
      let a := flashAddr s
      let n := flashCount s
      let cell (u : State) (x : Nat) : Byte := tabGet zeroByte u.kept.flash x
      (s.security.busy = none → exec c s = .next s) ∧
      (s.security.busy = some 1 →
        let dest := ofBytes (bufBytes s 0 1)
        let lives (p : State → Prop) : Prop := tokenCode s = 0 → ∃ u, exec c s = .next u ∧
          rfield u 0x18 24 4 = 4 ∧ inReset u = true ∧ u.mem = [] ∧ u.threads = [] ∧
          u.pending = s.pending ∧ u.kept.flash = s.kept.flash ∧ u.kept.retire = s.kept.retire ∧ p u
        (tokenCode s ≠ 0 → ends (tokenCode s) (fun u => same u ∧ u.security.nonceDraw = some s.fresh ∧
          u.fresh = s.fresh + 2)) ∧
        (dest = 1 → lives (fun u => u.kept.lc = 1 ∧ u.kept.identity = some s.fresh ∧
          u.kept.owner = BitVec.ofNat 384 (ofBytesBig (bufBytes s 0x20 48)) ∧
          bufBytes u 0 96 = bigBytes 96 (Config.identityKey s.fresh).toNat)) ∧
        (dest = 2 → lives (fun u => u.kept.lc = 2 ∧ u.kept.owner = s.kept.owner ∧
          u.kept.identity = s.kept.identity)) ∧
        (dest = 3 → lives (fun u => u.kept.lc = s.kept.lc ∧ u.kept.diag = true ∧ lcState u = 3)) ∧
        (dest = 4 → lives (fun u => u.kept.lc = 4 ∧ u.kept.diag = false ∧
          u.kept.identity = none))) ∧
      (s.security.busy = some 2 →
        (attestKey s = none → ends 7 (fun u => same u ∧ bufBytes u 0 65536 = bufBytes s 0 65536)) ∧
        (∀ k, attestKey s = some k → ends 0 (fun u => same u ∧ u.security.nonceDraw = some s.fresh ∧
          bufBytes u 0 0x3A0 = reportBody s ++
            bigBytes 96 (Config.p384Sign k (sha384 (reportBody s))).toNat))) ∧
      (s.security.busy = some 3 →
        (err = true → ends 9 same) ∧
        (err = false → ends 0 (fun u => same u ∧ bufBytes u 0 n = flashBytes s a n))) ∧
      (s.security.busy = some 4 →
        (activeSlot s a (a + n) = true → ends 8 same) ∧
        (activeSlot s a (a + n) = false → err = true → ends 9 same) ∧
        (activeSlot s a (a + n) = false → err = false → ends 0 (fun u =>
          flashBytes u a n = bufBytes s 0 n ∧ (∀ x, x < a ∨ a + n ≤ x → cell u x = cell s x) ∧
          u.kept.lc = s.kept.lc ∧ u.mem = s.mem))) ∧
      (s.security.busy = some 5 →
        let lo := 65536 * (a / 65536)
        let hi := if n = 0 then lo else 65536 * ((a + n + 65535) / 65536)
        (activeSlot s lo hi = true → ends 8 same) ∧
        (activeSlot s lo hi = false → err = true → ends 9 same) ∧
        (activeSlot s lo hi = false → err = false → ends 0 (fun u =>
          (∀ x, lo ≤ x → x < hi → cell u x = 0xFF) ∧ (∀ x, x < lo ∨ hi ≤ x → cell u x = cell s x) ∧
          u.kept.lc = s.kept.lc ∧ u.mem = s.mem))) ∧
      (s.security.busy = some 6 →
        (lcState s = 0 ∨ lcState s = 3 → ends 0 (fun u => u.mem = [] ∧ u.l2 = [] ∧ u.ucode = [] ∧
          u.sync = [] ∧ u.banks = [] ∧ u.channels = [] ∧ u.ctx.pages = [] ∧ u.dealer = .empty ∧
          u.security.meas = [] ∧ u.security.cert = [] ∧ u.security.nonceDraw = none ∧ u.kept = s.kept ∧
          bit (rget u (safeOff 0)) 4 = true ∧
          (∀ k, measOf u k = 0) ∧
          ∀ i, (getThread u i).v = [] ∧ (getThread u i).m = [] ∧
            (getThread u i).g = Thread.off.g ∧ (getThread u i).mode = (getThread s i).mode)) ∧
        (lcState s ≠ 0 → lcState s ≠ 3 → ends 0xA same)))

/-- While the security controller runs, GET_VERSION, GET_CAPABILITIES, NEGOTIATE_ALGORITHMS,
GET_DIGESTS and GET_CERTIFICATE are answered and any other request is an error; CHALLENGE is
answered and signed over version to algorithms, digests and certificates, the request and the
answer; GET_MEASUREMENTS is answered with the record its index names and, where asked, signed over
version to algorithms and every measurement request and answer since the last signed one. Each
answer raises its host event, joins the messages that a signature covers, and changes nothing else.
Another slot, an offset beyond the chain and no such measurement are errors, and a signed answer is
refused without an attestation key. The bytes of the messages and what a signature covers are the
model's, taken from SPDM 1.3 (log entry 51). -/
def Obligations.DoeAnswers : Prop :=
  ∀ (s : State) (req : SpdmReq),
    let told (u : State) (b : List Byte) : Prop := u.host.doe = b ∧ bit (rget u (hostOff 0)) 21 = true ∧
      u.kept = s.kept ∧ u.mem = s.mem ∧ u.threads = s.threads
    let sec := s.security
    let cert := sec.cert
    (doeReady s = false → ∀ c ∈ [Instr.getVersion req, .getCapabilities req, .negotiateAlgorithms req,
      .getDigests req, .getCertificate req, .challenge req, .getMeasurements req,
      .spdmUnsupported req], exec c s = .next s) ∧
    (doeReady s = true → ∃ u, exec (.getVersion req) s = .next u ∧
      told u [0x10, 0x04, 0, 0, 0, 1, 0, 0x13] ∧
      u.security = { sec with spdmVca := req.msg ++ [0x10, 0x04, 0, 0, 0, 1, 0, 0x13], spdmCerts := [],
                              spdmMeas := [] }) ∧
    (doeReady s = true → ∃ u b, exec (.getCapabilities req) s = .next u ∧ told u b ∧
      b.take 4 = [0x13, 0x61, 0, 0] ∧ b.length = 20 ∧ (b.drop 8).take 4 = [0x16, 0, 0, 0] ∧
      u.security = { sec with spdmVca := sec.spdmVca ++ req.msg ++ b, spdmMeas := [] }) ∧
    (doeReady s = true → ∃ u b, exec (.negotiateAlgorithms req) s = .next u ∧ told u b ∧
      b.take 4 = [0x13, 0x63, 0, 0] ∧ (b.drop 12).take 8 = [0x80, 0, 0, 0, 2, 0, 0, 0] ∧
      u.security = { sec with spdmVca := sec.spdmVca ++ req.msg ++ b, spdmMeas := [] }) ∧
    (doeReady s = true → ∃ u, exec (.getDigests req) s = .next u ∧
      told u ([0x13, 0x01, 1, 1] ++ hashBytes (sha384 cert)) ∧
      u.security = { sec with
        spdmCerts := sec.spdmCerts ++ req.msg ++ ([0x13, 0x01, 1, 1] ++ hashBytes (sha384 cert))
        spdmMeas := [] }) ∧
    (doeReady s = true → req.slot = 0 → req.off.toNat ≤ cert.length →
      let w := (cert.drop req.off.toNat).take req.len.toNat
      let b := [0x13, 0x02, 0, 0] ++ bytesOf 2 w.length ++
        bytesOf 2 (cert.length - req.off.toNat - w.length) ++ w
      ∃ u, exec (.getCertificate req) s = .next u ∧ told u b ∧
        u.security = { sec with spdmCerts := sec.spdmCerts ++ req.msg ++ b, spdmMeas := [] }) ∧
    (doeReady s = true → req.slot ≠ 0 ∨ cert.length < req.off.toNat →
      ∃ u, exec (.getCertificate req) s = .next u ∧ told u [0x13, 0x7F, 1, 0] ∧
        u.security = { sec with spdmMeas := [] }) ∧
    (doeReady s = true → ∃ u, exec (.spdmUnsupported req) s = .next u ∧ told u [0x13, 0x7F, 7, 0] ∧
      u.security = { sec with spdmMeas := [] }) ∧
    (doeReady s = true →
      (∀ k nonce, attestKey s = some k → req.slot = 0 → nonce = (spdmNonce s).1 →
        let b := [0x13, 0x03, 0, 1] ++ hashBytes (sha384 sec.cert) ++ nonce ++ [0, 0] ++
          bytesOf 8 req.context.toNat
        nonce.length = 32 ∧ ∃ u, exec (.challenge req) s = .next u ∧
          told u (b ++ spdmSign k challengeText (sec.spdmVca ++ sec.spdmCerts ++ req.msg ++ b)) ∧
          u.security = { sec with spdmCerts := [], spdmMeas := [] }) ∧
      (attestKey s = none → ∃ u, exec (.challenge req) s = .next u ∧ told u [0x13, 0x7F, 5, 0] ∧
        u.security = { sec with spdmMeas := [] }) ∧
      (∀ k, attestKey s = some k → req.slot ≠ 0 → ∃ u, exec (.challenge req) s = .next u ∧
        told u [0x13, 0x7F, 1, 0] ∧ u.security = { sec with spdmMeas := [] }) ∧
      (measRecord s req.index.toNat = none → ∃ u, exec (.getMeasurements req) s = .next u ∧
        told u [0x13, 0x7F, 1, 0] ∧ u.security = { sec with spdmMeas := [] }) ∧
      (∀ r nonce, measRecord s req.index.toNat = some r → nonce = (spdmNonce s).1 →
        let b := [0x13, 0x60, if req.index = 0 then 16 else 0, 0] ++ [BitVec.ofNat 8 r.1] ++
          bytesOf 3 r.2.length ++ r.2 ++ nonce ++ [0, 0] ++ bytesOf 8 req.context.toNat
        let m := sec.spdmMeas ++ req.msg ++ b
        (req.signed = false → ∃ u, exec (.getMeasurements req) s = .next u ∧ told u b ∧
          u.security = { sec with spdmMeas := m }) ∧
        (req.signed = true → attestKey s = none → ∃ u, exec (.getMeasurements req) s = .next u ∧
          told u [0x13, 0x7F, 5, 0] ∧ u.security = { sec with spdmMeas := [] }) ∧
        (∀ k, req.signed = true → attestKey s = some k → ∃ u, exec (.getMeasurements req) s = .next u ∧
          told u (b ++ spdmSign k measureText (sec.spdmVca ++ m)) ∧
          u.security = { sec with spdmMeas := [] })))
end

