-- ==== Sys2Proof/Laws/Table.lean ====
section
/-! SUPPORT. The sparse tables: a read after a write, which holds of every list, and the canonical
form, which every operation on a table keeps. Memory is one of these tables. -/

namespace Sys2Proof.Machine

open Sys2Proof

/-! ### Reads after writes -/

theorem tabFind_tabPut_same {α : Type} (t : Tab α) (i : Nat) (v : α) :
    tabFind (tabPut t i v) i = some v := by
  induction t with
  | nil => simp [tabPut, tabFind]
  | cons e t ih =>
    simp only [tabPut]
    split
    · simp [tabFind]
    · split
      · simp [tabFind]
      · simp [tabFind, *]

theorem tabFind_tabPut_other {α : Type} (t : Tab α) {i j : Nat} (v : α) (h : j ≠ i) :
    tabFind (tabPut t i v) j = tabFind t j := by
  induction t with
  | nil => simp [tabPut, tabFind, h]
  | cons e t ih =>
    simp only [tabPut]
    split
    · next hik => subst hik; simp [tabFind, h]
    · split <;> simp [tabFind, h, ih]

theorem tabFind_tabDel_same {α : Type} (t : Tab α) (i : Nat) : tabFind (tabDel t i) i = none := by
  induction t with
  | nil => rfl
  | cons e t ih =>
    simp only [tabDel]
    split
    · exact ih
    · next h => simp [tabFind, h, ih]

theorem tabFind_tabDel_other {α : Type} (t : Tab α) {i j : Nat} (h : j ≠ i) :
    tabFind (tabDel t i) j = tabFind t j := by
  induction t with
  | nil => rfl
  | cons e t ih =>
    simp only [tabDel]
    split
    · next hik => subst hik; simp [tabFind, h, ih]
    · simp [tabFind, ih]

/-- A read of the key just written. -/
@[simp] theorem tabGet_tabSet_same {α : Type} [DecidableEq α] (d : Nat → α) (t : Tab α) (i : Nat)
    (v : α) : tabGet d (tabSet d t i v) i = v := by
  simp only [tabGet, tabSet]
  split
  · next hv => rw [tabFind_tabDel_same]; simp [hv]
  · rw [tabFind_tabPut_same]; rfl

/-- A read of any other key. -/
@[simp] theorem tabGet_tabSet_other {α : Type} [DecidableEq α] (d : Nat → α) (t : Tab α) {i j : Nat}
    (v : α) (hj : j ≠ i) : tabGet d (tabSet d t i v) j = tabGet d t j := by
  simp only [tabGet, tabSet]
  split
  · rw [tabFind_tabDel_other t hj]
  · rw [tabFind_tabPut_other t v hj]

/-- A read after a write. -/
theorem tabGet_tabSet {α : Type} [DecidableEq α] (d : Nat → α) (t : Tab α) (i j : Nat) (v : α) :
    tabGet d (tabSet d t i v) j = if j = i then v else tabGet d t j := by
  by_cases h : j = i
  · subst h; simp
  · simp [h]

/-! ### The canonical form -/

theorem tabWf_cons {α : Type} [DecidableEq α] {d : Nat → α} {k : Nat} {w : α} {t : Tab α} :
    tabWf d ((k, w) :: t) = true ↔ w ≠ d k ∧ (∀ e ∈ t, k < e.1) ∧ tabWf d t = true := by
  simp only [tabWf, Bool.and_eq_true, decide_eq_true_eq, List.all_eq_true, and_assoc]

theorem mem_tabPut {α : Type} {t : Tab α} {i : Nat} {v : α} {e : Nat × α} (h : e ∈ tabPut t i v) :
    e = (i, v) ∨ e ∈ t := by
  induction t with
  | nil => simpa [tabPut] using h
  | cons x t ih =>
    simp only [tabPut] at h
    split at h
    · simp only [List.mem_cons] at h ⊢; tauto
    · split at h
      · simp only [List.mem_cons] at h ⊢; tauto
      · simp only [List.mem_cons] at h ⊢
        rcases h with h | h
        · tauto
        · rcases ih h with h | h <;> tauto

theorem mem_tabDel {α : Type} {t : Tab α} {i : Nat} {e : Nat × α} (h : e ∈ tabDel t i) : e ∈ t := by
  induction t with
  | nil => simp [tabDel] at h
  | cons x t ih =>
    simp only [tabDel] at h
    split at h
    · exact List.mem_cons_of_mem _ (ih h)
    · rcases List.mem_cons.mp h with h | h
      · exact h ▸ List.mem_cons_self ..
      · exact List.mem_cons_of_mem _ (ih h)

theorem tabWf_tabPut {α : Type} [DecidableEq α] {d : Nat → α} {t : Tab α} (h : tabWf d t = true)
    (i : Nat) {v : α} (hv : v ≠ d i) : tabWf d (tabPut t i v) = true := by
  induction t with
  | nil => simp [tabPut, tabWf, hv]
  | cons e t ih =>
    obtain ⟨h1, h2, h3⟩ := tabWf_cons.mp h
    simp only [tabPut]
    split
    · next hik => subst hik; exact tabWf_cons.mpr ⟨hv, h2, h3⟩
    · split
      · next hlt =>
        refine tabWf_cons.mpr ⟨hv, ?_, h⟩
        intro e he
        rcases List.mem_cons.mp he with rfl | he
        · exact hlt
        · exact lt_trans hlt (h2 e he)
      · next hne hlt =>
        refine tabWf_cons.mpr ⟨h1, ?_, ih h3⟩
        intro e he
        rcases mem_tabPut he with rfl | he
        · exact lt_of_le_of_ne (not_lt.mp hlt) (Ne.symm hne)
        · exact h2 e he

theorem tabWf_tabDel {α : Type} [DecidableEq α] {d : Nat → α} {t : Tab α} (h : tabWf d t = true)
    (i : Nat) : tabWf d (tabDel t i) = true := by
  induction t with
  | nil => rfl
  | cons e t ih =>
    obtain ⟨h1, h2, h3⟩ := tabWf_cons.mp h
    simp only [tabDel]
    split
    · exact ih h3
    · exact tabWf_cons.mpr ⟨h1, fun e he => h2 e (mem_tabDel he), ih h3⟩

/-- A write keeps the canonical form. -/
theorem tabWf_tabSet {α : Type} [DecidableEq α] {d : Nat → α} {t : Tab α} (h : tabWf d t = true)
    (i : Nat) (v : α) : tabWf d (tabSet d t i v) = true := by
  simp only [tabSet]
  split
  · exact tabWf_tabDel h i
  · next hv => exact tabWf_tabPut h i hv

/-! ### Memory -/

/-- Writing bytes keeps the canonical form. -/
theorem writeBytes_wf {m : Tab Byte} (h : tabWf zeroByte m = true) (a : Nat) (b : List Byte) :
    tabWf zeroByte (writeBytes m a b) = true := by
  induction b generalizing m a with
  | nil => exact h
  | cons x b ih => exact ih (tabWf_tabSet h a x) (a + 1)

/-- Writing a line keeps the canonical form. -/
theorem writeMemLine_wf {s : State} (h : memWf s = true) (l : Nat) (d : Line) (bad : BitVec 16) :
    memWf (writeMemLine s l d bad) = true := writeBytes_wf h _ _

/-- What a byte reads as after bytes have been written. -/
theorem tabGet_writeBytes (b : List Byte) (m : Tab Byte) (a x : Nat) :
    tabGet zeroByte (writeBytes m a b) x =
      if a ≤ x ∧ x < a + b.length then b.getD (x - a) 0 else tabGet zeroByte m x := by
  induction b generalizing m a with
  | nil => simp [writeBytes]
  | cons y b ih =>
    simp only [writeBytes, ih, List.length_cons, tabGet_tabSet]
    rcases Nat.lt_trichotomy x a with h | h | h
    · simp [show ¬ a + 1 ≤ x by omega, show ¬ a ≤ x by omega, show x ≠ a by omega]
    · subst h; simp
    · by_cases h2 : x < a + (b.length + 1)
      · have e : x - a = x - (a + 1) + 1 := by omega
        simp [show a + 1 ≤ x by omega, show x < a + 1 + b.length by omega, h2,
          show a ≤ x by omega, e]
      · simp [show ¬ x < a + 1 + b.length by omega, h2, show x ≠ a by omega]

end Sys2Proof.Machine
end

