-- ==== Sys2Proof/Laws/State.lean ====
section
/-! SUPPORT. One lemma for each field of the state under each accessor that writes: what an accessor
leaves alone, and what is read back. No later proof unfolds a record update. -/

namespace Sys2Proof.Machine

open Sys2Proof

/-! ### setThread -/

@[simp] theorem setThread_pending (s : State) (i : Nat) (x : Thread) : (setThread s i x).pending = s.pending := (rfl)
@[simp] theorem setThread_fresh (s : State) (i : Nat) (x : Thread) : (setThread s i x).fresh = s.fresh := (rfl)
@[simp] theorem setThread_ticks (s : State) (i : Nat) (x : Thread) : (setThread s i x).ticks = s.ticks := (rfl)
@[simp] theorem setThread_regs (s : State) (i : Nat) (x : Thread) : (setThread s i x).regs = s.regs := (rfl)
@[simp] theorem setThread_ucode (s : State) (i : Nat) (x : Thread) : (setThread s i x).ucode = s.ucode := (rfl)
@[simp] theorem setThread_ucodeBad (s : State) (i : Nat) (x : Thread) : (setThread s i x).ucodeBad = s.ucodeBad := (rfl)
@[simp] theorem setThread_mem (s : State) (i : Nat) (x : Thread) : (setThread s i x).mem = s.mem := (rfl)
@[simp] theorem setThread_memBad (s : State) (i : Nat) (x : Thread) : (setThread s i x).memBad = s.memBad := (rfl)
@[simp] theorem setThread_l2 (s : State) (i : Nat) (x : Thread) : (setThread s i x).l2 = s.l2 := (rfl)
@[simp] theorem setThread_lost (s : State) (i : Nat) (x : Thread) : (setThread s i x).lost = s.lost := (rfl)
@[simp] theorem setThread_windows (s : State) (i : Nat) (x : Thread) : (setThread s i x).windows = s.windows := (rfl)
@[simp] theorem setThread_banks (s : State) (i : Nat) (x : Thread) : (setThread s i x).banks = s.banks := (rfl)
@[simp] theorem setThread_channels (s : State) (i : Nat) (x : Thread) : (setThread s i x).channels = s.channels := (rfl)
@[simp] theorem setThread_pots (s : State) (i : Nat) (x : Thread) : (setThread s i x).pots = s.pots := (rfl)
@[simp] theorem setThread_arbCounts (s : State) (i : Nat) (x : Thread) : (setThread s i x).arbCounts = s.arbCounts := (rfl)
@[simp] theorem setThread_bankErr (s : State) (i : Nat) (x : Thread) : (setThread s i x).bankErr = s.bankErr := (rfl)
@[simp] theorem setThread_passSeeds (s : State) (i : Nat) (x : Thread) : (setThread s i x).passSeeds = s.passSeeds := (rfl)
@[simp] theorem setThread_writes (s : State) (i : Nat) (x : Thread) : (setThread s i x).writes = s.writes := (rfl)
@[simp] theorem setThread_nextWrite (s : State) (i : Nat) (x : Thread) : (setThread s i x).nextWrite = s.nextWrite := (rfl)
@[simp] theorem setThread_cores (s : State) (i : Nat) (x : Thread) : (setThread s i x).cores = s.cores := (rfl)
@[simp] theorem setThread_present (s : State) (i : Nat) (x : Thread) : (setThread s i x).present = s.present := (rfl)
@[simp] theorem setThread_tlbs (s : State) (i : Nat) (x : Thread) : (setThread s i x).tlbs = s.tlbs := (rfl)
@[simp] theorem setThread_wayAge (s : State) (i : Nat) (x : Thread) : (setThread s i x).wayAge = s.wayAge := (rfl)
@[simp] theorem setThread_wayZero (s : State) (i : Nat) (x : Thread) : (setThread s i x).wayZero = s.wayZero := (rfl)
@[simp] theorem setThread_sync (s : State) (i : Nat) (x : Thread) : (setThread s i x).sync = s.sync := (rfl)
@[simp] theorem setThread_nextSync (s : State) (i : Nat) (x : Thread) : (setThread s i x).nextSync = s.nextSync := (rfl)
@[simp] theorem setThread_syncQ (s : State) (i : Nat) (x : Thread) : (setThread s i x).syncQ = s.syncQ := (rfl)
@[simp] theorem setThread_releases (s : State) (i : Nat) (x : Thread) : (setThread s i x).releases = s.releases := (rfl)
@[simp] theorem setThread_maskedTid (s : State) (i : Nat) (x : Thread) : (setThread s i x).maskedTid = s.maskedTid := (rfl)
@[simp] theorem setThread_ports (s : State) (i : Nat) (x : Thread) : (setThread s i x).ports = s.ports := (rfl)
@[simp] theorem setThread_queues (s : State) (i : Nat) (x : Thread) : (setThread s i x).queues = s.queues := (rfl)
@[simp] theorem setThread_teTurn (s : State) (i : Nat) (x : Thread) : (setThread s i x).teTurn = s.teTurn := (rfl)
@[simp] theorem setThread_nextTag (s : State) (i : Nat) (x : Thread) : (setThread s i x).nextTag = s.nextTag := (rfl)
@[simp] theorem setThread_nextFlight (s : State) (i : Nat) (x : Thread) : (setThread s i x).nextFlight = s.nextFlight := (rfl)
@[simp] theorem setThread_potSlots (s : State) (i : Nat) (x : Thread) : (setThread s i x).potSlots = s.potSlots := (rfl)
@[simp] theorem setThread_potQuiet (s : State) (i : Nat) (x : Thread) : (setThread s i x).potQuiet = s.potQuiet := (rfl)
@[simp] theorem setThread_deadArmed (s : State) (i : Nat) (x : Thread) : (setThread s i x).deadArmed = s.deadArmed := (rfl)
@[simp] theorem setThread_ctx (s : State) (i : Nat) (x : Thread) : (setThread s i x).ctx = s.ctx := (rfl)
@[simp] theorem setThread_dealer (s : State) (i : Nat) (x : Thread) : (setThread s i x).dealer = s.dealer := (rfl)
@[simp] theorem setThread_commit (s : State) (i : Nat) (x : Thread) : (setThread s i x).commit = s.commit := (rfl)
@[simp] theorem setThread_safety (s : State) (i : Nat) (x : Thread) : (setThread s i x).safety = s.safety := (rfl)
@[simp] theorem setThread_selfTest (s : State) (i : Nat) (x : Thread) : (setThread s i x).selfTest = s.selfTest := (rfl)
@[simp] theorem setThread_power (s : State) (i : Nat) (x : Thread) : (setThread s i x).power = s.power := (rfl)
@[simp] theorem setThread_boot (s : State) (i : Nat) (x : Thread) : (setThread s i x).boot = s.boot := (rfl)
@[simp] theorem setThread_security (s : State) (i : Nat) (x : Thread) : (setThread s i x).security = s.security := (rfl)
@[simp] theorem setThread_txn (s : State) (i : Nat) (x : Thread) : (setThread s i x).txn = s.txn := (rfl)
@[simp] theorem setThread_host (s : State) (i : Nat) (x : Thread) : (setThread s i x).host = s.host := (rfl)
@[simp] theorem setThread_kept (s : State) (i : Nat) (x : Thread) : (setThread s i x).kept = s.kept := (rfl)
@[simp] theorem setThread_deckEntry0 (s : State) (i : Nat) (x : Thread) : (setThread s i x).deckEntry0 = s.deckEntry0 := (rfl)
@[simp] theorem setThread_deckEntry1 (s : State) (i : Nat) (x : Thread) : (setThread s i x).deckEntry1 = s.deckEntry1 := (rfl)
@[simp] theorem setThread_devId (s : State) (i : Nat) (x : Thread) : (setThread s i x).devId = s.devId := (rfl)

/-! ### setCore -/

@[simp] theorem setCore_pending (s : State) (i : Nat) (x : Core) : (setCore s i x).pending = s.pending := (rfl)
@[simp] theorem setCore_fresh (s : State) (i : Nat) (x : Core) : (setCore s i x).fresh = s.fresh := (rfl)
@[simp] theorem setCore_ticks (s : State) (i : Nat) (x : Core) : (setCore s i x).ticks = s.ticks := (rfl)
@[simp] theorem setCore_regs (s : State) (i : Nat) (x : Core) : (setCore s i x).regs = s.regs := (rfl)
@[simp] theorem setCore_ucode (s : State) (i : Nat) (x : Core) : (setCore s i x).ucode = s.ucode := (rfl)
@[simp] theorem setCore_ucodeBad (s : State) (i : Nat) (x : Core) : (setCore s i x).ucodeBad = s.ucodeBad := (rfl)
@[simp] theorem setCore_mem (s : State) (i : Nat) (x : Core) : (setCore s i x).mem = s.mem := (rfl)
@[simp] theorem setCore_memBad (s : State) (i : Nat) (x : Core) : (setCore s i x).memBad = s.memBad := (rfl)
@[simp] theorem setCore_l2 (s : State) (i : Nat) (x : Core) : (setCore s i x).l2 = s.l2 := (rfl)
@[simp] theorem setCore_lost (s : State) (i : Nat) (x : Core) : (setCore s i x).lost = s.lost := (rfl)
@[simp] theorem setCore_windows (s : State) (i : Nat) (x : Core) : (setCore s i x).windows = s.windows := (rfl)
@[simp] theorem setCore_banks (s : State) (i : Nat) (x : Core) : (setCore s i x).banks = s.banks := (rfl)
@[simp] theorem setCore_channels (s : State) (i : Nat) (x : Core) : (setCore s i x).channels = s.channels := (rfl)
@[simp] theorem setCore_pots (s : State) (i : Nat) (x : Core) : (setCore s i x).pots = s.pots := (rfl)
@[simp] theorem setCore_arbCounts (s : State) (i : Nat) (x : Core) : (setCore s i x).arbCounts = s.arbCounts := (rfl)
@[simp] theorem setCore_bankErr (s : State) (i : Nat) (x : Core) : (setCore s i x).bankErr = s.bankErr := (rfl)
@[simp] theorem setCore_passSeeds (s : State) (i : Nat) (x : Core) : (setCore s i x).passSeeds = s.passSeeds := (rfl)
@[simp] theorem setCore_writes (s : State) (i : Nat) (x : Core) : (setCore s i x).writes = s.writes := (rfl)
@[simp] theorem setCore_nextWrite (s : State) (i : Nat) (x : Core) : (setCore s i x).nextWrite = s.nextWrite := (rfl)
@[simp] theorem setCore_threads (s : State) (i : Nat) (x : Core) : (setCore s i x).threads = s.threads := (rfl)
@[simp] theorem setCore_present (s : State) (i : Nat) (x : Core) : (setCore s i x).present = s.present := (rfl)
@[simp] theorem setCore_tlbs (s : State) (i : Nat) (x : Core) : (setCore s i x).tlbs = s.tlbs := (rfl)
@[simp] theorem setCore_wayAge (s : State) (i : Nat) (x : Core) : (setCore s i x).wayAge = s.wayAge := (rfl)
@[simp] theorem setCore_wayZero (s : State) (i : Nat) (x : Core) : (setCore s i x).wayZero = s.wayZero := (rfl)
@[simp] theorem setCore_sync (s : State) (i : Nat) (x : Core) : (setCore s i x).sync = s.sync := (rfl)
@[simp] theorem setCore_nextSync (s : State) (i : Nat) (x : Core) : (setCore s i x).nextSync = s.nextSync := (rfl)
@[simp] theorem setCore_syncQ (s : State) (i : Nat) (x : Core) : (setCore s i x).syncQ = s.syncQ := (rfl)
@[simp] theorem setCore_releases (s : State) (i : Nat) (x : Core) : (setCore s i x).releases = s.releases := (rfl)
@[simp] theorem setCore_maskedTid (s : State) (i : Nat) (x : Core) : (setCore s i x).maskedTid = s.maskedTid := (rfl)
@[simp] theorem setCore_ports (s : State) (i : Nat) (x : Core) : (setCore s i x).ports = s.ports := (rfl)
@[simp] theorem setCore_queues (s : State) (i : Nat) (x : Core) : (setCore s i x).queues = s.queues := (rfl)
@[simp] theorem setCore_teTurn (s : State) (i : Nat) (x : Core) : (setCore s i x).teTurn = s.teTurn := (rfl)
@[simp] theorem setCore_nextTag (s : State) (i : Nat) (x : Core) : (setCore s i x).nextTag = s.nextTag := (rfl)
@[simp] theorem setCore_nextFlight (s : State) (i : Nat) (x : Core) : (setCore s i x).nextFlight = s.nextFlight := (rfl)
@[simp] theorem setCore_potSlots (s : State) (i : Nat) (x : Core) : (setCore s i x).potSlots = s.potSlots := (rfl)
@[simp] theorem setCore_potQuiet (s : State) (i : Nat) (x : Core) : (setCore s i x).potQuiet = s.potQuiet := (rfl)
@[simp] theorem setCore_deadArmed (s : State) (i : Nat) (x : Core) : (setCore s i x).deadArmed = s.deadArmed := (rfl)
@[simp] theorem setCore_ctx (s : State) (i : Nat) (x : Core) : (setCore s i x).ctx = s.ctx := (rfl)
@[simp] theorem setCore_dealer (s : State) (i : Nat) (x : Core) : (setCore s i x).dealer = s.dealer := (rfl)
@[simp] theorem setCore_commit (s : State) (i : Nat) (x : Core) : (setCore s i x).commit = s.commit := (rfl)
@[simp] theorem setCore_safety (s : State) (i : Nat) (x : Core) : (setCore s i x).safety = s.safety := (rfl)
@[simp] theorem setCore_selfTest (s : State) (i : Nat) (x : Core) : (setCore s i x).selfTest = s.selfTest := (rfl)
@[simp] theorem setCore_power (s : State) (i : Nat) (x : Core) : (setCore s i x).power = s.power := (rfl)
@[simp] theorem setCore_boot (s : State) (i : Nat) (x : Core) : (setCore s i x).boot = s.boot := (rfl)
@[simp] theorem setCore_security (s : State) (i : Nat) (x : Core) : (setCore s i x).security = s.security := (rfl)
@[simp] theorem setCore_txn (s : State) (i : Nat) (x : Core) : (setCore s i x).txn = s.txn := (rfl)
@[simp] theorem setCore_host (s : State) (i : Nat) (x : Core) : (setCore s i x).host = s.host := (rfl)
@[simp] theorem setCore_kept (s : State) (i : Nat) (x : Core) : (setCore s i x).kept = s.kept := (rfl)
@[simp] theorem setCore_deckEntry0 (s : State) (i : Nat) (x : Core) : (setCore s i x).deckEntry0 = s.deckEntry0 := (rfl)
@[simp] theorem setCore_deckEntry1 (s : State) (i : Nat) (x : Core) : (setCore s i x).deckEntry1 = s.deckEntry1 := (rfl)
@[simp] theorem setCore_devId (s : State) (i : Nat) (x : Core) : (setCore s i x).devId = s.devId := (rfl)

/-! ### rset -/

@[simp] theorem rset_pending (s : State) (o : Nat) (w : Word) : (rset s o w).pending = s.pending := (rfl)
@[simp] theorem rset_fresh (s : State) (o : Nat) (w : Word) : (rset s o w).fresh = s.fresh := (rfl)
@[simp] theorem rset_ticks (s : State) (o : Nat) (w : Word) : (rset s o w).ticks = s.ticks := (rfl)
@[simp] theorem rset_ucode (s : State) (o : Nat) (w : Word) : (rset s o w).ucode = s.ucode := (rfl)
@[simp] theorem rset_ucodeBad (s : State) (o : Nat) (w : Word) : (rset s o w).ucodeBad = s.ucodeBad := (rfl)
@[simp] theorem rset_mem (s : State) (o : Nat) (w : Word) : (rset s o w).mem = s.mem := (rfl)
@[simp] theorem rset_memBad (s : State) (o : Nat) (w : Word) : (rset s o w).memBad = s.memBad := (rfl)
@[simp] theorem rset_l2 (s : State) (o : Nat) (w : Word) : (rset s o w).l2 = s.l2 := (rfl)
@[simp] theorem rset_lost (s : State) (o : Nat) (w : Word) : (rset s o w).lost = s.lost := (rfl)
@[simp] theorem rset_windows (s : State) (o : Nat) (w : Word) : (rset s o w).windows = s.windows := (rfl)
@[simp] theorem rset_banks (s : State) (o : Nat) (w : Word) : (rset s o w).banks = s.banks := (rfl)
@[simp] theorem rset_channels (s : State) (o : Nat) (w : Word) : (rset s o w).channels = s.channels := (rfl)
@[simp] theorem rset_pots (s : State) (o : Nat) (w : Word) : (rset s o w).pots = s.pots := (rfl)
@[simp] theorem rset_arbCounts (s : State) (o : Nat) (w : Word) : (rset s o w).arbCounts = s.arbCounts := (rfl)
@[simp] theorem rset_bankErr (s : State) (o : Nat) (w : Word) : (rset s o w).bankErr = s.bankErr := (rfl)
@[simp] theorem rset_passSeeds (s : State) (o : Nat) (w : Word) : (rset s o w).passSeeds = s.passSeeds := (rfl)
@[simp] theorem rset_writes (s : State) (o : Nat) (w : Word) : (rset s o w).writes = s.writes := (rfl)
@[simp] theorem rset_nextWrite (s : State) (o : Nat) (w : Word) : (rset s o w).nextWrite = s.nextWrite := (rfl)
@[simp] theorem rset_threads (s : State) (o : Nat) (w : Word) : (rset s o w).threads = s.threads := (rfl)
@[simp] theorem rset_cores (s : State) (o : Nat) (w : Word) : (rset s o w).cores = s.cores := (rfl)
@[simp] theorem rset_present (s : State) (o : Nat) (w : Word) : (rset s o w).present = s.present := (rfl)
@[simp] theorem rset_tlbs (s : State) (o : Nat) (w : Word) : (rset s o w).tlbs = s.tlbs := (rfl)
@[simp] theorem rset_wayAge (s : State) (o : Nat) (w : Word) : (rset s o w).wayAge = s.wayAge := (rfl)
@[simp] theorem rset_wayZero (s : State) (o : Nat) (w : Word) : (rset s o w).wayZero = s.wayZero := (rfl)
@[simp] theorem rset_sync (s : State) (o : Nat) (w : Word) : (rset s o w).sync = s.sync := (rfl)
@[simp] theorem rset_nextSync (s : State) (o : Nat) (w : Word) : (rset s o w).nextSync = s.nextSync := (rfl)
@[simp] theorem rset_syncQ (s : State) (o : Nat) (w : Word) : (rset s o w).syncQ = s.syncQ := (rfl)
@[simp] theorem rset_releases (s : State) (o : Nat) (w : Word) : (rset s o w).releases = s.releases := (rfl)
@[simp] theorem rset_maskedTid (s : State) (o : Nat) (w : Word) : (rset s o w).maskedTid = s.maskedTid := (rfl)
@[simp] theorem rset_ports (s : State) (o : Nat) (w : Word) : (rset s o w).ports = s.ports := (rfl)
@[simp] theorem rset_queues (s : State) (o : Nat) (w : Word) : (rset s o w).queues = s.queues := (rfl)
@[simp] theorem rset_teTurn (s : State) (o : Nat) (w : Word) : (rset s o w).teTurn = s.teTurn := (rfl)
@[simp] theorem rset_nextTag (s : State) (o : Nat) (w : Word) : (rset s o w).nextTag = s.nextTag := (rfl)
@[simp] theorem rset_nextFlight (s : State) (o : Nat) (w : Word) : (rset s o w).nextFlight = s.nextFlight := (rfl)
@[simp] theorem rset_potSlots (s : State) (o : Nat) (w : Word) : (rset s o w).potSlots = s.potSlots := (rfl)
@[simp] theorem rset_potQuiet (s : State) (o : Nat) (w : Word) : (rset s o w).potQuiet = s.potQuiet := (rfl)
@[simp] theorem rset_deadArmed (s : State) (o : Nat) (w : Word) : (rset s o w).deadArmed = s.deadArmed := (rfl)
@[simp] theorem rset_ctx (s : State) (o : Nat) (w : Word) : (rset s o w).ctx = s.ctx := (rfl)
@[simp] theorem rset_dealer (s : State) (o : Nat) (w : Word) : (rset s o w).dealer = s.dealer := (rfl)
@[simp] theorem rset_commit (s : State) (o : Nat) (w : Word) : (rset s o w).commit = s.commit := (rfl)
@[simp] theorem rset_safety (s : State) (o : Nat) (w : Word) : (rset s o w).safety = s.safety := (rfl)
@[simp] theorem rset_selfTest (s : State) (o : Nat) (w : Word) : (rset s o w).selfTest = s.selfTest := (rfl)
@[simp] theorem rset_power (s : State) (o : Nat) (w : Word) : (rset s o w).power = s.power := (rfl)
@[simp] theorem rset_boot (s : State) (o : Nat) (w : Word) : (rset s o w).boot = s.boot := (rfl)
@[simp] theorem rset_security (s : State) (o : Nat) (w : Word) : (rset s o w).security = s.security := (rfl)
@[simp] theorem rset_txn (s : State) (o : Nat) (w : Word) : (rset s o w).txn = s.txn := (rfl)
@[simp] theorem rset_host (s : State) (o : Nat) (w : Word) : (rset s o w).host = s.host := (rfl)
@[simp] theorem rset_kept (s : State) (o : Nat) (w : Word) : (rset s o w).kept = s.kept := (rfl)
@[simp] theorem rset_deckEntry0 (s : State) (o : Nat) (w : Word) : (rset s o w).deckEntry0 = s.deckEntry0 := (rfl)
@[simp] theorem rset_deckEntry1 (s : State) (o : Nat) (w : Word) : (rset s o w).deckEntry1 = s.deckEntry1 := (rfl)
@[simp] theorem rset_devId (s : State) (o : Nat) (w : Word) : (rset s o w).devId = s.devId := (rfl)

/-! ### setPort -/

@[simp] theorem setPort_pending (s : State) (i : Nat) (x : Port) : (setPort s i x).pending = s.pending := (rfl)
@[simp] theorem setPort_fresh (s : State) (i : Nat) (x : Port) : (setPort s i x).fresh = s.fresh := (rfl)
@[simp] theorem setPort_ticks (s : State) (i : Nat) (x : Port) : (setPort s i x).ticks = s.ticks := (rfl)
@[simp] theorem setPort_regs (s : State) (i : Nat) (x : Port) : (setPort s i x).regs = s.regs := (rfl)
@[simp] theorem setPort_ucode (s : State) (i : Nat) (x : Port) : (setPort s i x).ucode = s.ucode := (rfl)
@[simp] theorem setPort_ucodeBad (s : State) (i : Nat) (x : Port) : (setPort s i x).ucodeBad = s.ucodeBad := (rfl)
@[simp] theorem setPort_mem (s : State) (i : Nat) (x : Port) : (setPort s i x).mem = s.mem := (rfl)
@[simp] theorem setPort_memBad (s : State) (i : Nat) (x : Port) : (setPort s i x).memBad = s.memBad := (rfl)
@[simp] theorem setPort_l2 (s : State) (i : Nat) (x : Port) : (setPort s i x).l2 = s.l2 := (rfl)
@[simp] theorem setPort_lost (s : State) (i : Nat) (x : Port) : (setPort s i x).lost = s.lost := (rfl)
@[simp] theorem setPort_windows (s : State) (i : Nat) (x : Port) : (setPort s i x).windows = s.windows := (rfl)
@[simp] theorem setPort_banks (s : State) (i : Nat) (x : Port) : (setPort s i x).banks = s.banks := (rfl)
@[simp] theorem setPort_channels (s : State) (i : Nat) (x : Port) : (setPort s i x).channels = s.channels := (rfl)
@[simp] theorem setPort_pots (s : State) (i : Nat) (x : Port) : (setPort s i x).pots = s.pots := (rfl)
@[simp] theorem setPort_arbCounts (s : State) (i : Nat) (x : Port) : (setPort s i x).arbCounts = s.arbCounts := (rfl)
@[simp] theorem setPort_bankErr (s : State) (i : Nat) (x : Port) : (setPort s i x).bankErr = s.bankErr := (rfl)
@[simp] theorem setPort_passSeeds (s : State) (i : Nat) (x : Port) : (setPort s i x).passSeeds = s.passSeeds := (rfl)
@[simp] theorem setPort_writes (s : State) (i : Nat) (x : Port) : (setPort s i x).writes = s.writes := (rfl)
@[simp] theorem setPort_nextWrite (s : State) (i : Nat) (x : Port) : (setPort s i x).nextWrite = s.nextWrite := (rfl)
@[simp] theorem setPort_threads (s : State) (i : Nat) (x : Port) : (setPort s i x).threads = s.threads := (rfl)
@[simp] theorem setPort_cores (s : State) (i : Nat) (x : Port) : (setPort s i x).cores = s.cores := (rfl)
@[simp] theorem setPort_present (s : State) (i : Nat) (x : Port) : (setPort s i x).present = s.present := (rfl)
@[simp] theorem setPort_tlbs (s : State) (i : Nat) (x : Port) : (setPort s i x).tlbs = s.tlbs := (rfl)
@[simp] theorem setPort_wayAge (s : State) (i : Nat) (x : Port) : (setPort s i x).wayAge = s.wayAge := (rfl)
@[simp] theorem setPort_wayZero (s : State) (i : Nat) (x : Port) : (setPort s i x).wayZero = s.wayZero := (rfl)
@[simp] theorem setPort_sync (s : State) (i : Nat) (x : Port) : (setPort s i x).sync = s.sync := (rfl)
@[simp] theorem setPort_nextSync (s : State) (i : Nat) (x : Port) : (setPort s i x).nextSync = s.nextSync := (rfl)
@[simp] theorem setPort_syncQ (s : State) (i : Nat) (x : Port) : (setPort s i x).syncQ = s.syncQ := (rfl)
@[simp] theorem setPort_releases (s : State) (i : Nat) (x : Port) : (setPort s i x).releases = s.releases := (rfl)
@[simp] theorem setPort_maskedTid (s : State) (i : Nat) (x : Port) : (setPort s i x).maskedTid = s.maskedTid := (rfl)
@[simp] theorem setPort_queues (s : State) (i : Nat) (x : Port) : (setPort s i x).queues = s.queues := (rfl)
@[simp] theorem setPort_teTurn (s : State) (i : Nat) (x : Port) : (setPort s i x).teTurn = s.teTurn := (rfl)
@[simp] theorem setPort_nextTag (s : State) (i : Nat) (x : Port) : (setPort s i x).nextTag = s.nextTag := (rfl)
@[simp] theorem setPort_nextFlight (s : State) (i : Nat) (x : Port) : (setPort s i x).nextFlight = s.nextFlight := (rfl)
@[simp] theorem setPort_potSlots (s : State) (i : Nat) (x : Port) : (setPort s i x).potSlots = s.potSlots := (rfl)
@[simp] theorem setPort_potQuiet (s : State) (i : Nat) (x : Port) : (setPort s i x).potQuiet = s.potQuiet := (rfl)
@[simp] theorem setPort_deadArmed (s : State) (i : Nat) (x : Port) : (setPort s i x).deadArmed = s.deadArmed := (rfl)
@[simp] theorem setPort_ctx (s : State) (i : Nat) (x : Port) : (setPort s i x).ctx = s.ctx := (rfl)
@[simp] theorem setPort_dealer (s : State) (i : Nat) (x : Port) : (setPort s i x).dealer = s.dealer := (rfl)
@[simp] theorem setPort_commit (s : State) (i : Nat) (x : Port) : (setPort s i x).commit = s.commit := (rfl)
@[simp] theorem setPort_safety (s : State) (i : Nat) (x : Port) : (setPort s i x).safety = s.safety := (rfl)
@[simp] theorem setPort_selfTest (s : State) (i : Nat) (x : Port) : (setPort s i x).selfTest = s.selfTest := (rfl)
@[simp] theorem setPort_power (s : State) (i : Nat) (x : Port) : (setPort s i x).power = s.power := (rfl)
@[simp] theorem setPort_boot (s : State) (i : Nat) (x : Port) : (setPort s i x).boot = s.boot := (rfl)
@[simp] theorem setPort_security (s : State) (i : Nat) (x : Port) : (setPort s i x).security = s.security := (rfl)
@[simp] theorem setPort_txn (s : State) (i : Nat) (x : Port) : (setPort s i x).txn = s.txn := (rfl)
@[simp] theorem setPort_host (s : State) (i : Nat) (x : Port) : (setPort s i x).host = s.host := (rfl)
@[simp] theorem setPort_kept (s : State) (i : Nat) (x : Port) : (setPort s i x).kept = s.kept := (rfl)
@[simp] theorem setPort_deckEntry0 (s : State) (i : Nat) (x : Port) : (setPort s i x).deckEntry0 = s.deckEntry0 := (rfl)
@[simp] theorem setPort_deckEntry1 (s : State) (i : Nat) (x : Port) : (setPort s i x).deckEntry1 = s.deckEntry1 := (rfl)
@[simp] theorem setPort_devId (s : State) (i : Nat) (x : Port) : (setPort s i x).devId = s.devId := (rfl)

/-! ### setQueue -/

@[simp] theorem setQueue_pending (s : State) (i : Nat) (x : TeQueue) : (setQueue s i x).pending = s.pending := (rfl)
@[simp] theorem setQueue_fresh (s : State) (i : Nat) (x : TeQueue) : (setQueue s i x).fresh = s.fresh := (rfl)
@[simp] theorem setQueue_ticks (s : State) (i : Nat) (x : TeQueue) : (setQueue s i x).ticks = s.ticks := (rfl)
@[simp] theorem setQueue_regs (s : State) (i : Nat) (x : TeQueue) : (setQueue s i x).regs = s.regs := (rfl)
@[simp] theorem setQueue_ucode (s : State) (i : Nat) (x : TeQueue) : (setQueue s i x).ucode = s.ucode := (rfl)
@[simp] theorem setQueue_ucodeBad (s : State) (i : Nat) (x : TeQueue) : (setQueue s i x).ucodeBad = s.ucodeBad := (rfl)
@[simp] theorem setQueue_mem (s : State) (i : Nat) (x : TeQueue) : (setQueue s i x).mem = s.mem := (rfl)
@[simp] theorem setQueue_memBad (s : State) (i : Nat) (x : TeQueue) : (setQueue s i x).memBad = s.memBad := (rfl)
@[simp] theorem setQueue_l2 (s : State) (i : Nat) (x : TeQueue) : (setQueue s i x).l2 = s.l2 := (rfl)
@[simp] theorem setQueue_lost (s : State) (i : Nat) (x : TeQueue) : (setQueue s i x).lost = s.lost := (rfl)
@[simp] theorem setQueue_windows (s : State) (i : Nat) (x : TeQueue) : (setQueue s i x).windows = s.windows := (rfl)
@[simp] theorem setQueue_banks (s : State) (i : Nat) (x : TeQueue) : (setQueue s i x).banks = s.banks := (rfl)
@[simp] theorem setQueue_channels (s : State) (i : Nat) (x : TeQueue) : (setQueue s i x).channels = s.channels := (rfl)
@[simp] theorem setQueue_pots (s : State) (i : Nat) (x : TeQueue) : (setQueue s i x).pots = s.pots := (rfl)
@[simp] theorem setQueue_arbCounts (s : State) (i : Nat) (x : TeQueue) : (setQueue s i x).arbCounts = s.arbCounts := (rfl)
@[simp] theorem setQueue_bankErr (s : State) (i : Nat) (x : TeQueue) : (setQueue s i x).bankErr = s.bankErr := (rfl)
@[simp] theorem setQueue_passSeeds (s : State) (i : Nat) (x : TeQueue) : (setQueue s i x).passSeeds = s.passSeeds := (rfl)
@[simp] theorem setQueue_writes (s : State) (i : Nat) (x : TeQueue) : (setQueue s i x).writes = s.writes := (rfl)
@[simp] theorem setQueue_nextWrite (s : State) (i : Nat) (x : TeQueue) : (setQueue s i x).nextWrite = s.nextWrite := (rfl)
@[simp] theorem setQueue_threads (s : State) (i : Nat) (x : TeQueue) : (setQueue s i x).threads = s.threads := (rfl)
@[simp] theorem setQueue_cores (s : State) (i : Nat) (x : TeQueue) : (setQueue s i x).cores = s.cores := (rfl)
@[simp] theorem setQueue_present (s : State) (i : Nat) (x : TeQueue) : (setQueue s i x).present = s.present := (rfl)
@[simp] theorem setQueue_tlbs (s : State) (i : Nat) (x : TeQueue) : (setQueue s i x).tlbs = s.tlbs := (rfl)
@[simp] theorem setQueue_wayAge (s : State) (i : Nat) (x : TeQueue) : (setQueue s i x).wayAge = s.wayAge := (rfl)
@[simp] theorem setQueue_wayZero (s : State) (i : Nat) (x : TeQueue) : (setQueue s i x).wayZero = s.wayZero := (rfl)
@[simp] theorem setQueue_sync (s : State) (i : Nat) (x : TeQueue) : (setQueue s i x).sync = s.sync := (rfl)
@[simp] theorem setQueue_nextSync (s : State) (i : Nat) (x : TeQueue) : (setQueue s i x).nextSync = s.nextSync := (rfl)
@[simp] theorem setQueue_syncQ (s : State) (i : Nat) (x : TeQueue) : (setQueue s i x).syncQ = s.syncQ := (rfl)
@[simp] theorem setQueue_releases (s : State) (i : Nat) (x : TeQueue) : (setQueue s i x).releases = s.releases := (rfl)
@[simp] theorem setQueue_maskedTid (s : State) (i : Nat) (x : TeQueue) : (setQueue s i x).maskedTid = s.maskedTid := (rfl)
@[simp] theorem setQueue_ports (s : State) (i : Nat) (x : TeQueue) : (setQueue s i x).ports = s.ports := (rfl)
@[simp] theorem setQueue_teTurn (s : State) (i : Nat) (x : TeQueue) : (setQueue s i x).teTurn = s.teTurn := (rfl)
@[simp] theorem setQueue_nextTag (s : State) (i : Nat) (x : TeQueue) : (setQueue s i x).nextTag = s.nextTag := (rfl)
@[simp] theorem setQueue_nextFlight (s : State) (i : Nat) (x : TeQueue) : (setQueue s i x).nextFlight = s.nextFlight := (rfl)
@[simp] theorem setQueue_potSlots (s : State) (i : Nat) (x : TeQueue) : (setQueue s i x).potSlots = s.potSlots := (rfl)
@[simp] theorem setQueue_potQuiet (s : State) (i : Nat) (x : TeQueue) : (setQueue s i x).potQuiet = s.potQuiet := (rfl)
@[simp] theorem setQueue_deadArmed (s : State) (i : Nat) (x : TeQueue) : (setQueue s i x).deadArmed = s.deadArmed := (rfl)
@[simp] theorem setQueue_ctx (s : State) (i : Nat) (x : TeQueue) : (setQueue s i x).ctx = s.ctx := (rfl)
@[simp] theorem setQueue_dealer (s : State) (i : Nat) (x : TeQueue) : (setQueue s i x).dealer = s.dealer := (rfl)
@[simp] theorem setQueue_commit (s : State) (i : Nat) (x : TeQueue) : (setQueue s i x).commit = s.commit := (rfl)
@[simp] theorem setQueue_safety (s : State) (i : Nat) (x : TeQueue) : (setQueue s i x).safety = s.safety := (rfl)
@[simp] theorem setQueue_selfTest (s : State) (i : Nat) (x : TeQueue) : (setQueue s i x).selfTest = s.selfTest := (rfl)
@[simp] theorem setQueue_power (s : State) (i : Nat) (x : TeQueue) : (setQueue s i x).power = s.power := (rfl)
@[simp] theorem setQueue_boot (s : State) (i : Nat) (x : TeQueue) : (setQueue s i x).boot = s.boot := (rfl)
@[simp] theorem setQueue_security (s : State) (i : Nat) (x : TeQueue) : (setQueue s i x).security = s.security := (rfl)
@[simp] theorem setQueue_txn (s : State) (i : Nat) (x : TeQueue) : (setQueue s i x).txn = s.txn := (rfl)
@[simp] theorem setQueue_host (s : State) (i : Nat) (x : TeQueue) : (setQueue s i x).host = s.host := (rfl)
@[simp] theorem setQueue_kept (s : State) (i : Nat) (x : TeQueue) : (setQueue s i x).kept = s.kept := (rfl)
@[simp] theorem setQueue_deckEntry0 (s : State) (i : Nat) (x : TeQueue) : (setQueue s i x).deckEntry0 = s.deckEntry0 := (rfl)
@[simp] theorem setQueue_deckEntry1 (s : State) (i : Nat) (x : TeQueue) : (setQueue s i x).deckEntry1 = s.deckEntry1 := (rfl)
@[simp] theorem setQueue_devId (s : State) (i : Nat) (x : TeQueue) : (setQueue s i x).devId = s.devId := (rfl)

/-! ### setSlot -/

@[simp] theorem setSlot_pending (s : State) (i : Nat) (x : PotSlot) : (setSlot s i x).pending = s.pending := (rfl)
@[simp] theorem setSlot_fresh (s : State) (i : Nat) (x : PotSlot) : (setSlot s i x).fresh = s.fresh := (rfl)
@[simp] theorem setSlot_ticks (s : State) (i : Nat) (x : PotSlot) : (setSlot s i x).ticks = s.ticks := (rfl)
@[simp] theorem setSlot_regs (s : State) (i : Nat) (x : PotSlot) : (setSlot s i x).regs = s.regs := (rfl)
@[simp] theorem setSlot_ucode (s : State) (i : Nat) (x : PotSlot) : (setSlot s i x).ucode = s.ucode := (rfl)
@[simp] theorem setSlot_ucodeBad (s : State) (i : Nat) (x : PotSlot) : (setSlot s i x).ucodeBad = s.ucodeBad := (rfl)
@[simp] theorem setSlot_mem (s : State) (i : Nat) (x : PotSlot) : (setSlot s i x).mem = s.mem := (rfl)
@[simp] theorem setSlot_memBad (s : State) (i : Nat) (x : PotSlot) : (setSlot s i x).memBad = s.memBad := (rfl)
@[simp] theorem setSlot_l2 (s : State) (i : Nat) (x : PotSlot) : (setSlot s i x).l2 = s.l2 := (rfl)
@[simp] theorem setSlot_lost (s : State) (i : Nat) (x : PotSlot) : (setSlot s i x).lost = s.lost := (rfl)
@[simp] theorem setSlot_windows (s : State) (i : Nat) (x : PotSlot) : (setSlot s i x).windows = s.windows := (rfl)
@[simp] theorem setSlot_banks (s : State) (i : Nat) (x : PotSlot) : (setSlot s i x).banks = s.banks := (rfl)
@[simp] theorem setSlot_channels (s : State) (i : Nat) (x : PotSlot) : (setSlot s i x).channels = s.channels := (rfl)
@[simp] theorem setSlot_pots (s : State) (i : Nat) (x : PotSlot) : (setSlot s i x).pots = s.pots := (rfl)
@[simp] theorem setSlot_arbCounts (s : State) (i : Nat) (x : PotSlot) : (setSlot s i x).arbCounts = s.arbCounts := (rfl)
@[simp] theorem setSlot_bankErr (s : State) (i : Nat) (x : PotSlot) : (setSlot s i x).bankErr = s.bankErr := (rfl)
@[simp] theorem setSlot_passSeeds (s : State) (i : Nat) (x : PotSlot) : (setSlot s i x).passSeeds = s.passSeeds := (rfl)
@[simp] theorem setSlot_writes (s : State) (i : Nat) (x : PotSlot) : (setSlot s i x).writes = s.writes := (rfl)
@[simp] theorem setSlot_nextWrite (s : State) (i : Nat) (x : PotSlot) : (setSlot s i x).nextWrite = s.nextWrite := (rfl)
@[simp] theorem setSlot_threads (s : State) (i : Nat) (x : PotSlot) : (setSlot s i x).threads = s.threads := (rfl)
@[simp] theorem setSlot_cores (s : State) (i : Nat) (x : PotSlot) : (setSlot s i x).cores = s.cores := (rfl)
@[simp] theorem setSlot_present (s : State) (i : Nat) (x : PotSlot) : (setSlot s i x).present = s.present := (rfl)
@[simp] theorem setSlot_tlbs (s : State) (i : Nat) (x : PotSlot) : (setSlot s i x).tlbs = s.tlbs := (rfl)
@[simp] theorem setSlot_wayAge (s : State) (i : Nat) (x : PotSlot) : (setSlot s i x).wayAge = s.wayAge := (rfl)
@[simp] theorem setSlot_wayZero (s : State) (i : Nat) (x : PotSlot) : (setSlot s i x).wayZero = s.wayZero := (rfl)
@[simp] theorem setSlot_sync (s : State) (i : Nat) (x : PotSlot) : (setSlot s i x).sync = s.sync := (rfl)
@[simp] theorem setSlot_nextSync (s : State) (i : Nat) (x : PotSlot) : (setSlot s i x).nextSync = s.nextSync := (rfl)
@[simp] theorem setSlot_syncQ (s : State) (i : Nat) (x : PotSlot) : (setSlot s i x).syncQ = s.syncQ := (rfl)
@[simp] theorem setSlot_releases (s : State) (i : Nat) (x : PotSlot) : (setSlot s i x).releases = s.releases := (rfl)
@[simp] theorem setSlot_maskedTid (s : State) (i : Nat) (x : PotSlot) : (setSlot s i x).maskedTid = s.maskedTid := (rfl)
@[simp] theorem setSlot_ports (s : State) (i : Nat) (x : PotSlot) : (setSlot s i x).ports = s.ports := (rfl)
@[simp] theorem setSlot_queues (s : State) (i : Nat) (x : PotSlot) : (setSlot s i x).queues = s.queues := (rfl)
@[simp] theorem setSlot_teTurn (s : State) (i : Nat) (x : PotSlot) : (setSlot s i x).teTurn = s.teTurn := (rfl)
@[simp] theorem setSlot_nextTag (s : State) (i : Nat) (x : PotSlot) : (setSlot s i x).nextTag = s.nextTag := (rfl)
@[simp] theorem setSlot_nextFlight (s : State) (i : Nat) (x : PotSlot) : (setSlot s i x).nextFlight = s.nextFlight := (rfl)
@[simp] theorem setSlot_potQuiet (s : State) (i : Nat) (x : PotSlot) : (setSlot s i x).potQuiet = s.potQuiet := (rfl)
@[simp] theorem setSlot_deadArmed (s : State) (i : Nat) (x : PotSlot) : (setSlot s i x).deadArmed = s.deadArmed := (rfl)
@[simp] theorem setSlot_ctx (s : State) (i : Nat) (x : PotSlot) : (setSlot s i x).ctx = s.ctx := (rfl)
@[simp] theorem setSlot_dealer (s : State) (i : Nat) (x : PotSlot) : (setSlot s i x).dealer = s.dealer := (rfl)
@[simp] theorem setSlot_commit (s : State) (i : Nat) (x : PotSlot) : (setSlot s i x).commit = s.commit := (rfl)
@[simp] theorem setSlot_safety (s : State) (i : Nat) (x : PotSlot) : (setSlot s i x).safety = s.safety := (rfl)
@[simp] theorem setSlot_selfTest (s : State) (i : Nat) (x : PotSlot) : (setSlot s i x).selfTest = s.selfTest := (rfl)
@[simp] theorem setSlot_power (s : State) (i : Nat) (x : PotSlot) : (setSlot s i x).power = s.power := (rfl)
@[simp] theorem setSlot_boot (s : State) (i : Nat) (x : PotSlot) : (setSlot s i x).boot = s.boot := (rfl)
@[simp] theorem setSlot_security (s : State) (i : Nat) (x : PotSlot) : (setSlot s i x).security = s.security := (rfl)
@[simp] theorem setSlot_txn (s : State) (i : Nat) (x : PotSlot) : (setSlot s i x).txn = s.txn := (rfl)
@[simp] theorem setSlot_host (s : State) (i : Nat) (x : PotSlot) : (setSlot s i x).host = s.host := (rfl)
@[simp] theorem setSlot_kept (s : State) (i : Nat) (x : PotSlot) : (setSlot s i x).kept = s.kept := (rfl)
@[simp] theorem setSlot_deckEntry0 (s : State) (i : Nat) (x : PotSlot) : (setSlot s i x).deckEntry0 = s.deckEntry0 := (rfl)
@[simp] theorem setSlot_deckEntry1 (s : State) (i : Nat) (x : PotSlot) : (setSlot s i x).deckEntry1 = s.deckEntry1 := (rfl)
@[simp] theorem setSlot_devId (s : State) (i : Nat) (x : PotSlot) : (setSlot s i x).devId = s.devId := (rfl)

/-! ### setObj -/

@[simp] theorem setObj_pending (s : State) (i : Nat) (x : SyncObj) : (setObj s i x).pending = s.pending := (rfl)
@[simp] theorem setObj_fresh (s : State) (i : Nat) (x : SyncObj) : (setObj s i x).fresh = s.fresh := (rfl)
@[simp] theorem setObj_ticks (s : State) (i : Nat) (x : SyncObj) : (setObj s i x).ticks = s.ticks := (rfl)
@[simp] theorem setObj_regs (s : State) (i : Nat) (x : SyncObj) : (setObj s i x).regs = s.regs := (rfl)
@[simp] theorem setObj_ucode (s : State) (i : Nat) (x : SyncObj) : (setObj s i x).ucode = s.ucode := (rfl)
@[simp] theorem setObj_ucodeBad (s : State) (i : Nat) (x : SyncObj) : (setObj s i x).ucodeBad = s.ucodeBad := (rfl)
@[simp] theorem setObj_mem (s : State) (i : Nat) (x : SyncObj) : (setObj s i x).mem = s.mem := (rfl)
@[simp] theorem setObj_memBad (s : State) (i : Nat) (x : SyncObj) : (setObj s i x).memBad = s.memBad := (rfl)
@[simp] theorem setObj_l2 (s : State) (i : Nat) (x : SyncObj) : (setObj s i x).l2 = s.l2 := (rfl)
@[simp] theorem setObj_lost (s : State) (i : Nat) (x : SyncObj) : (setObj s i x).lost = s.lost := (rfl)
@[simp] theorem setObj_windows (s : State) (i : Nat) (x : SyncObj) : (setObj s i x).windows = s.windows := (rfl)
@[simp] theorem setObj_banks (s : State) (i : Nat) (x : SyncObj) : (setObj s i x).banks = s.banks := (rfl)
@[simp] theorem setObj_channels (s : State) (i : Nat) (x : SyncObj) : (setObj s i x).channels = s.channels := (rfl)
@[simp] theorem setObj_pots (s : State) (i : Nat) (x : SyncObj) : (setObj s i x).pots = s.pots := (rfl)
@[simp] theorem setObj_arbCounts (s : State) (i : Nat) (x : SyncObj) : (setObj s i x).arbCounts = s.arbCounts := (rfl)
@[simp] theorem setObj_bankErr (s : State) (i : Nat) (x : SyncObj) : (setObj s i x).bankErr = s.bankErr := (rfl)
@[simp] theorem setObj_passSeeds (s : State) (i : Nat) (x : SyncObj) : (setObj s i x).passSeeds = s.passSeeds := (rfl)
@[simp] theorem setObj_writes (s : State) (i : Nat) (x : SyncObj) : (setObj s i x).writes = s.writes := (rfl)
@[simp] theorem setObj_nextWrite (s : State) (i : Nat) (x : SyncObj) : (setObj s i x).nextWrite = s.nextWrite := (rfl)
@[simp] theorem setObj_threads (s : State) (i : Nat) (x : SyncObj) : (setObj s i x).threads = s.threads := (rfl)
@[simp] theorem setObj_cores (s : State) (i : Nat) (x : SyncObj) : (setObj s i x).cores = s.cores := (rfl)
@[simp] theorem setObj_present (s : State) (i : Nat) (x : SyncObj) : (setObj s i x).present = s.present := (rfl)
@[simp] theorem setObj_tlbs (s : State) (i : Nat) (x : SyncObj) : (setObj s i x).tlbs = s.tlbs := (rfl)
@[simp] theorem setObj_wayAge (s : State) (i : Nat) (x : SyncObj) : (setObj s i x).wayAge = s.wayAge := (rfl)
@[simp] theorem setObj_wayZero (s : State) (i : Nat) (x : SyncObj) : (setObj s i x).wayZero = s.wayZero := (rfl)
@[simp] theorem setObj_nextSync (s : State) (i : Nat) (x : SyncObj) : (setObj s i x).nextSync = s.nextSync := (rfl)
@[simp] theorem setObj_syncQ (s : State) (i : Nat) (x : SyncObj) : (setObj s i x).syncQ = s.syncQ := (rfl)
@[simp] theorem setObj_releases (s : State) (i : Nat) (x : SyncObj) : (setObj s i x).releases = s.releases := (rfl)
@[simp] theorem setObj_maskedTid (s : State) (i : Nat) (x : SyncObj) : (setObj s i x).maskedTid = s.maskedTid := (rfl)
@[simp] theorem setObj_ports (s : State) (i : Nat) (x : SyncObj) : (setObj s i x).ports = s.ports := (rfl)
@[simp] theorem setObj_queues (s : State) (i : Nat) (x : SyncObj) : (setObj s i x).queues = s.queues := (rfl)
@[simp] theorem setObj_teTurn (s : State) (i : Nat) (x : SyncObj) : (setObj s i x).teTurn = s.teTurn := (rfl)
@[simp] theorem setObj_nextTag (s : State) (i : Nat) (x : SyncObj) : (setObj s i x).nextTag = s.nextTag := (rfl)
@[simp] theorem setObj_nextFlight (s : State) (i : Nat) (x : SyncObj) : (setObj s i x).nextFlight = s.nextFlight := (rfl)
@[simp] theorem setObj_potSlots (s : State) (i : Nat) (x : SyncObj) : (setObj s i x).potSlots = s.potSlots := (rfl)
@[simp] theorem setObj_potQuiet (s : State) (i : Nat) (x : SyncObj) : (setObj s i x).potQuiet = s.potQuiet := (rfl)
@[simp] theorem setObj_deadArmed (s : State) (i : Nat) (x : SyncObj) : (setObj s i x).deadArmed = s.deadArmed := (rfl)
@[simp] theorem setObj_ctx (s : State) (i : Nat) (x : SyncObj) : (setObj s i x).ctx = s.ctx := (rfl)
@[simp] theorem setObj_dealer (s : State) (i : Nat) (x : SyncObj) : (setObj s i x).dealer = s.dealer := (rfl)
@[simp] theorem setObj_commit (s : State) (i : Nat) (x : SyncObj) : (setObj s i x).commit = s.commit := (rfl)
@[simp] theorem setObj_safety (s : State) (i : Nat) (x : SyncObj) : (setObj s i x).safety = s.safety := (rfl)
@[simp] theorem setObj_selfTest (s : State) (i : Nat) (x : SyncObj) : (setObj s i x).selfTest = s.selfTest := (rfl)
@[simp] theorem setObj_power (s : State) (i : Nat) (x : SyncObj) : (setObj s i x).power = s.power := (rfl)
@[simp] theorem setObj_boot (s : State) (i : Nat) (x : SyncObj) : (setObj s i x).boot = s.boot := (rfl)
@[simp] theorem setObj_security (s : State) (i : Nat) (x : SyncObj) : (setObj s i x).security = s.security := (rfl)
@[simp] theorem setObj_txn (s : State) (i : Nat) (x : SyncObj) : (setObj s i x).txn = s.txn := (rfl)
@[simp] theorem setObj_host (s : State) (i : Nat) (x : SyncObj) : (setObj s i x).host = s.host := (rfl)
@[simp] theorem setObj_kept (s : State) (i : Nat) (x : SyncObj) : (setObj s i x).kept = s.kept := (rfl)
@[simp] theorem setObj_deckEntry0 (s : State) (i : Nat) (x : SyncObj) : (setObj s i x).deckEntry0 = s.deckEntry0 := (rfl)
@[simp] theorem setObj_deckEntry1 (s : State) (i : Nat) (x : SyncObj) : (setObj s i x).deckEntry1 = s.deckEntry1 := (rfl)
@[simp] theorem setObj_devId (s : State) (i : Nat) (x : SyncObj) : (setObj s i x).devId = s.devId := (rfl)

/-! ### setBank -/

@[simp] theorem setBank_pending (s : State) (i : Nat) (x : Arb Req) : (setBank s i x).pending = s.pending := (rfl)
@[simp] theorem setBank_fresh (s : State) (i : Nat) (x : Arb Req) : (setBank s i x).fresh = s.fresh := (rfl)
@[simp] theorem setBank_ticks (s : State) (i : Nat) (x : Arb Req) : (setBank s i x).ticks = s.ticks := (rfl)
@[simp] theorem setBank_regs (s : State) (i : Nat) (x : Arb Req) : (setBank s i x).regs = s.regs := (rfl)
@[simp] theorem setBank_ucode (s : State) (i : Nat) (x : Arb Req) : (setBank s i x).ucode = s.ucode := (rfl)
@[simp] theorem setBank_ucodeBad (s : State) (i : Nat) (x : Arb Req) : (setBank s i x).ucodeBad = s.ucodeBad := (rfl)
@[simp] theorem setBank_mem (s : State) (i : Nat) (x : Arb Req) : (setBank s i x).mem = s.mem := (rfl)
@[simp] theorem setBank_memBad (s : State) (i : Nat) (x : Arb Req) : (setBank s i x).memBad = s.memBad := (rfl)
@[simp] theorem setBank_l2 (s : State) (i : Nat) (x : Arb Req) : (setBank s i x).l2 = s.l2 := (rfl)
@[simp] theorem setBank_lost (s : State) (i : Nat) (x : Arb Req) : (setBank s i x).lost = s.lost := (rfl)
@[simp] theorem setBank_windows (s : State) (i : Nat) (x : Arb Req) : (setBank s i x).windows = s.windows := (rfl)
@[simp] theorem setBank_channels (s : State) (i : Nat) (x : Arb Req) : (setBank s i x).channels = s.channels := (rfl)
@[simp] theorem setBank_pots (s : State) (i : Nat) (x : Arb Req) : (setBank s i x).pots = s.pots := (rfl)
@[simp] theorem setBank_arbCounts (s : State) (i : Nat) (x : Arb Req) : (setBank s i x).arbCounts = s.arbCounts := (rfl)
@[simp] theorem setBank_bankErr (s : State) (i : Nat) (x : Arb Req) : (setBank s i x).bankErr = s.bankErr := (rfl)
@[simp] theorem setBank_passSeeds (s : State) (i : Nat) (x : Arb Req) : (setBank s i x).passSeeds = s.passSeeds := (rfl)
@[simp] theorem setBank_writes (s : State) (i : Nat) (x : Arb Req) : (setBank s i x).writes = s.writes := (rfl)
@[simp] theorem setBank_nextWrite (s : State) (i : Nat) (x : Arb Req) : (setBank s i x).nextWrite = s.nextWrite := (rfl)
@[simp] theorem setBank_threads (s : State) (i : Nat) (x : Arb Req) : (setBank s i x).threads = s.threads := (rfl)
@[simp] theorem setBank_cores (s : State) (i : Nat) (x : Arb Req) : (setBank s i x).cores = s.cores := (rfl)
@[simp] theorem setBank_present (s : State) (i : Nat) (x : Arb Req) : (setBank s i x).present = s.present := (rfl)
@[simp] theorem setBank_tlbs (s : State) (i : Nat) (x : Arb Req) : (setBank s i x).tlbs = s.tlbs := (rfl)
@[simp] theorem setBank_wayAge (s : State) (i : Nat) (x : Arb Req) : (setBank s i x).wayAge = s.wayAge := (rfl)
@[simp] theorem setBank_wayZero (s : State) (i : Nat) (x : Arb Req) : (setBank s i x).wayZero = s.wayZero := (rfl)
@[simp] theorem setBank_sync (s : State) (i : Nat) (x : Arb Req) : (setBank s i x).sync = s.sync := (rfl)
@[simp] theorem setBank_nextSync (s : State) (i : Nat) (x : Arb Req) : (setBank s i x).nextSync = s.nextSync := (rfl)
@[simp] theorem setBank_syncQ (s : State) (i : Nat) (x : Arb Req) : (setBank s i x).syncQ = s.syncQ := (rfl)
@[simp] theorem setBank_releases (s : State) (i : Nat) (x : Arb Req) : (setBank s i x).releases = s.releases := (rfl)
@[simp] theorem setBank_maskedTid (s : State) (i : Nat) (x : Arb Req) : (setBank s i x).maskedTid = s.maskedTid := (rfl)
@[simp] theorem setBank_ports (s : State) (i : Nat) (x : Arb Req) : (setBank s i x).ports = s.ports := (rfl)
@[simp] theorem setBank_queues (s : State) (i : Nat) (x : Arb Req) : (setBank s i x).queues = s.queues := (rfl)
@[simp] theorem setBank_teTurn (s : State) (i : Nat) (x : Arb Req) : (setBank s i x).teTurn = s.teTurn := (rfl)
@[simp] theorem setBank_nextTag (s : State) (i : Nat) (x : Arb Req) : (setBank s i x).nextTag = s.nextTag := (rfl)
@[simp] theorem setBank_nextFlight (s : State) (i : Nat) (x : Arb Req) : (setBank s i x).nextFlight = s.nextFlight := (rfl)
@[simp] theorem setBank_potSlots (s : State) (i : Nat) (x : Arb Req) : (setBank s i x).potSlots = s.potSlots := (rfl)
@[simp] theorem setBank_potQuiet (s : State) (i : Nat) (x : Arb Req) : (setBank s i x).potQuiet = s.potQuiet := (rfl)
@[simp] theorem setBank_deadArmed (s : State) (i : Nat) (x : Arb Req) : (setBank s i x).deadArmed = s.deadArmed := (rfl)
@[simp] theorem setBank_ctx (s : State) (i : Nat) (x : Arb Req) : (setBank s i x).ctx = s.ctx := (rfl)
@[simp] theorem setBank_dealer (s : State) (i : Nat) (x : Arb Req) : (setBank s i x).dealer = s.dealer := (rfl)
@[simp] theorem setBank_commit (s : State) (i : Nat) (x : Arb Req) : (setBank s i x).commit = s.commit := (rfl)
@[simp] theorem setBank_safety (s : State) (i : Nat) (x : Arb Req) : (setBank s i x).safety = s.safety := (rfl)
@[simp] theorem setBank_selfTest (s : State) (i : Nat) (x : Arb Req) : (setBank s i x).selfTest = s.selfTest := (rfl)
@[simp] theorem setBank_power (s : State) (i : Nat) (x : Arb Req) : (setBank s i x).power = s.power := (rfl)
@[simp] theorem setBank_boot (s : State) (i : Nat) (x : Arb Req) : (setBank s i x).boot = s.boot := (rfl)
@[simp] theorem setBank_security (s : State) (i : Nat) (x : Arb Req) : (setBank s i x).security = s.security := (rfl)
@[simp] theorem setBank_txn (s : State) (i : Nat) (x : Arb Req) : (setBank s i x).txn = s.txn := (rfl)
@[simp] theorem setBank_host (s : State) (i : Nat) (x : Arb Req) : (setBank s i x).host = s.host := (rfl)
@[simp] theorem setBank_kept (s : State) (i : Nat) (x : Arb Req) : (setBank s i x).kept = s.kept := (rfl)
@[simp] theorem setBank_deckEntry0 (s : State) (i : Nat) (x : Arb Req) : (setBank s i x).deckEntry0 = s.deckEntry0 := (rfl)
@[simp] theorem setBank_deckEntry1 (s : State) (i : Nat) (x : Arb Req) : (setBank s i x).deckEntry1 = s.deckEntry1 := (rfl)
@[simp] theorem setBank_devId (s : State) (i : Nat) (x : Arb Req) : (setBank s i x).devId = s.devId := (rfl)

/-! ### setChannel -/

@[simp] theorem setChannel_pending (s : State) (i : Nat) (x : Arb Req) : (setChannel s i x).pending = s.pending := (rfl)
@[simp] theorem setChannel_fresh (s : State) (i : Nat) (x : Arb Req) : (setChannel s i x).fresh = s.fresh := (rfl)
@[simp] theorem setChannel_ticks (s : State) (i : Nat) (x : Arb Req) : (setChannel s i x).ticks = s.ticks := (rfl)
@[simp] theorem setChannel_regs (s : State) (i : Nat) (x : Arb Req) : (setChannel s i x).regs = s.regs := (rfl)
@[simp] theorem setChannel_ucode (s : State) (i : Nat) (x : Arb Req) : (setChannel s i x).ucode = s.ucode := (rfl)
@[simp] theorem setChannel_ucodeBad (s : State) (i : Nat) (x : Arb Req) : (setChannel s i x).ucodeBad = s.ucodeBad := (rfl)
@[simp] theorem setChannel_mem (s : State) (i : Nat) (x : Arb Req) : (setChannel s i x).mem = s.mem := (rfl)
@[simp] theorem setChannel_memBad (s : State) (i : Nat) (x : Arb Req) : (setChannel s i x).memBad = s.memBad := (rfl)
@[simp] theorem setChannel_l2 (s : State) (i : Nat) (x : Arb Req) : (setChannel s i x).l2 = s.l2 := (rfl)
@[simp] theorem setChannel_lost (s : State) (i : Nat) (x : Arb Req) : (setChannel s i x).lost = s.lost := (rfl)
@[simp] theorem setChannel_windows (s : State) (i : Nat) (x : Arb Req) : (setChannel s i x).windows = s.windows := (rfl)
@[simp] theorem setChannel_banks (s : State) (i : Nat) (x : Arb Req) : (setChannel s i x).banks = s.banks := (rfl)
@[simp] theorem setChannel_pots (s : State) (i : Nat) (x : Arb Req) : (setChannel s i x).pots = s.pots := (rfl)
@[simp] theorem setChannel_arbCounts (s : State) (i : Nat) (x : Arb Req) : (setChannel s i x).arbCounts = s.arbCounts := (rfl)
@[simp] theorem setChannel_bankErr (s : State) (i : Nat) (x : Arb Req) : (setChannel s i x).bankErr = s.bankErr := (rfl)
@[simp] theorem setChannel_passSeeds (s : State) (i : Nat) (x : Arb Req) : (setChannel s i x).passSeeds = s.passSeeds := (rfl)
@[simp] theorem setChannel_writes (s : State) (i : Nat) (x : Arb Req) : (setChannel s i x).writes = s.writes := (rfl)
@[simp] theorem setChannel_nextWrite (s : State) (i : Nat) (x : Arb Req) : (setChannel s i x).nextWrite = s.nextWrite := (rfl)
@[simp] theorem setChannel_threads (s : State) (i : Nat) (x : Arb Req) : (setChannel s i x).threads = s.threads := (rfl)
@[simp] theorem setChannel_cores (s : State) (i : Nat) (x : Arb Req) : (setChannel s i x).cores = s.cores := (rfl)
@[simp] theorem setChannel_present (s : State) (i : Nat) (x : Arb Req) : (setChannel s i x).present = s.present := (rfl)
@[simp] theorem setChannel_tlbs (s : State) (i : Nat) (x : Arb Req) : (setChannel s i x).tlbs = s.tlbs := (rfl)
@[simp] theorem setChannel_wayAge (s : State) (i : Nat) (x : Arb Req) : (setChannel s i x).wayAge = s.wayAge := (rfl)
@[simp] theorem setChannel_wayZero (s : State) (i : Nat) (x : Arb Req) : (setChannel s i x).wayZero = s.wayZero := (rfl)
@[simp] theorem setChannel_sync (s : State) (i : Nat) (x : Arb Req) : (setChannel s i x).sync = s.sync := (rfl)
@[simp] theorem setChannel_nextSync (s : State) (i : Nat) (x : Arb Req) : (setChannel s i x).nextSync = s.nextSync := (rfl)
@[simp] theorem setChannel_syncQ (s : State) (i : Nat) (x : Arb Req) : (setChannel s i x).syncQ = s.syncQ := (rfl)
@[simp] theorem setChannel_releases (s : State) (i : Nat) (x : Arb Req) : (setChannel s i x).releases = s.releases := (rfl)
@[simp] theorem setChannel_maskedTid (s : State) (i : Nat) (x : Arb Req) : (setChannel s i x).maskedTid = s.maskedTid := (rfl)
@[simp] theorem setChannel_ports (s : State) (i : Nat) (x : Arb Req) : (setChannel s i x).ports = s.ports := (rfl)
@[simp] theorem setChannel_queues (s : State) (i : Nat) (x : Arb Req) : (setChannel s i x).queues = s.queues := (rfl)
@[simp] theorem setChannel_teTurn (s : State) (i : Nat) (x : Arb Req) : (setChannel s i x).teTurn = s.teTurn := (rfl)
@[simp] theorem setChannel_nextTag (s : State) (i : Nat) (x : Arb Req) : (setChannel s i x).nextTag = s.nextTag := (rfl)
@[simp] theorem setChannel_nextFlight (s : State) (i : Nat) (x : Arb Req) : (setChannel s i x).nextFlight = s.nextFlight := (rfl)
@[simp] theorem setChannel_potSlots (s : State) (i : Nat) (x : Arb Req) : (setChannel s i x).potSlots = s.potSlots := (rfl)
@[simp] theorem setChannel_potQuiet (s : State) (i : Nat) (x : Arb Req) : (setChannel s i x).potQuiet = s.potQuiet := (rfl)
@[simp] theorem setChannel_deadArmed (s : State) (i : Nat) (x : Arb Req) : (setChannel s i x).deadArmed = s.deadArmed := (rfl)
@[simp] theorem setChannel_ctx (s : State) (i : Nat) (x : Arb Req) : (setChannel s i x).ctx = s.ctx := (rfl)
@[simp] theorem setChannel_dealer (s : State) (i : Nat) (x : Arb Req) : (setChannel s i x).dealer = s.dealer := (rfl)
@[simp] theorem setChannel_commit (s : State) (i : Nat) (x : Arb Req) : (setChannel s i x).commit = s.commit := (rfl)
@[simp] theorem setChannel_safety (s : State) (i : Nat) (x : Arb Req) : (setChannel s i x).safety = s.safety := (rfl)
@[simp] theorem setChannel_selfTest (s : State) (i : Nat) (x : Arb Req) : (setChannel s i x).selfTest = s.selfTest := (rfl)
@[simp] theorem setChannel_power (s : State) (i : Nat) (x : Arb Req) : (setChannel s i x).power = s.power := (rfl)
@[simp] theorem setChannel_boot (s : State) (i : Nat) (x : Arb Req) : (setChannel s i x).boot = s.boot := (rfl)
@[simp] theorem setChannel_security (s : State) (i : Nat) (x : Arb Req) : (setChannel s i x).security = s.security := (rfl)
@[simp] theorem setChannel_txn (s : State) (i : Nat) (x : Arb Req) : (setChannel s i x).txn = s.txn := (rfl)
@[simp] theorem setChannel_host (s : State) (i : Nat) (x : Arb Req) : (setChannel s i x).host = s.host := (rfl)
@[simp] theorem setChannel_kept (s : State) (i : Nat) (x : Arb Req) : (setChannel s i x).kept = s.kept := (rfl)
@[simp] theorem setChannel_deckEntry0 (s : State) (i : Nat) (x : Arb Req) : (setChannel s i x).deckEntry0 = s.deckEntry0 := (rfl)
@[simp] theorem setChannel_deckEntry1 (s : State) (i : Nat) (x : Arb Req) : (setChannel s i x).deckEntry1 = s.deckEntry1 := (rfl)
@[simp] theorem setChannel_devId (s : State) (i : Nat) (x : Arb Req) : (setChannel s i x).devId = s.devId := (rfl)

/-! ### setPot -/

@[simp] theorem setPot_pending (s : State) (i : Nat) (x : Arb PotFlit) : (setPot s i x).pending = s.pending := (rfl)
@[simp] theorem setPot_fresh (s : State) (i : Nat) (x : Arb PotFlit) : (setPot s i x).fresh = s.fresh := (rfl)
@[simp] theorem setPot_ticks (s : State) (i : Nat) (x : Arb PotFlit) : (setPot s i x).ticks = s.ticks := (rfl)
@[simp] theorem setPot_regs (s : State) (i : Nat) (x : Arb PotFlit) : (setPot s i x).regs = s.regs := (rfl)
@[simp] theorem setPot_ucode (s : State) (i : Nat) (x : Arb PotFlit) : (setPot s i x).ucode = s.ucode := (rfl)
@[simp] theorem setPot_ucodeBad (s : State) (i : Nat) (x : Arb PotFlit) : (setPot s i x).ucodeBad = s.ucodeBad := (rfl)
@[simp] theorem setPot_mem (s : State) (i : Nat) (x : Arb PotFlit) : (setPot s i x).mem = s.mem := (rfl)
@[simp] theorem setPot_memBad (s : State) (i : Nat) (x : Arb PotFlit) : (setPot s i x).memBad = s.memBad := (rfl)
@[simp] theorem setPot_l2 (s : State) (i : Nat) (x : Arb PotFlit) : (setPot s i x).l2 = s.l2 := (rfl)
@[simp] theorem setPot_lost (s : State) (i : Nat) (x : Arb PotFlit) : (setPot s i x).lost = s.lost := (rfl)
@[simp] theorem setPot_windows (s : State) (i : Nat) (x : Arb PotFlit) : (setPot s i x).windows = s.windows := (rfl)
@[simp] theorem setPot_banks (s : State) (i : Nat) (x : Arb PotFlit) : (setPot s i x).banks = s.banks := (rfl)
@[simp] theorem setPot_channels (s : State) (i : Nat) (x : Arb PotFlit) : (setPot s i x).channels = s.channels := (rfl)
@[simp] theorem setPot_arbCounts (s : State) (i : Nat) (x : Arb PotFlit) : (setPot s i x).arbCounts = s.arbCounts := (rfl)
@[simp] theorem setPot_bankErr (s : State) (i : Nat) (x : Arb PotFlit) : (setPot s i x).bankErr = s.bankErr := (rfl)
@[simp] theorem setPot_passSeeds (s : State) (i : Nat) (x : Arb PotFlit) : (setPot s i x).passSeeds = s.passSeeds := (rfl)
@[simp] theorem setPot_writes (s : State) (i : Nat) (x : Arb PotFlit) : (setPot s i x).writes = s.writes := (rfl)
@[simp] theorem setPot_nextWrite (s : State) (i : Nat) (x : Arb PotFlit) : (setPot s i x).nextWrite = s.nextWrite := (rfl)
@[simp] theorem setPot_threads (s : State) (i : Nat) (x : Arb PotFlit) : (setPot s i x).threads = s.threads := (rfl)
@[simp] theorem setPot_cores (s : State) (i : Nat) (x : Arb PotFlit) : (setPot s i x).cores = s.cores := (rfl)
@[simp] theorem setPot_present (s : State) (i : Nat) (x : Arb PotFlit) : (setPot s i x).present = s.present := (rfl)
@[simp] theorem setPot_tlbs (s : State) (i : Nat) (x : Arb PotFlit) : (setPot s i x).tlbs = s.tlbs := (rfl)
@[simp] theorem setPot_wayAge (s : State) (i : Nat) (x : Arb PotFlit) : (setPot s i x).wayAge = s.wayAge := (rfl)
@[simp] theorem setPot_wayZero (s : State) (i : Nat) (x : Arb PotFlit) : (setPot s i x).wayZero = s.wayZero := (rfl)
@[simp] theorem setPot_sync (s : State) (i : Nat) (x : Arb PotFlit) : (setPot s i x).sync = s.sync := (rfl)
@[simp] theorem setPot_nextSync (s : State) (i : Nat) (x : Arb PotFlit) : (setPot s i x).nextSync = s.nextSync := (rfl)
@[simp] theorem setPot_syncQ (s : State) (i : Nat) (x : Arb PotFlit) : (setPot s i x).syncQ = s.syncQ := (rfl)
@[simp] theorem setPot_releases (s : State) (i : Nat) (x : Arb PotFlit) : (setPot s i x).releases = s.releases := (rfl)
@[simp] theorem setPot_maskedTid (s : State) (i : Nat) (x : Arb PotFlit) : (setPot s i x).maskedTid = s.maskedTid := (rfl)
@[simp] theorem setPot_ports (s : State) (i : Nat) (x : Arb PotFlit) : (setPot s i x).ports = s.ports := (rfl)
@[simp] theorem setPot_queues (s : State) (i : Nat) (x : Arb PotFlit) : (setPot s i x).queues = s.queues := (rfl)
@[simp] theorem setPot_teTurn (s : State) (i : Nat) (x : Arb PotFlit) : (setPot s i x).teTurn = s.teTurn := (rfl)
@[simp] theorem setPot_nextTag (s : State) (i : Nat) (x : Arb PotFlit) : (setPot s i x).nextTag = s.nextTag := (rfl)
@[simp] theorem setPot_nextFlight (s : State) (i : Nat) (x : Arb PotFlit) : (setPot s i x).nextFlight = s.nextFlight := (rfl)
@[simp] theorem setPot_potSlots (s : State) (i : Nat) (x : Arb PotFlit) : (setPot s i x).potSlots = s.potSlots := (rfl)
@[simp] theorem setPot_potQuiet (s : State) (i : Nat) (x : Arb PotFlit) : (setPot s i x).potQuiet = s.potQuiet := (rfl)
@[simp] theorem setPot_deadArmed (s : State) (i : Nat) (x : Arb PotFlit) : (setPot s i x).deadArmed = s.deadArmed := (rfl)
@[simp] theorem setPot_ctx (s : State) (i : Nat) (x : Arb PotFlit) : (setPot s i x).ctx = s.ctx := (rfl)
@[simp] theorem setPot_dealer (s : State) (i : Nat) (x : Arb PotFlit) : (setPot s i x).dealer = s.dealer := (rfl)
@[simp] theorem setPot_commit (s : State) (i : Nat) (x : Arb PotFlit) : (setPot s i x).commit = s.commit := (rfl)
@[simp] theorem setPot_safety (s : State) (i : Nat) (x : Arb PotFlit) : (setPot s i x).safety = s.safety := (rfl)
@[simp] theorem setPot_selfTest (s : State) (i : Nat) (x : Arb PotFlit) : (setPot s i x).selfTest = s.selfTest := (rfl)
@[simp] theorem setPot_power (s : State) (i : Nat) (x : Arb PotFlit) : (setPot s i x).power = s.power := (rfl)
@[simp] theorem setPot_boot (s : State) (i : Nat) (x : Arb PotFlit) : (setPot s i x).boot = s.boot := (rfl)
@[simp] theorem setPot_security (s : State) (i : Nat) (x : Arb PotFlit) : (setPot s i x).security = s.security := (rfl)
@[simp] theorem setPot_txn (s : State) (i : Nat) (x : Arb PotFlit) : (setPot s i x).txn = s.txn := (rfl)
@[simp] theorem setPot_host (s : State) (i : Nat) (x : Arb PotFlit) : (setPot s i x).host = s.host := (rfl)
@[simp] theorem setPot_kept (s : State) (i : Nat) (x : Arb PotFlit) : (setPot s i x).kept = s.kept := (rfl)
@[simp] theorem setPot_deckEntry0 (s : State) (i : Nat) (x : Arb PotFlit) : (setPot s i x).deckEntry0 = s.deckEntry0 := (rfl)
@[simp] theorem setPot_deckEntry1 (s : State) (i : Nat) (x : Arb PotFlit) : (setPot s i x).deckEntry1 = s.deckEntry1 := (rfl)
@[simp] theorem setPot_devId (s : State) (i : Nat) (x : Arb PotFlit) : (setPot s i x).devId = s.devId := (rfl)

/-! ### setWindow -/

@[simp] theorem setWindow_pending (s : State) (i : Nat) (x : Window) : (setWindow s i x).pending = s.pending := (rfl)
@[simp] theorem setWindow_fresh (s : State) (i : Nat) (x : Window) : (setWindow s i x).fresh = s.fresh := (rfl)
@[simp] theorem setWindow_ticks (s : State) (i : Nat) (x : Window) : (setWindow s i x).ticks = s.ticks := (rfl)
@[simp] theorem setWindow_regs (s : State) (i : Nat) (x : Window) : (setWindow s i x).regs = s.regs := (rfl)
@[simp] theorem setWindow_ucode (s : State) (i : Nat) (x : Window) : (setWindow s i x).ucode = s.ucode := (rfl)
@[simp] theorem setWindow_ucodeBad (s : State) (i : Nat) (x : Window) : (setWindow s i x).ucodeBad = s.ucodeBad := (rfl)
@[simp] theorem setWindow_mem (s : State) (i : Nat) (x : Window) : (setWindow s i x).mem = s.mem := (rfl)
@[simp] theorem setWindow_memBad (s : State) (i : Nat) (x : Window) : (setWindow s i x).memBad = s.memBad := (rfl)
@[simp] theorem setWindow_l2 (s : State) (i : Nat) (x : Window) : (setWindow s i x).l2 = s.l2 := (rfl)
@[simp] theorem setWindow_lost (s : State) (i : Nat) (x : Window) : (setWindow s i x).lost = s.lost := (rfl)
@[simp] theorem setWindow_banks (s : State) (i : Nat) (x : Window) : (setWindow s i x).banks = s.banks := (rfl)
@[simp] theorem setWindow_channels (s : State) (i : Nat) (x : Window) : (setWindow s i x).channels = s.channels := (rfl)
@[simp] theorem setWindow_pots (s : State) (i : Nat) (x : Window) : (setWindow s i x).pots = s.pots := (rfl)
@[simp] theorem setWindow_arbCounts (s : State) (i : Nat) (x : Window) : (setWindow s i x).arbCounts = s.arbCounts := (rfl)
@[simp] theorem setWindow_bankErr (s : State) (i : Nat) (x : Window) : (setWindow s i x).bankErr = s.bankErr := (rfl)
@[simp] theorem setWindow_passSeeds (s : State) (i : Nat) (x : Window) : (setWindow s i x).passSeeds = s.passSeeds := (rfl)
@[simp] theorem setWindow_writes (s : State) (i : Nat) (x : Window) : (setWindow s i x).writes = s.writes := (rfl)
@[simp] theorem setWindow_nextWrite (s : State) (i : Nat) (x : Window) : (setWindow s i x).nextWrite = s.nextWrite := (rfl)
@[simp] theorem setWindow_threads (s : State) (i : Nat) (x : Window) : (setWindow s i x).threads = s.threads := (rfl)
@[simp] theorem setWindow_cores (s : State) (i : Nat) (x : Window) : (setWindow s i x).cores = s.cores := (rfl)
@[simp] theorem setWindow_present (s : State) (i : Nat) (x : Window) : (setWindow s i x).present = s.present := (rfl)
@[simp] theorem setWindow_tlbs (s : State) (i : Nat) (x : Window) : (setWindow s i x).tlbs = s.tlbs := (rfl)
@[simp] theorem setWindow_wayAge (s : State) (i : Nat) (x : Window) : (setWindow s i x).wayAge = s.wayAge := (rfl)
@[simp] theorem setWindow_wayZero (s : State) (i : Nat) (x : Window) : (setWindow s i x).wayZero = s.wayZero := (rfl)
@[simp] theorem setWindow_sync (s : State) (i : Nat) (x : Window) : (setWindow s i x).sync = s.sync := (rfl)
@[simp] theorem setWindow_nextSync (s : State) (i : Nat) (x : Window) : (setWindow s i x).nextSync = s.nextSync := (rfl)
@[simp] theorem setWindow_syncQ (s : State) (i : Nat) (x : Window) : (setWindow s i x).syncQ = s.syncQ := (rfl)
@[simp] theorem setWindow_releases (s : State) (i : Nat) (x : Window) : (setWindow s i x).releases = s.releases := (rfl)
@[simp] theorem setWindow_maskedTid (s : State) (i : Nat) (x : Window) : (setWindow s i x).maskedTid = s.maskedTid := (rfl)
@[simp] theorem setWindow_ports (s : State) (i : Nat) (x : Window) : (setWindow s i x).ports = s.ports := (rfl)
@[simp] theorem setWindow_queues (s : State) (i : Nat) (x : Window) : (setWindow s i x).queues = s.queues := (rfl)
@[simp] theorem setWindow_teTurn (s : State) (i : Nat) (x : Window) : (setWindow s i x).teTurn = s.teTurn := (rfl)
@[simp] theorem setWindow_nextTag (s : State) (i : Nat) (x : Window) : (setWindow s i x).nextTag = s.nextTag := (rfl)
@[simp] theorem setWindow_nextFlight (s : State) (i : Nat) (x : Window) : (setWindow s i x).nextFlight = s.nextFlight := (rfl)
@[simp] theorem setWindow_potSlots (s : State) (i : Nat) (x : Window) : (setWindow s i x).potSlots = s.potSlots := (rfl)
@[simp] theorem setWindow_potQuiet (s : State) (i : Nat) (x : Window) : (setWindow s i x).potQuiet = s.potQuiet := (rfl)
@[simp] theorem setWindow_deadArmed (s : State) (i : Nat) (x : Window) : (setWindow s i x).deadArmed = s.deadArmed := (rfl)
@[simp] theorem setWindow_ctx (s : State) (i : Nat) (x : Window) : (setWindow s i x).ctx = s.ctx := (rfl)
@[simp] theorem setWindow_dealer (s : State) (i : Nat) (x : Window) : (setWindow s i x).dealer = s.dealer := (rfl)
@[simp] theorem setWindow_commit (s : State) (i : Nat) (x : Window) : (setWindow s i x).commit = s.commit := (rfl)
@[simp] theorem setWindow_safety (s : State) (i : Nat) (x : Window) : (setWindow s i x).safety = s.safety := (rfl)
@[simp] theorem setWindow_selfTest (s : State) (i : Nat) (x : Window) : (setWindow s i x).selfTest = s.selfTest := (rfl)
@[simp] theorem setWindow_power (s : State) (i : Nat) (x : Window) : (setWindow s i x).power = s.power := (rfl)
@[simp] theorem setWindow_boot (s : State) (i : Nat) (x : Window) : (setWindow s i x).boot = s.boot := (rfl)
@[simp] theorem setWindow_security (s : State) (i : Nat) (x : Window) : (setWindow s i x).security = s.security := (rfl)
@[simp] theorem setWindow_txn (s : State) (i : Nat) (x : Window) : (setWindow s i x).txn = s.txn := (rfl)
@[simp] theorem setWindow_host (s : State) (i : Nat) (x : Window) : (setWindow s i x).host = s.host := (rfl)
@[simp] theorem setWindow_kept (s : State) (i : Nat) (x : Window) : (setWindow s i x).kept = s.kept := (rfl)
@[simp] theorem setWindow_deckEntry0 (s : State) (i : Nat) (x : Window) : (setWindow s i x).deckEntry0 = s.deckEntry0 := (rfl)
@[simp] theorem setWindow_deckEntry1 (s : State) (i : Nat) (x : Window) : (setWindow s i x).deckEntry1 = s.deckEntry1 := (rfl)
@[simp] theorem setWindow_devId (s : State) (i : Nat) (x : Window) : (setWindow s i x).devId = s.devId := (rfl)

/-! ### report -/

@[simp] theorem report_pending (s : State) (c u : Nat) (l w : Word) : (report s c u l w).pending = s.pending := (rfl)
@[simp] theorem report_fresh (s : State) (c u : Nat) (l w : Word) : (report s c u l w).fresh = s.fresh := (rfl)
@[simp] theorem report_ticks (s : State) (c u : Nat) (l w : Word) : (report s c u l w).ticks = s.ticks := (rfl)
@[simp] theorem report_regs (s : State) (c u : Nat) (l w : Word) : (report s c u l w).regs = s.regs := (rfl)
@[simp] theorem report_ucode (s : State) (c u : Nat) (l w : Word) : (report s c u l w).ucode = s.ucode := (rfl)
@[simp] theorem report_ucodeBad (s : State) (c u : Nat) (l w : Word) : (report s c u l w).ucodeBad = s.ucodeBad := (rfl)
@[simp] theorem report_mem (s : State) (c u : Nat) (l w : Word) : (report s c u l w).mem = s.mem := (rfl)
@[simp] theorem report_memBad (s : State) (c u : Nat) (l w : Word) : (report s c u l w).memBad = s.memBad := (rfl)
@[simp] theorem report_l2 (s : State) (c u : Nat) (l w : Word) : (report s c u l w).l2 = s.l2 := (rfl)
@[simp] theorem report_lost (s : State) (c u : Nat) (l w : Word) : (report s c u l w).lost = s.lost := (rfl)
@[simp] theorem report_windows (s : State) (c u : Nat) (l w : Word) : (report s c u l w).windows = s.windows := (rfl)
@[simp] theorem report_banks (s : State) (c u : Nat) (l w : Word) : (report s c u l w).banks = s.banks := (rfl)
@[simp] theorem report_channels (s : State) (c u : Nat) (l w : Word) : (report s c u l w).channels = s.channels := (rfl)
@[simp] theorem report_pots (s : State) (c u : Nat) (l w : Word) : (report s c u l w).pots = s.pots := (rfl)
@[simp] theorem report_arbCounts (s : State) (c u : Nat) (l w : Word) : (report s c u l w).arbCounts = s.arbCounts := (rfl)
@[simp] theorem report_bankErr (s : State) (c u : Nat) (l w : Word) : (report s c u l w).bankErr = s.bankErr := (rfl)
@[simp] theorem report_passSeeds (s : State) (c u : Nat) (l w : Word) : (report s c u l w).passSeeds = s.passSeeds := (rfl)
@[simp] theorem report_writes (s : State) (c u : Nat) (l w : Word) : (report s c u l w).writes = s.writes := (rfl)
@[simp] theorem report_nextWrite (s : State) (c u : Nat) (l w : Word) : (report s c u l w).nextWrite = s.nextWrite := (rfl)
@[simp] theorem report_threads (s : State) (c u : Nat) (l w : Word) : (report s c u l w).threads = s.threads := (rfl)
@[simp] theorem report_cores (s : State) (c u : Nat) (l w : Word) : (report s c u l w).cores = s.cores := (rfl)
@[simp] theorem report_present (s : State) (c u : Nat) (l w : Word) : (report s c u l w).present = s.present := (rfl)
@[simp] theorem report_tlbs (s : State) (c u : Nat) (l w : Word) : (report s c u l w).tlbs = s.tlbs := (rfl)
@[simp] theorem report_wayAge (s : State) (c u : Nat) (l w : Word) : (report s c u l w).wayAge = s.wayAge := (rfl)
@[simp] theorem report_wayZero (s : State) (c u : Nat) (l w : Word) : (report s c u l w).wayZero = s.wayZero := (rfl)
@[simp] theorem report_sync (s : State) (c u : Nat) (l w : Word) : (report s c u l w).sync = s.sync := (rfl)
@[simp] theorem report_nextSync (s : State) (c u : Nat) (l w : Word) : (report s c u l w).nextSync = s.nextSync := (rfl)
@[simp] theorem report_syncQ (s : State) (c u : Nat) (l w : Word) : (report s c u l w).syncQ = s.syncQ := (rfl)
@[simp] theorem report_releases (s : State) (c u : Nat) (l w : Word) : (report s c u l w).releases = s.releases := (rfl)
@[simp] theorem report_maskedTid (s : State) (c u : Nat) (l w : Word) : (report s c u l w).maskedTid = s.maskedTid := (rfl)
@[simp] theorem report_ports (s : State) (c u : Nat) (l w : Word) : (report s c u l w).ports = s.ports := (rfl)
@[simp] theorem report_queues (s : State) (c u : Nat) (l w : Word) : (report s c u l w).queues = s.queues := (rfl)
@[simp] theorem report_teTurn (s : State) (c u : Nat) (l w : Word) : (report s c u l w).teTurn = s.teTurn := (rfl)
@[simp] theorem report_nextTag (s : State) (c u : Nat) (l w : Word) : (report s c u l w).nextTag = s.nextTag := (rfl)
@[simp] theorem report_nextFlight (s : State) (c u : Nat) (l w : Word) : (report s c u l w).nextFlight = s.nextFlight := (rfl)
@[simp] theorem report_potSlots (s : State) (c u : Nat) (l w : Word) : (report s c u l w).potSlots = s.potSlots := (rfl)
@[simp] theorem report_potQuiet (s : State) (c u : Nat) (l w : Word) : (report s c u l w).potQuiet = s.potQuiet := (rfl)
@[simp] theorem report_deadArmed (s : State) (c u : Nat) (l w : Word) : (report s c u l w).deadArmed = s.deadArmed := (rfl)
@[simp] theorem report_ctx (s : State) (c u : Nat) (l w : Word) : (report s c u l w).ctx = s.ctx := (rfl)
@[simp] theorem report_dealer (s : State) (c u : Nat) (l w : Word) : (report s c u l w).dealer = s.dealer := (rfl)
@[simp] theorem report_commit (s : State) (c u : Nat) (l w : Word) : (report s c u l w).commit = s.commit := (rfl)
@[simp] theorem report_selfTest (s : State) (c u : Nat) (l w : Word) : (report s c u l w).selfTest = s.selfTest := (rfl)
@[simp] theorem report_power (s : State) (c u : Nat) (l w : Word) : (report s c u l w).power = s.power := (rfl)
@[simp] theorem report_boot (s : State) (c u : Nat) (l w : Word) : (report s c u l w).boot = s.boot := (rfl)
@[simp] theorem report_security (s : State) (c u : Nat) (l w : Word) : (report s c u l w).security = s.security := (rfl)
@[simp] theorem report_txn (s : State) (c u : Nat) (l w : Word) : (report s c u l w).txn = s.txn := (rfl)
@[simp] theorem report_host (s : State) (c u : Nat) (l w : Word) : (report s c u l w).host = s.host := (rfl)
@[simp] theorem report_kept (s : State) (c u : Nat) (l w : Word) : (report s c u l w).kept = s.kept := (rfl)
@[simp] theorem report_deckEntry0 (s : State) (c u : Nat) (l w : Word) : (report s c u l w).deckEntry0 = s.deckEntry0 := (rfl)
@[simp] theorem report_deckEntry1 (s : State) (c u : Nat) (l w : Word) : (report s c u l w).deckEntry1 = s.deckEntry1 := (rfl)
@[simp] theorem report_devId (s : State) (c u : Nat) (l w : Word) : (report s c u l w).devId = s.devId := (rfl)

/-! ### What is read back -/

@[simp] theorem getThread_setThread_same (s : State) (i : Nat) (x : Thread) : getThread (setThread s i x) i = x :=
  tabGet_tabSet_same ..
@[simp] theorem getThread_setThread_other (s : State) {i j : Nat} (x : Thread) (h : j ≠ i) :
    getThread (setThread s i x) j = getThread s j := tabGet_tabSet_other _ _ _ h
@[simp] theorem getCore_setCore_same (s : State) (i : Nat) (x : Core) : getCore (setCore s i x) i = x :=
  tabGet_tabSet_same ..
@[simp] theorem getCore_setCore_other (s : State) {i j : Nat} (x : Core) (h : j ≠ i) :
    getCore (setCore s i x) j = getCore s j := tabGet_tabSet_other _ _ _ h
@[simp] theorem getPort_setPort_same (s : State) (i : Nat) (x : Port) : getPort (setPort s i x) i = x :=
  tabGet_tabSet_same ..
@[simp] theorem getPort_setPort_other (s : State) {i j : Nat} (x : Port) (h : j ≠ i) :
    getPort (setPort s i x) j = getPort s j := tabGet_tabSet_other _ _ _ h
@[simp] theorem getQueue_setQueue_same (s : State) (i : Nat) (x : TeQueue) : getQueue (setQueue s i x) i = x :=
  tabGet_tabSet_same ..
@[simp] theorem getQueue_setQueue_other (s : State) {i j : Nat} (x : TeQueue) (h : j ≠ i) :
    getQueue (setQueue s i x) j = getQueue s j := tabGet_tabSet_other _ _ _ h
@[simp] theorem getSlot_setSlot_same (s : State) (i : Nat) (x : PotSlot) : getSlot (setSlot s i x) i = x :=
  tabGet_tabSet_same ..
@[simp] theorem getSlot_setSlot_other (s : State) {i j : Nat} (x : PotSlot) (h : j ≠ i) :
    getSlot (setSlot s i x) j = getSlot s j := tabGet_tabSet_other _ _ _ h
@[simp] theorem getObj_setObj_same (s : State) (i : Nat) (x : SyncObj) : getObj (setObj s i x) i = x :=
  tabGet_tabSet_same ..
@[simp] theorem getObj_setObj_other (s : State) {i j : Nat} (x : SyncObj) (h : j ≠ i) :
    getObj (setObj s i x) j = getObj s j := tabGet_tabSet_other _ _ _ h
@[simp] theorem getBank_setBank_same (s : State) (i : Nat) (x : Arb Req) : getBank (setBank s i x) i = x :=
  tabGet_tabSet_same ..
@[simp] theorem getBank_setBank_other (s : State) {i j : Nat} (x : Arb Req) (h : j ≠ i) :
    getBank (setBank s i x) j = getBank s j := tabGet_tabSet_other _ _ _ h
@[simp] theorem getChannel_setChannel_same (s : State) (i : Nat) (x : Arb Req) : getChannel (setChannel s i x) i = x :=
  tabGet_tabSet_same ..
@[simp] theorem getChannel_setChannel_other (s : State) {i j : Nat} (x : Arb Req) (h : j ≠ i) :
    getChannel (setChannel s i x) j = getChannel s j := tabGet_tabSet_other _ _ _ h
@[simp] theorem getPot_setPot_same (s : State) (i : Nat) (x : Arb PotFlit) : getPot (setPot s i x) i = x :=
  tabGet_tabSet_same ..
@[simp] theorem getPot_setPot_other (s : State) {i j : Nat} (x : Arb PotFlit) (h : j ≠ i) :
    getPot (setPot s i x) j = getPot s j := tabGet_tabSet_other _ _ _ h
@[simp] theorem getWindow_setWindow_same (s : State) (i : Nat) (x : Window) : getWindow (setWindow s i x) i = x :=
  tabGet_tabSet_same ..
@[simp] theorem getWindow_setWindow_other (s : State) {i j : Nat} (x : Window) (h : j ≠ i) :
    getWindow (setWindow s i x) j = getWindow s j := tabGet_tabSet_other _ _ _ h
@[simp] theorem rget_rset_same (s : State) (o : Nat) (w : Word) : rget (rset s o w) o = w :=
  tabGet_tabSet_same ..
@[simp] theorem rget_rset_other (s : State) {o p : Nat} (w : Word) (h : p ≠ o) :
    rget (rset s o w) p = rget s p := tabGet_tabSet_other _ _ _ h

/-! ### Reads that a write of another part leaves alone -/

@[simp] theorem getCore_setThread (s : State) (i : Nat) (x : Thread) (j : Nat) : getCore (setThread s i x) j = getCore s j := (rfl)
@[simp] theorem rget_setThread (s : State) (i : Nat) (x : Thread) (j : Nat) : rget (setThread s i x) j = rget s j := (rfl)
@[simp] theorem getPort_setThread (s : State) (i : Nat) (x : Thread) (j : Nat) : getPort (setThread s i x) j = getPort s j := (rfl)
@[simp] theorem getQueue_setThread (s : State) (i : Nat) (x : Thread) (j : Nat) : getQueue (setThread s i x) j = getQueue s j := (rfl)
@[simp] theorem getSlot_setThread (s : State) (i : Nat) (x : Thread) (j : Nat) : getSlot (setThread s i x) j = getSlot s j := (rfl)
@[simp] theorem getObj_setThread (s : State) (i : Nat) (x : Thread) (j : Nat) : getObj (setThread s i x) j = getObj s j := (rfl)
@[simp] theorem getBank_setThread (s : State) (i : Nat) (x : Thread) (j : Nat) : getBank (setThread s i x) j = getBank s j := (rfl)
@[simp] theorem getChannel_setThread (s : State) (i : Nat) (x : Thread) (j : Nat) : getChannel (setThread s i x) j = getChannel s j := (rfl)
@[simp] theorem getPot_setThread (s : State) (i : Nat) (x : Thread) (j : Nat) : getPot (setThread s i x) j = getPot s j := (rfl)
@[simp] theorem getWindow_setThread (s : State) (i : Nat) (x : Thread) (j : Nat) : getWindow (setThread s i x) j = getWindow s j := (rfl)
@[simp] theorem getThread_setCore (s : State) (i : Nat) (x : Core) (j : Nat) : getThread (setCore s i x) j = getThread s j := (rfl)
@[simp] theorem rget_setCore (s : State) (i : Nat) (x : Core) (j : Nat) : rget (setCore s i x) j = rget s j := (rfl)
@[simp] theorem getPort_setCore (s : State) (i : Nat) (x : Core) (j : Nat) : getPort (setCore s i x) j = getPort s j := (rfl)
@[simp] theorem getQueue_setCore (s : State) (i : Nat) (x : Core) (j : Nat) : getQueue (setCore s i x) j = getQueue s j := (rfl)
@[simp] theorem getSlot_setCore (s : State) (i : Nat) (x : Core) (j : Nat) : getSlot (setCore s i x) j = getSlot s j := (rfl)
@[simp] theorem getObj_setCore (s : State) (i : Nat) (x : Core) (j : Nat) : getObj (setCore s i x) j = getObj s j := (rfl)
@[simp] theorem getBank_setCore (s : State) (i : Nat) (x : Core) (j : Nat) : getBank (setCore s i x) j = getBank s j := (rfl)
@[simp] theorem getChannel_setCore (s : State) (i : Nat) (x : Core) (j : Nat) : getChannel (setCore s i x) j = getChannel s j := (rfl)
@[simp] theorem getPot_setCore (s : State) (i : Nat) (x : Core) (j : Nat) : getPot (setCore s i x) j = getPot s j := (rfl)
@[simp] theorem getWindow_setCore (s : State) (i : Nat) (x : Core) (j : Nat) : getWindow (setCore s i x) j = getWindow s j := (rfl)
@[simp] theorem getThread_rset (s : State) (o : Nat) (w : Word) (j : Nat) : getThread (rset s o w) j = getThread s j := (rfl)
@[simp] theorem getCore_rset (s : State) (o : Nat) (w : Word) (j : Nat) : getCore (rset s o w) j = getCore s j := (rfl)
@[simp] theorem getPort_rset (s : State) (o : Nat) (w : Word) (j : Nat) : getPort (rset s o w) j = getPort s j := (rfl)
@[simp] theorem getQueue_rset (s : State) (o : Nat) (w : Word) (j : Nat) : getQueue (rset s o w) j = getQueue s j := (rfl)
@[simp] theorem getSlot_rset (s : State) (o : Nat) (w : Word) (j : Nat) : getSlot (rset s o w) j = getSlot s j := (rfl)
@[simp] theorem getObj_rset (s : State) (o : Nat) (w : Word) (j : Nat) : getObj (rset s o w) j = getObj s j := (rfl)
@[simp] theorem getBank_rset (s : State) (o : Nat) (w : Word) (j : Nat) : getBank (rset s o w) j = getBank s j := (rfl)
@[simp] theorem getChannel_rset (s : State) (o : Nat) (w : Word) (j : Nat) : getChannel (rset s o w) j = getChannel s j := (rfl)
@[simp] theorem getPot_rset (s : State) (o : Nat) (w : Word) (j : Nat) : getPot (rset s o w) j = getPot s j := (rfl)
@[simp] theorem getWindow_rset (s : State) (o : Nat) (w : Word) (j : Nat) : getWindow (rset s o w) j = getWindow s j := (rfl)
@[simp] theorem getThread_setPort (s : State) (i : Nat) (x : Port) (j : Nat) : getThread (setPort s i x) j = getThread s j := (rfl)
@[simp] theorem getCore_setPort (s : State) (i : Nat) (x : Port) (j : Nat) : getCore (setPort s i x) j = getCore s j := (rfl)
@[simp] theorem rget_setPort (s : State) (i : Nat) (x : Port) (j : Nat) : rget (setPort s i x) j = rget s j := (rfl)
@[simp] theorem getQueue_setPort (s : State) (i : Nat) (x : Port) (j : Nat) : getQueue (setPort s i x) j = getQueue s j := (rfl)
@[simp] theorem getSlot_setPort (s : State) (i : Nat) (x : Port) (j : Nat) : getSlot (setPort s i x) j = getSlot s j := (rfl)
@[simp] theorem getObj_setPort (s : State) (i : Nat) (x : Port) (j : Nat) : getObj (setPort s i x) j = getObj s j := (rfl)
@[simp] theorem getBank_setPort (s : State) (i : Nat) (x : Port) (j : Nat) : getBank (setPort s i x) j = getBank s j := (rfl)
@[simp] theorem getChannel_setPort (s : State) (i : Nat) (x : Port) (j : Nat) : getChannel (setPort s i x) j = getChannel s j := (rfl)
@[simp] theorem getPot_setPort (s : State) (i : Nat) (x : Port) (j : Nat) : getPot (setPort s i x) j = getPot s j := (rfl)
@[simp] theorem getWindow_setPort (s : State) (i : Nat) (x : Port) (j : Nat) : getWindow (setPort s i x) j = getWindow s j := (rfl)
@[simp] theorem getThread_setQueue (s : State) (i : Nat) (x : TeQueue) (j : Nat) : getThread (setQueue s i x) j = getThread s j := (rfl)
@[simp] theorem getCore_setQueue (s : State) (i : Nat) (x : TeQueue) (j : Nat) : getCore (setQueue s i x) j = getCore s j := (rfl)
@[simp] theorem rget_setQueue (s : State) (i : Nat) (x : TeQueue) (j : Nat) : rget (setQueue s i x) j = rget s j := (rfl)
@[simp] theorem getPort_setQueue (s : State) (i : Nat) (x : TeQueue) (j : Nat) : getPort (setQueue s i x) j = getPort s j := (rfl)
@[simp] theorem getSlot_setQueue (s : State) (i : Nat) (x : TeQueue) (j : Nat) : getSlot (setQueue s i x) j = getSlot s j := (rfl)
@[simp] theorem getObj_setQueue (s : State) (i : Nat) (x : TeQueue) (j : Nat) : getObj (setQueue s i x) j = getObj s j := (rfl)
@[simp] theorem getBank_setQueue (s : State) (i : Nat) (x : TeQueue) (j : Nat) : getBank (setQueue s i x) j = getBank s j := (rfl)
@[simp] theorem getChannel_setQueue (s : State) (i : Nat) (x : TeQueue) (j : Nat) : getChannel (setQueue s i x) j = getChannel s j := (rfl)
@[simp] theorem getPot_setQueue (s : State) (i : Nat) (x : TeQueue) (j : Nat) : getPot (setQueue s i x) j = getPot s j := (rfl)
@[simp] theorem getWindow_setQueue (s : State) (i : Nat) (x : TeQueue) (j : Nat) : getWindow (setQueue s i x) j = getWindow s j := (rfl)
@[simp] theorem getThread_setSlot (s : State) (i : Nat) (x : PotSlot) (j : Nat) : getThread (setSlot s i x) j = getThread s j := (rfl)
@[simp] theorem getCore_setSlot (s : State) (i : Nat) (x : PotSlot) (j : Nat) : getCore (setSlot s i x) j = getCore s j := (rfl)
@[simp] theorem rget_setSlot (s : State) (i : Nat) (x : PotSlot) (j : Nat) : rget (setSlot s i x) j = rget s j := (rfl)
@[simp] theorem getPort_setSlot (s : State) (i : Nat) (x : PotSlot) (j : Nat) : getPort (setSlot s i x) j = getPort s j := (rfl)
@[simp] theorem getQueue_setSlot (s : State) (i : Nat) (x : PotSlot) (j : Nat) : getQueue (setSlot s i x) j = getQueue s j := (rfl)
@[simp] theorem getObj_setSlot (s : State) (i : Nat) (x : PotSlot) (j : Nat) : getObj (setSlot s i x) j = getObj s j := (rfl)
@[simp] theorem getBank_setSlot (s : State) (i : Nat) (x : PotSlot) (j : Nat) : getBank (setSlot s i x) j = getBank s j := (rfl)
@[simp] theorem getChannel_setSlot (s : State) (i : Nat) (x : PotSlot) (j : Nat) : getChannel (setSlot s i x) j = getChannel s j := (rfl)
@[simp] theorem getPot_setSlot (s : State) (i : Nat) (x : PotSlot) (j : Nat) : getPot (setSlot s i x) j = getPot s j := (rfl)
@[simp] theorem getWindow_setSlot (s : State) (i : Nat) (x : PotSlot) (j : Nat) : getWindow (setSlot s i x) j = getWindow s j := (rfl)
@[simp] theorem getThread_setObj (s : State) (i : Nat) (x : SyncObj) (j : Nat) : getThread (setObj s i x) j = getThread s j := (rfl)
@[simp] theorem getCore_setObj (s : State) (i : Nat) (x : SyncObj) (j : Nat) : getCore (setObj s i x) j = getCore s j := (rfl)
@[simp] theorem rget_setObj (s : State) (i : Nat) (x : SyncObj) (j : Nat) : rget (setObj s i x) j = rget s j := (rfl)
@[simp] theorem getPort_setObj (s : State) (i : Nat) (x : SyncObj) (j : Nat) : getPort (setObj s i x) j = getPort s j := (rfl)
@[simp] theorem getQueue_setObj (s : State) (i : Nat) (x : SyncObj) (j : Nat) : getQueue (setObj s i x) j = getQueue s j := (rfl)
@[simp] theorem getSlot_setObj (s : State) (i : Nat) (x : SyncObj) (j : Nat) : getSlot (setObj s i x) j = getSlot s j := (rfl)
@[simp] theorem getBank_setObj (s : State) (i : Nat) (x : SyncObj) (j : Nat) : getBank (setObj s i x) j = getBank s j := (rfl)
@[simp] theorem getChannel_setObj (s : State) (i : Nat) (x : SyncObj) (j : Nat) : getChannel (setObj s i x) j = getChannel s j := (rfl)
@[simp] theorem getPot_setObj (s : State) (i : Nat) (x : SyncObj) (j : Nat) : getPot (setObj s i x) j = getPot s j := (rfl)
@[simp] theorem getWindow_setObj (s : State) (i : Nat) (x : SyncObj) (j : Nat) : getWindow (setObj s i x) j = getWindow s j := (rfl)
@[simp] theorem getThread_setBank (s : State) (i : Nat) (x : Arb Req) (j : Nat) : getThread (setBank s i x) j = getThread s j := (rfl)
@[simp] theorem getCore_setBank (s : State) (i : Nat) (x : Arb Req) (j : Nat) : getCore (setBank s i x) j = getCore s j := (rfl)
@[simp] theorem rget_setBank (s : State) (i : Nat) (x : Arb Req) (j : Nat) : rget (setBank s i x) j = rget s j := (rfl)
@[simp] theorem getPort_setBank (s : State) (i : Nat) (x : Arb Req) (j : Nat) : getPort (setBank s i x) j = getPort s j := (rfl)
@[simp] theorem getQueue_setBank (s : State) (i : Nat) (x : Arb Req) (j : Nat) : getQueue (setBank s i x) j = getQueue s j := (rfl)
@[simp] theorem getSlot_setBank (s : State) (i : Nat) (x : Arb Req) (j : Nat) : getSlot (setBank s i x) j = getSlot s j := (rfl)
@[simp] theorem getObj_setBank (s : State) (i : Nat) (x : Arb Req) (j : Nat) : getObj (setBank s i x) j = getObj s j := (rfl)
@[simp] theorem getChannel_setBank (s : State) (i : Nat) (x : Arb Req) (j : Nat) : getChannel (setBank s i x) j = getChannel s j := (rfl)
@[simp] theorem getPot_setBank (s : State) (i : Nat) (x : Arb Req) (j : Nat) : getPot (setBank s i x) j = getPot s j := (rfl)
@[simp] theorem getWindow_setBank (s : State) (i : Nat) (x : Arb Req) (j : Nat) : getWindow (setBank s i x) j = getWindow s j := (rfl)
@[simp] theorem getThread_setChannel (s : State) (i : Nat) (x : Arb Req) (j : Nat) : getThread (setChannel s i x) j = getThread s j := (rfl)
@[simp] theorem getCore_setChannel (s : State) (i : Nat) (x : Arb Req) (j : Nat) : getCore (setChannel s i x) j = getCore s j := (rfl)
@[simp] theorem rget_setChannel (s : State) (i : Nat) (x : Arb Req) (j : Nat) : rget (setChannel s i x) j = rget s j := (rfl)
@[simp] theorem getPort_setChannel (s : State) (i : Nat) (x : Arb Req) (j : Nat) : getPort (setChannel s i x) j = getPort s j := (rfl)
@[simp] theorem getQueue_setChannel (s : State) (i : Nat) (x : Arb Req) (j : Nat) : getQueue (setChannel s i x) j = getQueue s j := (rfl)
@[simp] theorem getSlot_setChannel (s : State) (i : Nat) (x : Arb Req) (j : Nat) : getSlot (setChannel s i x) j = getSlot s j := (rfl)
@[simp] theorem getObj_setChannel (s : State) (i : Nat) (x : Arb Req) (j : Nat) : getObj (setChannel s i x) j = getObj s j := (rfl)
@[simp] theorem getBank_setChannel (s : State) (i : Nat) (x : Arb Req) (j : Nat) : getBank (setChannel s i x) j = getBank s j := (rfl)
@[simp] theorem getPot_setChannel (s : State) (i : Nat) (x : Arb Req) (j : Nat) : getPot (setChannel s i x) j = getPot s j := (rfl)
@[simp] theorem getWindow_setChannel (s : State) (i : Nat) (x : Arb Req) (j : Nat) : getWindow (setChannel s i x) j = getWindow s j := (rfl)
@[simp] theorem getThread_setPot (s : State) (i : Nat) (x : Arb PotFlit) (j : Nat) : getThread (setPot s i x) j = getThread s j := (rfl)
@[simp] theorem getCore_setPot (s : State) (i : Nat) (x : Arb PotFlit) (j : Nat) : getCore (setPot s i x) j = getCore s j := (rfl)
@[simp] theorem rget_setPot (s : State) (i : Nat) (x : Arb PotFlit) (j : Nat) : rget (setPot s i x) j = rget s j := (rfl)
@[simp] theorem getPort_setPot (s : State) (i : Nat) (x : Arb PotFlit) (j : Nat) : getPort (setPot s i x) j = getPort s j := (rfl)
@[simp] theorem getQueue_setPot (s : State) (i : Nat) (x : Arb PotFlit) (j : Nat) : getQueue (setPot s i x) j = getQueue s j := (rfl)
@[simp] theorem getSlot_setPot (s : State) (i : Nat) (x : Arb PotFlit) (j : Nat) : getSlot (setPot s i x) j = getSlot s j := (rfl)
@[simp] theorem getObj_setPot (s : State) (i : Nat) (x : Arb PotFlit) (j : Nat) : getObj (setPot s i x) j = getObj s j := (rfl)
@[simp] theorem getBank_setPot (s : State) (i : Nat) (x : Arb PotFlit) (j : Nat) : getBank (setPot s i x) j = getBank s j := (rfl)
@[simp] theorem getChannel_setPot (s : State) (i : Nat) (x : Arb PotFlit) (j : Nat) : getChannel (setPot s i x) j = getChannel s j := (rfl)
@[simp] theorem getWindow_setPot (s : State) (i : Nat) (x : Arb PotFlit) (j : Nat) : getWindow (setPot s i x) j = getWindow s j := (rfl)
@[simp] theorem getThread_setWindow (s : State) (i : Nat) (x : Window) (j : Nat) : getThread (setWindow s i x) j = getThread s j := (rfl)
@[simp] theorem getCore_setWindow (s : State) (i : Nat) (x : Window) (j : Nat) : getCore (setWindow s i x) j = getCore s j := (rfl)
@[simp] theorem rget_setWindow (s : State) (i : Nat) (x : Window) (j : Nat) : rget (setWindow s i x) j = rget s j := (rfl)
@[simp] theorem getPort_setWindow (s : State) (i : Nat) (x : Window) (j : Nat) : getPort (setWindow s i x) j = getPort s j := (rfl)
@[simp] theorem getQueue_setWindow (s : State) (i : Nat) (x : Window) (j : Nat) : getQueue (setWindow s i x) j = getQueue s j := (rfl)
@[simp] theorem getSlot_setWindow (s : State) (i : Nat) (x : Window) (j : Nat) : getSlot (setWindow s i x) j = getSlot s j := (rfl)
@[simp] theorem getObj_setWindow (s : State) (i : Nat) (x : Window) (j : Nat) : getObj (setWindow s i x) j = getObj s j := (rfl)
@[simp] theorem getBank_setWindow (s : State) (i : Nat) (x : Window) (j : Nat) : getBank (setWindow s i x) j = getBank s j := (rfl)
@[simp] theorem getChannel_setWindow (s : State) (i : Nat) (x : Window) (j : Nat) : getChannel (setWindow s i x) j = getChannel s j := (rfl)
@[simp] theorem getPot_setWindow (s : State) (i : Nat) (x : Window) (j : Nat) : getPot (setWindow s i x) j = getPot s j := (rfl)
@[simp] theorem getThread_report (s : State) (c u : Nat) (l w : Word) (j : Nat) : getThread (report s c u l w) j = getThread s j := (rfl)
@[simp] theorem getCore_report (s : State) (c u : Nat) (l w : Word) (j : Nat) : getCore (report s c u l w) j = getCore s j := (rfl)
@[simp] theorem rget_report (s : State) (c u : Nat) (l w : Word) (j : Nat) : rget (report s c u l w) j = rget s j := (rfl)
@[simp] theorem getPort_report (s : State) (c u : Nat) (l w : Word) (j : Nat) : getPort (report s c u l w) j = getPort s j := (rfl)
@[simp] theorem getQueue_report (s : State) (c u : Nat) (l w : Word) (j : Nat) : getQueue (report s c u l w) j = getQueue s j := (rfl)
@[simp] theorem getSlot_report (s : State) (c u : Nat) (l w : Word) (j : Nat) : getSlot (report s c u l w) j = getSlot s j := (rfl)
@[simp] theorem getObj_report (s : State) (c u : Nat) (l w : Word) (j : Nat) : getObj (report s c u l w) j = getObj s j := (rfl)
@[simp] theorem getBank_report (s : State) (c u : Nat) (l w : Word) (j : Nat) : getBank (report s c u l w) j = getBank s j := (rfl)
@[simp] theorem getChannel_report (s : State) (c u : Nat) (l w : Word) (j : Nat) : getChannel (report s c u l w) j = getChannel s j := (rfl)
@[simp] theorem getPot_report (s : State) (c u : Nat) (l w : Word) (j : Nat) : getPot (report s c u l w) j = getPot s j := (rfl)
@[simp] theorem getWindow_report (s : State) (c u : Nat) (l w : Word) (j : Nat) : getWindow (report s c u l w) j = getWindow s j := (rfl)

/-! ### Registers of a thread -/

@[simp] theorem getG_setG_same (t : Thread) {r : BitVec 5} (w : Word) (h : r ≠ 0) :
    getG (setG t r w) r = w := by
  unfold getG setG
  rw [if_neg h, if_neg h]
  exact tabGet_tabSet_same ..
@[simp] theorem getG_setG_other (t : Thread) {r q : BitVec 5} (w : Word) (h : q ≠ r) :
    getG (setG t r w) q = getG t q := by
  unfold getG setG
  by_cases hr : r = 0
  · rw [if_pos hr]
  · rw [if_neg hr]
    split
    · rfl
    · exact tabGet_tabSet_other _ _ _ (fun e => h (BitVec.eq_of_toNat_eq e))
/-- g0 reads as 0 (R56). -/
@[simp] theorem getG_zero (t : Thread) : getG t 0#5 = 0 := rfl
/-- A write to g0 is discarded (R56). -/
@[simp] theorem setG_zero (t : Thread) (w : Word) : setG t 0#5 w = t := rfl

end Sys2Proof.Machine
end

