-- ==== Sys2Proof/Laws/Fetch.lean ====
section
/-! SUPPORT. What an access to memory by one of the device's own agents leaves alone, said once:
every thread but for the lines delivered to it, every register, and every part of the device outside the
memory system. The fetch of an instruction is such an access. -/

namespace Sys2Proof.Machine

open Sys2Proof

/-- A thread but for the lines delivered to it, which an eviction can take away (R290). -/
def Thread.bare (t : Thread) : Thread := { t with got := [] }

/-- A state without its threads and its memory system: caches, translations, DRAM, arbiters with their
counts, windows, writes on their way, lost sets, errors that are due, reports, draws, and the context
manager's record of failed copies. -/
def memErase (s : State) : State :=
  { s with threads := [], cores := [], l2 := [], mem := [], memBad := [], safety := .idle,
           windows := [], writes := [], nextWrite := 0, banks := [], channels := [], ctx := .empty,
           tlbs := [], arbCounts := [], fresh := 0, lost := [], bankErr := [] }

/-- Two states agree outside the memory system. -/
def MemOnly (s t : State) : Prop :=
  (∀ i, (getThread t i).bare = (getThread s i).bare) ∧ memErase t = memErase s

theorem MemOnly.refl (s : State) : MemOnly s s := ⟨fun _ => rfl, rfl⟩

theorem MemOnly.trans {s t u : State} (h : MemOnly s t) (k : MemOnly t u) : MemOnly s u :=
  ⟨fun i => (k.1 i).trans (h.1 i), k.2.trans h.2⟩

/-- A change of the memory system that leaves the list of threads alone. -/
theorem MemOnly.of {s t : State} (h : t.threads = s.threads) (k : memErase t = memErase s) :
    MemOnly s t := ⟨fun i => by unfold getThread; rw [h], k⟩

theorem MemOnly.bare {s t : State} (h : MemOnly s t) (i : Nat) :
    (getThread t i).bare = (getThread s i).bare := h.1 i
theorem MemOnly.regs {s t : State} (h : MemOnly s t) : t.regs = s.regs := by
  have := congrArg State.regs h.2; exact this
theorem MemOnly.kept {s t : State} (h : MemOnly s t) : t.kept = s.kept := by
  have := congrArg State.kept h.2; exact this
theorem MemOnly.pending {s t : State} (h : MemOnly s t) : t.pending = s.pending := by
  have := congrArg State.pending h.2; exact this
theorem MemOnly.present {s t : State} (h : MemOnly s t) : t.present = s.present := by
  have := congrArg State.present h.2; exact this

theorem MemOnly.foldl {β : Type} {f : State → β → State} (h : ∀ s b, MemOnly s (f s b))
    (l : List β) (s : State) : MemOnly s (l.foldl f s) := by
  induction l generalizing s with
  | nil => exact .refl s
  | cons b l ih => exact (h s b).trans (ih _)

theorem memOnly_setCore (s : State) (i : Nat) (k : Core) : MemOnly s (setCore s i k) := .of rfl rfl
theorem memOnly_setBank (s : State) (i : Nat) (k : Arb Req) : MemOnly s (setBank s i k) := .of rfl rfl
theorem memOnly_setChannel (s : State) (i : Nat) (k : Arb Req) : MemOnly s (setChannel s i k) :=
  .of rfl rfl
theorem memOnly_setWindow (s : State) (i : Nat) (k : Window) : MemOnly s (setWindow s i k) := .of rfl rfl
theorem memOnly_report (s : State) (c u : Nat) (l w : Word) : MemOnly s (report s c u l w) := .of rfl rfl
theorem memOnly_writeMemLine (s : State) (l : Nat) (d : Line) (b : BitVec 16) :
    MemOnly s (writeMemLine s l d b) := .of rfl rfl
theorem memOnly_l2 {s t : State} (h : MemOnly s t) (x : Tab L2Line) : MemOnly s { t with l2 := x } :=
  h.trans (.of rfl rfl)
theorem memOnly_drawFree (s : State) : MemOnly s (drawFree s).2 := .of rfl rfl
theorem memOnly_setTlb (s : State) (k : Nat) (es : List TlbEnt) : MemOnly s (setTlb s k es) := .of rfl rfl

/-- A thread that loses delivered lines alone. -/
theorem memOnly_setThread {s : State} {i : Nat} {x : Thread} (h : x.bare = (getThread s i).bare) :
    MemOnly s (setThread s i x) := by
  refine ⟨fun j => ?_, rfl⟩
  by_cases hj : j = i
  · subst hj; rw [getThread_setThread_same, h]
  · rw [getThread_setThread_other _ _ hj]

theorem memOnly_dropGot (s : State) (c l : Nat) : MemOnly s (dropGot s c l) := by
  refine MemOnly.foldl (fun s n => ?_) _ s
  dsimp only
  split
  · exact .refl s
  · exact memOnly_setThread rfl

theorem memOnly_dropCopies (l : Nat) (cs : List Nat) (s : State) : MemOnly s (dropCopies s l cs) := by
  induction cs generalizing s with
  | nil => exact .refl s
  | cons c cs ih =>
    unfold dropCopies
    dsimp only
    exact MemOnly.trans (memOnly_setCore s c _) (MemOnly.trans (memOnly_dropGot _ c l) (ih _))

theorem memOnly_evictLine (s : State) (l : Nat) : MemOnly s (evictLine s l) := by
  unfold evictLine
  split
  · exact .refl s
  · next ln _ =>
    refine (memOnly_dropCopies l ln.sharers s).trans ?_
    dsimp only
    split
    · split <;> exact .of rfl rfl
    · exact .of rfl rfl

theorem memOnly_allocLine {s t : State} {l cls age : Nat} {d : Line} {dirty : Bool}
    (h : allocLine s l cls age d dirty = some t) : MemOnly s t := by
  unfold allocLine at h
  dsimp only at h
  split at h
  · cases h
  · injection h with h
    subst h
    split
    · exact memOnly_l2 (MemOnly.trans (.of rfl rfl) (memOnly_evictLine _ _)) _
    · exact .of rfl rfl

theorem memOnly_allocGetD (s : State) (l cls age : Nat) (d : Line) (dirty : Bool) :
    MemOnly s ((allocLine s l cls age d dirty).getD s) := by
  cases h : allocLine s l cls age d dirty with
  | none => exact .refl s
  | some t => exact memOnly_allocLine h

theorem memOnly_sendInval (l w : Nat) (cs : List Nat) (s : State) : MemOnly s (sendInval s l w cs) := by
  induction cs generalizing s with
  | nil => exact .refl s
  | cons c cs ih => exact (memOnly_setCore s c _).trans (ih _)

theorem memOnly_notePerformed (s : State) (w : Option Nat) (ws : List Nat) (l : Nat)
    (skip : Option Nat) (sh : List Nat) : MemOnly s (notePerformed s w ws l skip sh) := by
  unfold notePerformed
  dsimp only
  split
  · exact .refl s
  · exact MemOnly.trans (.of rfl rfl) (memOnly_sendInval _ _ _ _)

theorem memOnly_dropBadClean (s : State) (l : Nat) : MemOnly s (dropBadClean s l) := by
  unfold dropBadClean
  split
  · split
    · exact memOnly_l2 (memOnly_dropCopies _ _ _) _
    · exact .refl s
  · exact .refl s

theorem memOnly_suspect (s : State) (n : Nat) : MemOnly s (suspect s n) := .of rfl rfl

theorem memOnly_homeFetch (s : State) (l cls age : Nat) : MemOnly s (homeFetch s l cls age).1 := by
  unfold homeFetch
  split
  · split
    · exact (memOnly_suspect s _).trans (memOnly_dropBadClean _ l)
    · exact .of rfl rfl
  · split
    · exact .refl s
    · split
      · exact .refl s
      · exact memOnly_allocGetD ..

theorem memOnly_homeStore (s : State) (l : Nat) (d : Line) : MemOnly s (homeStore s l d) := by
  unfold homeStore; split <;> exact .of rfl rfl

theorem memOnly_applyUpdate (s : State) (u : AccUpd) : MemOnly s (applyUpdate s u) := by
  unfold applyUpdate
  dsimp only
  refine (memOnly_homeFetch s u.line u.cls (insertAge u.cls)).trans ?_
  split
  · exact MemOnly.foldl (fun _ _ => memOnly_report ..) _ _
  · exact (memOnly_homeStore _ _ _).trans (memOnly_notePerformed ..)

theorem memOnly_settle (s : State) (who l : Nat) : MemOnly s (settle s who l) := by
  unfold settle
  dsimp only
  split
  · exact .refl s
  · exact (memOnly_setWindow s _ _).trans (MemOnly.foldl memOnly_applyUpdate _ _)

theorem memOnly_homeMask (s : State) (wid : Option Nat) (whos : List Nat) (skip : Option Nat) (l : Nat)
    (mask data : Line) (cls age : Nat) : MemOnly s (homeMask s wid whos skip l mask data cls age).1 := by
  unfold homeMask
  dsimp only
  split
  · split
    · exact .refl s
    · refine MemOnly.trans ?_ (memOnly_notePerformed ..)
      split
      · exact MemOnly.trans (.of rfl rfl) (memOnly_homeStore _ _ _)
      · split
        · next h => exact memOnly_allocLine h
        · exact memOnly_writeMemLine ..
  · refine (memOnly_homeFetch s l cls age).trans ?_
    split
    · exact .refl _
    · exact (memOnly_homeStore _ _ _).trans (memOnly_notePerformed ..)

theorem memOnly_patchFills (s : State) (c l : Nat) (mask data : Line) :
    MemOnly s (patchFills s c l mask data) := memOnly_setCore ..

theorem memOnly_patchGot (s : State) (c l : Nat) (mask data : Line) :
    MemOnly s (patchGot s c l mask data) := by
  refine MemOnly.foldl (fun s n => ?_) _ s
  dsimp only
  split
  · exact memOnly_setThread rfl
  · exact .refl s

theorem memOnly_patchL1 (s : State) (c l : Nat) (mask data : Line) :
    MemOnly s (patchL1 s c l mask data) := by
  unfold patchL1
  dsimp only
  refine (memOnly_patchGot s c l mask data).trans ?_
  split
  · exact memOnly_setCore ..
  · exact .refl _

theorem memOnly_performStore (s : State) (r : Req) : MemOnly s (performStore s r) := by
  unfold performStore
  split
  · next off size v _ =>
    dsimp only
    have h := (memOnly_settle s (queueOf r.thr) r.line).trans ((memOnly_homeMask _ (some r.wid)
      [queueOf r.thr] (some r.core) r.line (byteMask off size) (byteData off size v.toNat) r.cls
      r.l2age).trans (memOnly_patchFills _ r.core r.line (byteMask off size) (byteData off size v.toNat)))
    split
    · exact h.trans (memOnly_report ..)
    · exact h
  · exact .refl s

theorem memOnly_countAt (s : State) (n r u w : Nat) : MemOnly s (countAt s n r u w) := .of rfl rfl

theorem memOnly_takeAll (s : State) (n : Nat) (a : Arb Req) (p : Req → Bool) :
    MemOnly s (takeAll s n a p).1 := by
  have key : ∀ (ws : List (ArbWait Req)) (x : State × Arb Req), MemOnly s x.1 →
      MemOnly s (ws.foldl (fun (x : State × Arb Req) w =>
        (countAt x.1 n w.req 1 w.wait, arbPoint x.2 w.req)) x).1 := by
    intro ws
    induction ws with
    | nil => exact fun x h => h
    | cons w ws ih => exact fun x h => ih _ (h.trans (memOnly_countAt ..))
  exact key _ _ (.refl s)

theorem memOnly_sendMsg (s : State) (c : Nat) (m : CoreMsg) : MemOnly s (sendMsg s c m) := .of rfl rfl

theorem memOnly_addSharer (s : State) (l c : Nat) : MemOnly s (addSharer s l c) := by
  unfold addSharer; split <;> exact .of rfl rfl

theorem memOnly_lineFor (s : State) (r : Req) : MemOnly s (lineFor s r).1 :=
  (memOnly_settle ..).trans (memOnly_homeFetch ..)

/-- Serving a request at home changes the memory system alone: its answer is a message to a core. -/
theorem memOnly_serveReq (s : State) (r : Req) : MemOnly s (serveReq s r) := by
  have hread : ∀ pf l2only, MemOnly s (serveRead s r pf l2only) := by
    intro pf l2only
    unfold serveRead
    dsimp only
    refine (memOnly_lineFor s r).trans ?_
    split
    · exact memOnly_sendMsg ..
    · refine MemOnly.trans ?_ (memOnly_sendMsg ..)
      split
      · exact memOnly_addSharer ..
      · exact .refl _
  unfold serveReq
  split
  · exact hread ..
  · exact hread ..
  · exact memOnly_performStore ..
  · unfold serveAmo
    dsimp only
    refine (memOnly_lineFor s r).trans ?_
    split
    · exact memOnly_sendMsg ..
    · exact (memOnly_homeStore ..).trans ((memOnly_notePerformed ..).trans (memOnly_sendMsg ..))
  · exact (memOnly_lineFor s r).trans (memOnly_sendMsg ..)

theorem memOnly_drainChannel (s : State) (ch : Nat) (p : Req → Bool) :
    MemOnly s (drainChannel s ch p) := by
  unfold drainChannel
  dsimp only
  split
  · exact .refl s
  · exact (memOnly_takeAll ..).trans ((memOnly_setChannel ..).trans (MemOnly.foldl memOnly_serveReq _ _))

theorem memOnly_drainBank (s : State) (b : Nat) (p : Req → Bool) : MemOnly s (drainBank s b p) := by
  unfold drainBank
  dsimp only
  split
  · exact .refl s
  · exact (memOnly_takeAll ..).trans ((memOnly_setBank ..).trans (MemOnly.foldl memOnly_serveReq _ _))

theorem memOnly_drainFor (s : State) (a : Agent) (l : Nat) : MemOnly s (drainFor s a l) := by
  unfold drainFor
  split
  · exact (memOnly_drainChannel ..).trans (memOnly_drainBank ..)
  · exact .refl s

/-! ### Errors at a bank -/

theorem tabFind_map {α : Type} (f : α → α) (t : Tab α) (i : Nat) :
    tabFind (t.map (fun e => (e.1, f e.2))) i = (tabFind t i).map f := by
  induction t with
  | nil => rfl
  | cons e t ih =>
    obtain ⟨k, v⟩ := e
    simp only [List.map_cons, tabFind]
    split
    · rfl
    · exact ih

theorem memOnly_dropSet (s : State) (l : Nat) : MemOnly s (dropSet s l) := by
  refine ⟨fun i => ?_, rfl⟩
  unfold dropSet getThread tabGet
  dsimp only
  rw [tabFind_map (fun t : Thread => { t with
    got := t.got.filter (fun x => !decide (x.1 % 32768 = l % 32768 ∧ lineBank x.1 = lineBank l)) })]
  cases tabFind s.threads i <;> rfl

theorem memOnly_lost (u : State) (c : Prop) [Decidable c] (x : List Nat) (k k' n : Nat)
    (w w' p : Word) : MemOnly u (if c then report { u with lost := x } k n w p else report u k' n w' p) := by
  split <;> exact .of rfl rfl

theorem memOnly_tagError (s : State) (l way : Nat) (v : Option Nat) (b : Bool) :
    MemOnly s (tagError s l way v b) := by
  unfold tagError
  refine (memOnly_dropSet s l).trans ?_
  cases v
  · exact memOnly_lost ..
  · exact (memOnly_l2 (.refl _) (tabDel (dropSet s l).l2 _)).trans (memOnly_lost ..)

theorem memOnly_bankError (s : State) (l : Nat) (e : L2Err) : MemOnly s (bankError s l e) := by
  unfold bankError
  split
  · exact .refl s
  · exact memOnly_tagError ..
  · exact memOnly_tagError ..
  · exact memOnly_tagError ..
  · unfold dataError; split <;> exact .of rfl rfl

theorem memOnly_bankServe (s : State) (r : Req) (e : L2Err) : MemOnly s (bankServe s r e) := by
  unfold bankServe
  dsimp only
  refine ((memOnly_settle s (queueOf r.thr) r.line).trans (memOnly_bankError _ r.line e)).trans ?_
  split
  · exact (memOnly_drainChannel ..).trans (memOnly_serveReq ..)
  · exact memOnly_setChannel ..

theorem memOnly_blockBank (s : State) (b : Nat) : MemOnly s (blockBank s b) :=
  MemOnly.foldl (fun _ _ => memOnly_drainChannel ..) _ s

theorem memOnly_bankTurns (b req fuel : Nat) : ∀ (n : Nat) (s : State),
    MemOnly s (bankTurns b req fuel n s) := by
  induction fuel with
  | zero => exact fun _ _ => (memOnly_setBank ..).trans (memOnly_countAt ..)
  | succ fuel ih =>
    intro n s
    unfold bankTurns
    dsimp only
    split
    · next w _ =>
      refine (((memOnly_countAt s b w.req 1 w.wait).trans (memOnly_setBank _ b
        (arbTake (getBank s b) w false))).trans (memOnly_bankServe _ w.item .none)).trans
        (MemOnly.trans ?_ (ih ..))
      split
      · exact memOnly_blockBank ..
      · exact .refl _
    · exact (memOnly_setBank ..).trans (memOnly_countAt ..)

theorem memOnly_passBank (s : State) (a : Agent) (l : Nat) : MemOnly s (passBank s a l) := by
  unfold passBank
  dsimp only
  have h := (memOnly_setBank s (lineBank l) { getBank s (lineBank l) with granted := [] }).trans
    (MemOnly.foldl (fun s r => memOnly_bankServe s r .none) (getBank s (lineBank l)).granted _)
  refine h.trans (MemOnly.trans (t := ite _ _ _) ?_ ((memOnly_bankTurns ..).trans
    (MemOnly.trans (.of rfl rfl) (memOnly_bankError ..))))
  split
  · exact memOnly_blockBank ..
  · exact .refl _

theorem memOnly_channelTurns (ch req fuel : Nat) : ∀ (n : Nat) (s : State),
    MemOnly s (channelTurns ch req fuel n s) := by
  induction fuel with
  | zero => exact fun _ _ => (memOnly_setChannel ..).trans (memOnly_countAt ..)
  | succ fuel ih =>
    intro n s
    unfold channelTurns
    dsimp only
    refine (memOnly_drawFree s).trans ?_
    split
    · exact (((memOnly_countAt ..).trans (memOnly_setChannel ..)).trans (memOnly_serveReq ..)).trans (ih ..)
    · exact (memOnly_setChannel ..).trans (memOnly_countAt ..)

theorem memOnly_passFill (s : State) (l : Nat) : MemOnly s (passFill s l) := by
  unfold passFill
  split
  · exact .refl s
  · unfold passChannel
    dsimp only
    exact ((memOnly_setChannel ..).trans (MemOnly.foldl memOnly_serveReq _ _)).trans
      (memOnly_channelTurns ..)

/-! ### Accesses -/

theorem memOnly_settleFor (s : State) (a : Agent) (l : Nat) : MemOnly s (settleFor s a l) :=
  (memOnly_drainFor s a l).trans (memOnly_settle ..)

theorem memOnly_homeLine (s : State) (a : Agent) (l : Nat) : MemOnly s (homeLine s a l).1 :=
  (memOnly_settleFor s a l).trans (memOnly_homeFetch ..)

theorem memOnly_homeRead (s : State) (a : Agent) (l : Nat) : MemOnly s (homeRead s a l).1 :=
  ((memOnly_passBank s a l).trans (memOnly_passFill ..)).trans (memOnly_homeLine ..)

theorem memOnly_memError (s : State) (a : Agent) (l : Nat) (va : Word) (c : BitVec 8) :
    MemOnly s (memError s a l va c).1 := memOnly_report ..

theorem memOnly_readPa (s : State) (a : Agent) (pa size : Nat) : MemOnly s (readPa s a pa size).1 :=
  memOnly_homeRead s a _

theorem memOnly_writeLine (s : State) (a : Agent) (l : Nat) (mask data : Line) :
    MemOnly s (writeLine s a l mask data).1 := by
  unfold writeLine
  dsimp only
  have h := memOnly_homeMask s none [a.who] (storeCore a) l mask data a.cls a.age
  revert h
  generalize homeMask s none [a.who] (storeCore a) l mask data a.cls a.age = r
  intro h
  split
  · next c _ _ =>
    dsimp only
    exact h.trans ((memOnly_patchFills ..).trans (memOnly_patchL1 ..))
  · exact h

theorem memOnly_writeMask (s : State) (a : Agent) (l : Nat) (mask data : Line) :
    MemOnly s (writeMask s a l mask data).1 := by
  refine MemOnly.trans (t := passWrite s a l mask) ?_ (memOnly_writeLine ..)
  unfold passWrite
  dsimp only
  refine (memOnly_passBank s a l).trans (MemOnly.trans (t := ite _ _ _) ?_ (memOnly_settleFor ..))
  split
  · exact .refl _
  · exact memOnly_passFill ..

theorem memOnly_writePa (s : State) (a : Agent) (pa size v : Nat) :
    MemOnly s (writePa s a pa size v).1 := memOnly_writeMask ..

theorem memOnly_walk (a : Agent) (k : Acc) (va : Word) (ls : List (Nat × Nat × Nat)) (s : State)
    (table : Nat) : MemOnly s (walk a k va ls s table).1 := by
  induction ls generalizing s table with
  | nil => exact .refl s
  | cons l ls ih =>
    obtain ⟨level, shift, bits⟩ := l
    unfold walk
    dsimp only
    split
    · exact .refl s
    · split
      · exact (memOnly_readPa s a _ 8).trans (memOnly_report ..)
      · split
        · exact memOnly_readPa s a _ 8
        · split
          · exact memOnly_readPa s a _ 8
          · exact (memOnly_readPa s a _ 8).trans (ih _ _)

theorem memOnly_tlbPut (s : State) (k cap : Nat) (e : TlbEnt) : MemOnly s (tlbPut s k cap e) := by
  unfold tlbPut
  dsimp only
  split
  · exact memOnly_setTlb ..
  · exact (memOnly_drawFree s).trans (memOnly_setTlb ..)

theorem memOnly_walkFill (a : Agent) (k : Acc) (va : Word) (s : State) :
    MemOnly s (walkFill a k va s).1 := by
  unfold walkFill
  have hw := memOnly_walk a k va walkLevels s (rootOf a.aspace)
  split
  · next h => rw [h] at hw; exact hw
  · next h =>
    rw [h] at hw
    split
    · exact hw
    · exact hw.trans (memOnly_tlbPut ..)

theorem memOnly_leafOf (a : Agent) (k : Acc) (va : Word) (s : State) :
    MemOnly s (leafOf a k va s).1 := by
  unfold leafOf
  split
  · exact memOnly_walkFill ..
  · split
    · exact memOnly_walkFill ..
    · split
      · exact .refl s
      · dsimp only
        split
        · exact memOnly_drawFree s
        · exact (memOnly_drawFree s).trans ((memOnly_setTlb ..).trans (memOnly_walkFill ..))

theorem memOnly_heldOr {s : State} (a : Agent) (va : Word) (r : State × XRes) (h : MemOnly s r.1) :
    MemOnly s (heldOr a va r).1 := by
  unfold heldOr
  split
  · split
    · exact h.trans (.of rfl rfl)
    · exact h
  · exact h

theorem memOnly_xlatBase (device : Bool) (a : Agent) (k : Acc) (s : State) (va : Word) :
    MemOnly s (xlatBase device a k s va).1 := by
  unfold xlatBase
  dsimp only
  split
  · exact .refl s
  · split
    · exact .refl s
    · split
      · split <;> exact .refl s
      · have hw := memOnly_leafOf a k va s
        split
        · next h => rw [h] at hw; exact hw
        · next h =>
          rw [h] at hw
          split
          · exact hw
          · split
            · split <;> exact hw
            · exact hw

theorem memOnly_xlatAny (device : Bool) (a : Agent) (k : Acc) (s : State) (va : Word) :
    MemOnly s (xlatAny device a k s va).1 := memOnly_heldOr a va _ (memOnly_xlatBase device a k s va)

theorem memOnly_xlat (a : Agent) (k : Acc) (s : State) (va : Word) : MemOnly s (xlat a k s va).1 :=
  memOnly_xlatAny false a k s va

theorem fetchMiss_ne_ok (s t : State) (i l : Nat) : (fetchMiss s i l, Fetched.wait) ≠ (t, .ok) := by
  intro h; cases h

/-- The fetch of a word that the instruction cache, or the line that waits for it, gives changes nothing
outside the memory system. -/
theorem memOnly_fetchWord {s t : State} {i : Nat} {va : Word} (h : fetchWord none s i va = (t, .ok)) :
    MemOnly s t := by
  unfold fetchWord at h
  dsimp only at h
  have hx := memOnly_xlat (threadAgent s i) .fetch s va
  split at h
  · cases h
  · cases h
  · next u pa hu =>
    rw [hu] at hx
    split at h
    · cases h
    · split at h
      · cases h
      · split at h
        · split at h
          · cases h; exact hx
          · cases h
        · split at h
          · cases h
          · cases h; exact hx.trans (memOnly_setCore ..)

/-- The fetch of an instruction changes nothing outside the memory system. -/
theorem memOnly_fetchWords (i n : Nat) {s t : State} {va : Word}
    (h : fetchWords none i n s va = (t, .ok)) : MemOnly s t := by
  induction n generalizing s va with
  | zero => obtain rfl : s = t := congrArg Prod.fst h; exact .refl _
  | succ n ih =>
    unfold fetchWords at h
    split at h
    · next hw => exact (memOnly_fetchWord hw).trans (ih h)
    · next x hx => exact absurd h (hx t)

theorem MemOnly.rget {s t : State} (h : MemOnly s t) (o : Nat) : rget t o = rget s o := by
  unfold Machine.rget; rw [h.regs]

end Sys2Proof.Machine
end

