-- ==== Sys2Proof/Laws/Issue.lean ====
section
/-! SUPPORT. What the issue of an instruction does, said once for each answer of its body. -/

namespace Sys2Proof.Machine

open Sys2Proof

/-- Two states differ in thread `i` alone. -/
def threadOnly (i : Nat) (s t : State) : Prop :=
  (∀ j, j ≠ i → getThread t j = getThread s j) ∧ { t with threads := [] } = { s with threads := [] }

theorem threadOnly_refl (i : Nat) (s : State) : threadOnly i s s := ⟨fun _ _ => rfl, rfl⟩

theorem threadOnly_setThread {i : Nat} {s t : State} (h : threadOnly i s t) (x : Thread) :
    threadOnly i s (setThread t i x) :=
  ⟨fun j hj => by rw [getThread_setThread_other _ _ hj, h.1 j hj], h.2⟩

theorem threadOnly_modThread {i : Nat} {s t : State} (h : threadOnly i s t) (f : Thread → Thread) :
    threadOnly i s (modThread t i f) := threadOnly_setThread h _

theorem threadOnly_writeG {i : Nat} {s t : State} (h : threadOnly i s t) (d : BitVec 5) (w : Word) :
    threadOnly i s (writeG t i d w) := threadOnly_setThread h _

theorem threadOnly_addDeferred {i : Nat} {s t : State} (h : threadOnly i s t) (c : BitVec 8)
    (w : Word) : threadOnly i s (addDeferred t i c w) := threadOnly_setThread h _

theorem threadOnly_raiseFlags {i : Nat} {s t : State} (h : threadOnly i s t) (f : FFlags) :
    threadOnly i s (raiseFlags t i f) := by
  unfold raiseFlags
  dsimp only
  split
  · exact threadOnly_setThread h _
  · exact threadOnly_addDeferred (threadOnly_setThread h _) _ _

@[simp] theorem getThread_modThread (s : State) (i : Nat) (f : Thread → Thread) :
    getThread (modThread s i f) i = f (getThread s i) := getThread_setThread_same ..

@[simp] theorem getThread_writeG (s : State) (i : Nat) (d : BitVec 5) (w : Word) :
    getThread (writeG s i d w) i = setG (getThread s i) d w := getThread_setThread_same ..

@[simp] theorem settled_addDeferred (s : State) (i : Nat) (c : BitVec 8) (w : Word) :
    (getThread (addDeferred s i c w) i).settled = (getThread s i).settled := by
  simp only [addDeferred, getThread_setThread_same]; rfl

@[simp] theorem settled_raiseFlags (s : State) (i : Nat) (f : FFlags) :
    (getThread (raiseFlags s i f) i).settled =
      Thread.settled { getThread s i with fflags := (getThread s i).fflags ||| f } := by
  unfold raiseFlags
  dsimp only
  split
  · rw [getThread_setThread_same]
  · rw [settled_addDeferred, getThread_setThread_same]

theorem settled_pc {t u : Thread} (h : t.settled = u.settled) (pc : Word) :
    Thread.settled { t with pc := pc } = Thread.settled { u with pc := pc } :=
  congrArg (fun x : Thread => { x with pc := pc }) h

theorem settled_setG (t : Thread) (d : BitVec 5) (w : Word) :
    (setG t d w).settled = setG t.settled d w := by
  unfold setG; split <;> rfl

/-! ### Completion -/

theorem retire_settled (s : State) (i : Nat) (r : BitVec 2) (ss : Bool) (pc : Word) :
    (getThread (retire s i r ss pc) i).settled = Thread.settled { getThread s i with pc := pc } := by
  unfold retire
  cases h : (getThread s i).csDue <;> cases hc : ss && decide (2 ≤ r.toNat) <;>
    simp only [h, if_true, if_false, Bool.false_eq_true, settled_addDeferred,
      getThread_setThread_same] <;> rfl

theorem retire_threadOnly (s : State) (i : Nat) (r : BitVec 2) (ss : Bool) (pc : Word) :
    threadOnly i s (retire s i r ss pc) := by
  have key : ∀ (o : Option Word) (b : Bool) (u : State), threadOnly i s u →
      threadOnly i s (if b then addDeferred (match o with
        | some info => addDeferred u i 0x21 info
        | none => u) i 0xC8 0 else match o with
        | some info => addDeferred u i 0x21 info
        | none => u) := by
    intro o b u hu
    cases b with
    | false =>
      rw [if_neg (by decide)]
      cases o with
      | none => exact hu
      | some w => exact threadOnly_addDeferred hu _ _
    | true =>
      rw [if_pos rfl]
      cases o with
      | none => exact threadOnly_addDeferred hu _ _
      | some w => exact threadOnly_addDeferred (threadOnly_addDeferred hu _ _) _ _
  exact key _ _ _ (threadOnly_setThread (threadOnly_refl i s) _)

theorem getThread_countIssue (s : State) (i j : Nat) : getThread (countIssue s i) j = getThread s j := by
  simp only [countIssue, radd, getThread_rset, getThread_setCore]

theorem rget_countIssue_same (s : State) (i : Nat) :
    rget (countIssue s i) (issuedOff i) = rget s (issuedOff i) + 1 := by
  unfold countIssue radd issuedOff
  dsimp only
  rw [rget_rset_same, rget_setCore]
  rfl

theorem rget_countIssue_other (s : State) {i o : Nat} (h : o ≠ issuedOff i) :
    rget (countIssue s i) o = rget s o := by
  unfold issuedOff at h
  unfold countIssue radd
  dsimp only
  rw [rget_rset_other _ _ h, rget_setCore]

theorem getCore_countIssue_same (s : State) (i : Nat) :
    getCore (countIssue s i) (i / 16) = { getCore s (i / 16) with last := i % 16 } := by
  simp only [countIssue, radd, getCore_rset, getCore_setCore_same]

theorem getCore_countIssue_other (s : State) {i c : Nat} (h : c ≠ i / 16) :
    getCore (countIssue s i) c = getCore s c := by
  simp only [countIssue, radd, getCore_rset]
  exact getCore_setCore_other _ _ h

/-- A state without its threads, registers and cores. -/
def rest (s : State) : State := { s with threads := [], regs := [], cores := [] }

theorem rest_rset (s : State) (o : Nat) (w : Word) : rest (rset s o w) = rest s := (rfl)

theorem rest_setCore (s : State) (c : Nat) (k : Core) : rest (setCore s c k) = rest s := (rfl)

theorem rest_countIssue (s : State) (i : Nat) : rest (countIssue s i) = rest s := by
  unfold countIssue radd
  dsimp only
  rw [rest_rset, rest_setCore]

theorem rest_threadOnly {i : Nat} {s t : State} (h : threadOnly i s t) : rest t = rest s :=
  congrArg (fun u : State => { u with regs := [], cores := [] }) h.2

theorem regs_threadOnly {i : Nat} {s t : State} (h : threadOnly i s t) (o : Nat) :
    rget t o = rget s o := by
  have e : t.regs = s.regs := by have := congrArg State.regs h.2; exact this
  unfold rget; rw [e]

theorem cores_threadOnly {i : Nat} {s t : State} (h : threadOnly i s t) (c : Nat) :
    getCore t c = getCore s c := by
  have e : t.cores = s.cores := by have := congrArg State.cores h.2; exact this
  unfold getCore; rw [e]

/-- An instruction whose body is done, having changed nothing but its thread, completes. -/
theorem completes_of_threadOnly {x : Iss} {s s2 : State} {f : Thread → Thread} {r : BitVec 2}
    {ss : Bool} {pc : Word}
    (ht : threadOnly (thrIx x.thr) (fetched x s) s2)
    (hf : (getThread s2 (thrIx x.thr)).settled = (f (getThread s (thrIx x.thr))).settled) :
    completes x s (retire (countIssue s2 (thrIx x.thr)) (thrIx x.thr) r ss pc) f pc := by
  have hr := retire_threadOnly (countIssue s2 (thrIx x.thr)) (thrIx x.thr) r ss pc
  refine ⟨?_, ?_, ?_, ?_, ?_, ?_, ?_⟩
  · rw [retire_settled, getThread_countIssue]
    exact settled_pc hf pc
  · intro j hj
    rw [hr.1 j hj, getThread_countIssue, ht.1 j hj]
  · intro o ho
    rw [regs_threadOnly hr, rget_countIssue_other _ ho, regs_threadOnly ht]
  · rw [regs_threadOnly hr, rget_countIssue_same, regs_threadOnly ht]
  · intro c hc
    rw [cores_threadOnly hr, getCore_countIssue_other _ hc, cores_threadOnly ht]
  · rw [cores_threadOnly hr, getCore_countIssue_same, cores_threadOnly ht]
  · exact (rest_threadOnly hr).trans ((rest_countIssue _ _).trans (rest_threadOnly ht))

/-- What an instruction finds of its thread: what stood there, but for the lines delivered to it and for
a hold that its presentation ends. -/
theorem fetched_memOnly {x : Iss} {s : State} (h : Issues x s) :
    MemOnly (clearHold s (thrIx x.thr)) (fetched x s) :=
  memOnly_fetchWords _ _ (Prod.ext rfl h.2.2.2.2.2)

theorem threadOnly_clearHold (i : Nat) (s : State) : threadOnly i s (clearHold s i) := by
  unfold clearHold
  split
  · exact threadOnly_refl i s
  · exact threadOnly_modThread (threadOnly_refl i s) _

theorem clearHold_getThread (s : State) (i : Nat) :
    getThread (clearHold s i) i = { getThread s i with hold := .none } := by
  unfold clearHold
  split
  · next h => rw [← h]
  · rw [getThread_modThread]

/-- The parts of a thread that the fetch of its instruction leaves alone. -/
theorem fetched_thread {x : Iss} {s : State} (h : Issues x s) :
    (getThread (fetched x s) (thrIx x.thr)).bare =
      Thread.bare { getThread s (thrIx x.thr) with hold := .none } := by
  rw [(fetched_memOnly h).bare, clearHold_getThread]

theorem settled_bare (t : Thread) : t.bare.settled = t.settled := (rfl)

theorem settled_hold (t : Thread) (k : Hold) : Thread.settled { t with hold := k } = t.settled := (rfl)

theorem fetched_g {x : Iss} {s : State} (h : Issues x s) :
    (getThread (fetched x s) (thrIx x.thr)).g = (getThread s (thrIx x.thr)).g := by
  have := congrArg Thread.g (fetched_thread h)
  simpa only [Thread.bare] using this

theorem fetched_pc {x : Iss} {s : State} (h : Issues x s) :
    (getThread (fetched x s) (thrIx x.thr)).pc = (getThread s (thrIx x.thr)).pc := by
  have := congrArg Thread.pc (fetched_thread h)
  simpa only [Thread.bare] using this

/-- A general register reads as before the fetch. -/
theorem getG_fetched {x : Iss} {s : State} (h : Issues x s) (r : BitVec 5) :
    getG (getThread (fetched x s) (thrIx x.thr)) r = getG (getThread s (thrIx x.thr)) r := by
  unfold getG; rw [fetched_g h]

theorem settled_fetched {x : Iss} {s : State} (h : Issues x s) :
    (getThread (fetched x s) (thrIx x.thr)).settled = (getThread s (thrIx x.thr)).settled := by
  rw [← settled_bare, fetched_thread h, settled_bare, settled_hold]

theorem rget_fetched {x : Iss} {s : State} (h : Issues x s) (o : Nat) :
    rget (fetched x s) o = rget s o :=
  ((fetched_memOnly h).rget o).trans (regs_threadOnly (threadOnly_clearHold _ s) o)

/-- The issue of an instruction, by what its body answers. -/
theorem issue_of_issues {x : Iss} {body : Nat → State → Body} {s : State} (h : Issues x s) :
    issue x body s =
      match body (thrIx x.thr) (fetched x s) with
      | .done u => retire (countIssue u (thrIx x.thr)) (thrIx x.thr)
          (getThread s (thrIx x.thr)).ring (getThread s (thrIx x.thr)).ss (nextPc x s)
      | .goto u pc => retire (countIssue u (thrIx x.thr)) (thrIx x.thr)
          (getThread s (thrIx x.thr)).ring (getThread s (thrIx x.thr)).ss pc
      | .again u => markBegun false (fun s => countIssue s (thrIx x.thr)) u (thrIx x.thr)
      | .stall u n => modThread u (thrIx x.thr) (fun t => { t with hold := .unit n })
      | .trap u c info => takeFault false (countIssue u (thrIx x.thr)) (thrIx x.thr) c info := by
  obtain ⟨hc, hu, hi, hb, ht, hf⟩ := h
  have hp : fetchWords none (thrIx x.thr) (issWords x) (clearHold s (thrIx x.thr))
      (getThread s (thrIx x.thr)).pc = (fetched x s, .ok) := Prod.ext rfl hf
  unfold issue
  rw [hc]
  unfold issueWords
  simp only [hu, hb, hi, ht, meetTag, meetError, hp]
  rfl

theorem issue_done {x : Iss} {body : Nat → State → Body} {s u : State} {f : Thread → Thread}
    (h : Issues x s) (hb : body (thrIx x.thr) (fetched x s) = .done u)
    (ht : threadOnly (thrIx x.thr) (fetched x s) u)
    (hf : (getThread u (thrIx x.thr)).settled = (f (getThread s (thrIx x.thr))).settled) :
    completes x s (issue x body s) f (nextPc x s) := by
  rw [issue_of_issues h, hb]
  exact completes_of_threadOnly ht hf

theorem issue_goto {x : Iss} {body : Nat → State → Body} {s u : State} {f : Thread → Thread}
    {pc : Word} (h : Issues x s) (hb : body (thrIx x.thr) (fetched x s) = .goto u pc)
    (ht : threadOnly (thrIx x.thr) (fetched x s) u)
    (hf : (getThread u (thrIx x.thr)).settled = (f (getThread s (thrIx x.thr))).settled) :
    completes x s (issue x body s) f pc := by
  rw [issue_of_issues h, hb]
  exact completes_of_threadOnly ht hf

/-- An instruction whose body writes one general register and is done. -/
theorem issue_writeG {x : Iss} {body : Nat → State → Body} {s : State} {d : BitVec 5} {w : Word}
    (h : Issues x s) (hb : body (thrIx x.thr) (fetched x s) =
      .done (writeG (fetched x s) (thrIx x.thr) d w)) :
    completes x s (issue x body s) (fun t => setG t d w) (nextPc x s) :=
  issue_done h hb (threadOnly_writeG (threadOnly_refl ..) d w)
    (by rw [getThread_writeG, settled_setG, settled_fetched h, settled_setG])

end Sys2Proof.Machine
end

