-- ==== Sys2Proof/WellFormed.lean ====
section
/-! DEFINITION. Well-formed commands: the parts a command names exist (R50, R281, R392), and an
access through BAR0 has a size the interface can carry (R530). -/

namespace Sys2Proof

/-- A core exists: logical numbers 0 to 33 (R50). -/
def CoreRef.wf (c : CoreRef) : Bool := decide (c.core.toNat < 34)

/-- A thread exists: 16 on a compute core, 4 on a control core. -/
def Thr.wf (t : Thr) : Bool :=
  decide (t.core.toNat < 34) && (decide (t.core.toNat < 32) || decide (t.thr.toNat < 4))

def Sender.wf : Sender → Bool
  | .thread t => t.wf
  | .host => true
  | .debug => true
  | .board => true

def Iss.wf (i : Iss) : Bool := i.thr.wf

/-- Sizes of a register access: 1, 2, 4 or 8 bytes. -/
def sizeWf (n : BitVec 4) : Bool := decide (n = 1 ∨ n = 2 ∨ n = 4 ∨ n = 8)

/-- Sizes of a read: up to 4,096 bytes. -/
def readWf (n : BitVec 13) : Bool := decide (1 ≤ n.toNat ∧ n.toNat ≤ 4096)

/-- A sensor of a die. -/
def SensorTemp.wf (x : SensorTemp) : Bool := decide (x.sensor.toNat < 160)

def TapOp.wf : TapOp → Bool
  | .dbgClaim t => t.wf
  | .dbgRelease t => t.wf
  | .dbgStop t => t.wf
  | .dbgRun t => t.wf
  | .dbgSync _ _ _ => true
  | .bypass => true
  | .idcode => true
  | .sample => true
  | .extest => true
  | .scan => true

/-- A flit is 256 bytes, and a group has at most 32 payload flits (13_links_and_pot.md, R395). -/
def Group.wf (g : Group) : Bool :=
  decide (g.link.length = 256 ∧ g.flits.length ≤ 32) && g.flits.all (fun b => decide (b.length = 256))

/-- The parts a command names exist. -/
def Instr.wf : Instr → Bool
  | .registerWrite src _ size _ => src.wf && sizeWf size
  | .add i _ => i.wf
  | .sub i _ => i.wf
  | .and i _ => i.wf
  | .or i _ => i.wf
  | .xor i _ => i.wf
  | .sll i _ => i.wf
  | .srl i _ => i.wf
  | .sra i _ => i.wf
  | .rotl i _ => i.wf
  | .slt i _ => i.wf
  | .sltu i _ => i.wf
  | .min i _ => i.wf
  | .max i _ => i.wf
  | .minu i _ => i.wf
  | .maxu i _ => i.wf
  | .li i _ => i.wf
  | .lui i _ => i.wf
  | .mul i _ => i.wf
  | .mulh i _ => i.wf
  | .mulhu i _ => i.wf
  | .div i _ => i.wf
  | .divu i _ => i.wf
  | .rem i _ => i.wf
  | .remu i _ => i.wf
  | .clz i _ => i.wf
  | .ctz i _ => i.wf
  | .popc i _ => i.wf
  | .par i _ => i.wf
  | .brev i _ => i.wf
  | .crcS i _ => i.wf
  | .ld i _ => i.wf
  | .st i _ => i.wf
  | .amoAdd i _ => i.wf
  | .amoSwap i _ => i.wf
  | .amoCas i _ => i.wf
  | .amoMin i _ => i.wf
  | .amoMax i _ => i.wf
  | .amoMinu i _ => i.wf
  | .amoMaxu i _ => i.wf
  | .beq i _ => i.wf
  | .bne i _ => i.wf
  | .blt i _ => i.wf
  | .bge i _ => i.wf
  | .bltu i _ => i.wf
  | .bgeu i _ => i.wf
  | .j i _ => i.wf
  | .call i _ => i.wf
  | .jr i _ => i.wf
  | .callr i _ => i.wf
  | .ret i _ => i.wf
  | .fpAdd i _ => i.wf
  | .fpSub i _ => i.wf
  | .fpMul i _ => i.wf
  | .fpDiv i _ => i.wf
  | .fpSqrt i _ => i.wf
  | .fpMin i _ => i.wf
  | .fpMax i _ => i.wf
  | .fpCmpEq i _ => i.wf
  | .fpCmpLt i _ => i.wf
  | .fpCmpLe i _ => i.wf
  | .fpSgnj i _ => i.wf
  | .fpSgnjn i _ => i.wf
  | .fpSgnjx i _ => i.wf
  | .fma i _ => i.wf
  | .fms i _ => i.wf
  | .fnma i _ => i.wf
  | .fnms i _ => i.wf
  | .cvt i _ => i.wf
  | .fclass i _ => i.wf
  | .cRd i _ => i.wf
  | .cWr i _ => i.wf
  | .vlWrite i _ => i.wf
  | .frmWrite i _ => i.wf
  | .fflagsWrite i _ => i.wf
  | .pfctlWrite i _ => i.wf
  | .tcfgWrite i _ => i.wf
  | .tcfgApply t => t.wf
  | .cGate i _ => i.wf
  | .cRet i _ => i.wf
  | .cIsync i _ => i.wf
  | .cBrk i _ => i.wf
  | .cNop i _ => i.wf
  | .cPf i _ => i.wf
  | .cust i _ => i.wf
  | .microWord t _ => t.wf
  | .exceptionTake x => x.thr.wf
  | .resume src t => src.wf && t.wf
  | .threadStart src t => src.wf && t.wf
  | .threadStop src t => src.wf && t.wf
  | .threadOff t => t.wf
  | .timerExpire c => c.wf
  | .coreTimerWrite src c _ _ => src.wf && c.wf
  | .vAdd i _ => i.wf
  | .vSub i _ => i.wf
  | .vAnd i _ => i.wf
  | .vOr i _ => i.wf
  | .vXor i _ => i.wf
  | .vSll i _ => i.wf
  | .vSrl i _ => i.wf
  | .vSra i _ => i.wf
  | .vMin i _ => i.wf
  | .vMax i _ => i.wf
  | .vMinu i _ => i.wf
  | .vMaxu i _ => i.wf
  | .vCmpEq i _ => i.wf
  | .vCmpNe i _ => i.wf
  | .vCmpLt i _ => i.wf
  | .vCmpLtu i _ => i.wf
  | .vCrcS i _ => i.wf
  | .vPar i _ => i.wf
  | .vBrev i _ => i.wf
  | .mAnd i _ => i.wf
  | .mOr i _ => i.wf
  | .mNot i _ => i.wf
  | .mPop i _ => i.wf
  | .mFirst i _ => i.wf
  | .vFma i _ => i.wf
  | .vFms i _ => i.wf
  | .vFnma i _ => i.wf
  | .vFnms i _ => i.wf
  | .vMul i _ => i.wf
  | .vAddF i _ => i.wf
  | .vSubF i _ => i.wf
  | .vMaxF i _ => i.wf
  | .vMinF i _ => i.wf
  | .vCmpEqF i _ => i.wf
  | .vCmpLtF i _ => i.wf
  | .vCmpLeF i _ => i.wf
  | .vCvt i _ => i.wf
  | .vWmul i _ => i.wf
  | .vDot4 i _ => i.wf
  | .vDot2 i _ => i.wf
  | .vRng i _ => i.wf
  | .vExpStep i _ => i.wf
  | .vRcpStep i _ => i.wf
  | .vPerm i _ => i.wf
  | .vSlideUp i _ => i.wf
  | .vSlideDn i _ => i.wf
  | .vBcast i _ => i.wf
  | .vRed i _ => i.wf
  | .vSortKey i _ => i.wf
  | .vSortIdx i _ => i.wf
  | .vMerge i _ => i.wf
  | .vIsect i _ => i.wf
  | .vUniq i _ => i.wf
  | .vTopk i _ => i.wf
  | .vLd i _ => i.wf
  | .vSt i _ => i.wf
  | .vLds i _ => i.wf
  | .vSts i _ => i.wf
  | .vLdx i _ => i.wf
  | .vStx i _ => i.wf
  | .vLdd i _ => i.wf
  | .vStd i _ => i.wf
  | .tClaim i _ => i.wf
  | .tFree i _ => i.wf
  | .tZero i _ => i.wf
  | .tileZeroDone c _ => c.wf
  | .tLd i _ => i.wf
  | .tSt i _ => i.wf
  | .tLdt i _ => i.wf
  | .tLdDesc i _ => i.wf
  | .tStDesc i _ => i.wf
  | .tLdtDesc i _ => i.wf
  | .aClaim i _ => i.wf
  | .arrayForcedSave src t => src.wf && t.wf
  | .aFree i _ => i.wf
  | .arrayZeroDone c => c.wf
  | .aLdw i _ => i.wf
  | .aLdwDone c _ => c.wf
  | .aSwap i _ => i.wf
  | .aPass i _ => i.wf
  | .passRowEnter c => c.wf
  | .passRowOutput c _ => c.wf
  | .passStop c _ => c.wf
  | .aDrain i _ => i.wf
  | .streamPortFetch c => c.wf
  | .combiningUpdate _ => true
  | .combiningSend _ => true
  | .accumulateApply _ => true
  | .arbGrant _ => true
  | .trump _ _ => true
  | .l2Access _ _ => true
  | .l2Fill _ _ => true
  | .l1Invalidate c => c.wf
  | .invalidateAck c _ => c.wf
  | .l1Fill c => c.wf
  | .wayPowerDown src _ way => src.wf && decide (way.toNat < 24)
  | .wayCleanDone _ => true
  | .wayPowerUp src _ way => src.wf && decide (way.toNat < 24)
  | .wayPowerUpDone _ => true
  | .l2LostClr src _ => src.wf
  | .mmuInval src _ => src.wf
  | .mmuInvalDone => true
  | .windowAlloc => true
  | .copyOnFirstWrite => true
  | .snapshotCopy => true
  | .release src => src.wf
  | .restore src => src.wf
  | .snapDone => true
  | .tierDemote => true
  | .tierFetch => true
  | .tierMoveDone => true
  | .ctxMbWrite src _ => src.wf
  | .ctxStashFree src _ => src.wf
  | .startG src _ => src.wf
  | .endG src => src.wf
  | .stop src => src.wf
  | .reset src _ => src.wf
  | .lastHandDrained => true
  | .formHand => true
  | .handDone => true
  | .dealRetire src _ => src.wf
  | .poolHeadAdvance src _ => src.wf
  | .sSig i _ => i.wf
  | .sWait i _ => i.wf
  | .sTake i _ => i.wf
  | .sSet i _ => i.wf
  | .sDump i _ => i.wf
  | .syncHomeOp _ => true
  | .waitRelease queue => decide (queue.toNat < 2336)
  | .fLd i _ => i.wf
  | .fSt i _ => i.wf
  | .fAll i _ => i.wf
  | .fDev i _ => i.wf
  | .fSys i _ => i.wf
  | .fenceComplete t => t.wf
  | .syncHostOpSig src _ _ _ => src.wf
  | .syncHostOpSet src _ _ _ => src.wf
  | .deadlockDeclare => true
  | .groupReceive _ g => g.wf
  | .nak _ _ => true
  | .idleLinkFlit _ => true
  | .retrain src _ => src.wf
  | .disable src _ => src.wf
  | .detect _ _ => true
  | .negotiate _ _ _ => true
  | .train _ _ => true
  | .align _ _ => true
  | .init _ => true
  | .attemptTimeout _ => true
  | .portLeavesUp _ _ => true
  | .put _ _ => true
  | .putAcc _ _ => true
  | .getReq _ _ => true
  | .getResp _ _ => true
  | .writeAck _ _ => true
  | .sig _ _ => true
  | .sigAck _ _ => true
  | .red _ _ => true
  | .redAbort _ _ => true
  | .dPost i _ => i.wf
  | .dQuery i _ => i.wf
  | .descStart _ => true
  | .contrib _ => true
  | .wait _ => true
  | .take _ => true
  | .descComplete _ => true
  | .skip src _ => src.wf
  | .flush src _ => src.wf
  | .queueDisable src _ => src.wf
  | .potContribution _ _ => true
  | .potSlotComplete _ => true
  | .clear src _ => src.wf
  | .commitCtlStart src _ => src.wf
  | .anchor src _ => src.wf
  | .commitCtlAbort src => src.wf
  | .commitCtlStop src => src.wf
  | .updCount => true
  | .gateOpen _ => true
  | .hello _ _ => true
  | .helloRepeat => true
  | .ready _ _ => true
  | .commit _ _ => true
  | .copied _ _ => true
  | .secured _ _ => true
  | .abort _ _ => true
  | .feedQuery _ _ => true
  | .feedReply _ _ => true
  | .feedTimeout => true
  | .securingCopyDone => true
  | .commitTimeout => true
  | .safetyEvent _ => true
  | .lockstepMismatch => true
  | .targetedTest _ => true
  | .targetedTestDone _ _ => true
  | .selfTestSlot => true
  | .sliceStart _ => true
  | .sliceEnd _ _ _ => true
  | .stLapse _ => true
  | .safeRecover src _ => src.wf
  | .recoveryDone => true
  | .analogueCheck _ _ _ _ => true
  | .analogueOverdue _ _ => true
  | .dramScrub _ _ _ => true
  | .l2Scrub _ _ _ => true
  | .monitorSample _ _ => true
  | .rePlan _ _ => true
  | .voltageStep _ => true
  | .powerOnReset => true
  | .moduleReset => true
  | .safetyReset => true
  | .softwareReset src _ => src.wf
  | .pcieReset => true
  | .bootRom => true
  | .bootRead _ _ => true
  | .bootVerify => true
  | .bootApply => true
  | .bootZero failed => failed.all (fun c => decide (c.core.toNat < 36))
  | .bootHbm _ => true
  | .bootDdr _ => true
  | .bootLinks => true
  | .bootStart => true
  | .cfgTxnBegin src _ => src.wf
  | .txnStage src _ _ => src.wf
  | .cfgTxnCommit src _ => src.wf
  | .txnApply _ => true
  | .cfgTxnRollback src _ => src.wf
  | .txnTimeout _ => true
  | .lcToken src => src.wf
  | .attest src => src.wf
  | .flashRead src => src.wf
  | .flashProgram src => src.wf
  | .flashErase src => src.wf
  | .scanEnable src => src.wf
  | .secCommandDone _ => true
  | .getVersion _ => true
  | .getCapabilities _ => true
  | .negotiateAlgorithms _ => true
  | .getDigests _ => true
  | .getCertificate _ => true
  | .challenge _ => true
  | .getMeasurements _ => true
  | .spdmUnsupported _ => true
  | .bar2Read _ len => decide (len.toNat ≤ 4096)
  | .bar2Write _ _ => true
  | .msixUnmask _ => true
  | .hostRaise t _ => t.wf
  | .mbxH2d _ _ => true
  | .mbxD2h t _ _ => t.wf
  | .powerStagesStart => true
  | .pwrEnFall => true
  | .powerSample _ _ _ _ => true
  | .dutyPeriod temps _ => temps.all SensorTemp.wf
  | .inputSag _ => true
  | .sagEnd => true
  | .supplyReset _ => true
  | .supplyRecover => true
  | .thermalTrip _ _ => true
  | .thermalBootRelease => true
  | .bar0Read src _ size => src.wf && readWf size
  | .tapInstruction op => op.wf
  | .inletHigh _ => true
  | .dutyWindow => true
  | .clockChangeEnd _ => true
  | .channelRetrainDone ch => decide (ch.toNat < 272)

end Sys2Proof
end

