-- ==== Sys2Proof/Tests/Slice0.lean ====
section
/-! SUPPORT. Tests on small states: the values the manual's rules give, worked out by hand, and for each
statement of the certificate a state and operands that meet its hypotheses. -/

namespace Sys2Proof.Tests

open Sys2Proof Sys2Proof.Machine

set_option Elab.async false
set_option maxRecDepth 100000
set_option exponentiation.threshold 2100

/-! ### Small states -/

/-- Thread 0 of core 0 and of control core 32 of quadrant 0. -/
def thrA : Thr := ⟨0, 0, 0⟩
def thrC : Thr := ⟨0, 32, 0⟩

/-- Issue of a short form and of a long form. -/
def issA : Iss := ⟨thrA, none, none, 0, none⟩
def issL (l : Lit) : Iss := ⟨thrA, some ⟨l, 0, 0, 0, 0⟩, none, 0, none⟩

/-- A core whose L1 instruction cache holds the line of address 0x1000. -/
def coreOn : Core := { Core.idle with l1i := [(0x20, { data := 0, way := 0, age := 0, pf := false })] }

/-- A thread that runs at ring 0 with registers 1, 2 and 4. -/
def thread (a b c : Word) : Thread :=
  { Thread.off with mode := .run, ring := 0, pc := 0x1000
                    g := (List.zip [1, 2, 4] [a, b, c]).filter (fun e => decide (e.2 ≠ 0)) }

/-- A device in service with core 0 and one thread. -/
def device (t : Thread) : State :=
  { State.reset with regs := [(0x18, 0xA)], present := [(0, true)], threads := [(0, t)],
                     cores := [(0, coreOn)] }

def run (a b c : Word) : State := device (thread a b c)

/-- The next state has a property. -/
def after (c : Instr) (s : State) (p : State → Bool) : Bool :=
  match exec c s with
  | .next u => p u
  | _ => false

/-- exec answers this next state. -/
def gives (c : Instr) (s u : State) : Bool := after c s (fun v => decide (v = u))

/-- What `completes` says, for thread 0 of core 0. -/
def ends (s u : State) (f : Thread → Thread) (pc : Word) : Bool :=
  let s1 := fetched issA s
  decide ((getThread u 0).settled = Thread.settled { f (getThread s 0) with pc := pc }) &&
  decide (tabDel u.threads 0 = tabDel s1.threads 0) &&
  decide (tabDel u.regs (issuedOff 0) = tabDel s1.regs (issuedOff 0)) &&
  decide (rget u (issuedOff 0) = rget s1 (issuedOff 0) + 1) &&
  decide (tabDel u.cores 0 = tabDel s1.cores 0) &&
  decide (getCore u 0 = { getCore s1 0 with last := 0 }) &&
  decide ({ u with threads := [], regs := [], cores := [] } =
    { s1 with threads := [], regs := [], cores := [] })

/-- Each instruction writes its value to g3 and does nothing else. -/
def results (s : State) (l : List (Instr × Word)) (pc : Word) : Bool :=
  l.all (fun c => after c.1 s (fun u => ends s u (fun t => setG t 3 c.2) pc))

/-- The hypothesis `Issues`, as a Bool. -/
def issuesB (x : Iss) (s : State) : Bool :=
  decide (x.code = none) && decide (x.ue = none) && canIssue s (thrIx x.thr) &&
    decide ((getThread s (thrIx x.thr)).begun = false) && inTurn s x.busy (thrIx x.thr) &&
    decide ((fetchOf x s).2 = .ok)

theorem issues_of_issuesB {x : Iss} {s : State} (h : issuesB x s = true) : Issues x s := by
  simp only [issuesB, Bool.and_eq_true, decide_eq_true_eq] at h
  exact ⟨h.1.1.1.1.1, h.1.1.1.1.2, h.1.1.1.2, h.1.1.2, h.1.2, h.2⟩

/-! ### The machine -/

theorem witness_EmptyQueueTicks : State.reset.pending = [] := rfl
theorem test_step_runs_front :
    (match step { State.reset with pending := [.supplyRecover, .clockChangeEnd 0] } with
      | .next u => decide (u.pending = [.clockChangeEnd 0])
      | _ => false) = true := by decide +kernel
theorem witness_invariants : lifeCycleLegal State.reset ∧ memCanonical State.reset := by
  unfold lifeCycleLegal memCanonical; decide

/-! ### Integer instructions (R66 to R68) -/

/-- Operands: the most negative number, and -1. -/
def sEdge : State := run 0x8000000000000000 0xFFFFFFFFFFFFFFFF 0
def fReg : RegForm := ⟨3, 1, 2, false, 0⟩
def fReg32 : RegForm := ⟨3, 1, 2, true, 0⟩

theorem witness_Issues : Issues issA sEdge := issues_of_issuesB (by decide +kernel)
theorem test_integer_edges : results sEdge
    [(.add issA (.reg fReg), 0x7FFFFFFFFFFFFFFF), (.sub issA fReg, 0x8000000000000001),
     (.and issA (.reg fReg), 0x8000000000000000), (.or issA (.reg fReg), 0xFFFFFFFFFFFFFFFF),
     (.xor issA (.reg fReg), 0x7FFFFFFFFFFFFFFF), (.sll issA (.reg fReg), 0),
     (.srl issA (.reg fReg), 1), (.sra issA (.reg fReg), 0xFFFFFFFFFFFFFFFF),
     (.rotl issA (.reg fReg), 0x4000000000000000), (.slt issA (.reg fReg), 1), (.sltu issA fReg, 1),
     (.min issA fReg, 0x8000000000000000), (.max issA fReg, 0xFFFFFFFFFFFFFFFF),
     (.minu issA fReg, 0x8000000000000000), (.maxu issA fReg, 0xFFFFFFFFFFFFFFFF),
     (.mul issA fReg, 0x8000000000000000), (.mulh issA fReg, 0), (.mulhu issA fReg, 0x7FFFFFFFFFFFFFFF),
     (.div issA fReg, 0x8000000000000000), (.divu issA fReg, 0), (.rem issA fReg, 0),
     (.remu issA fReg, 0x8000000000000000)] 0x1004 = true := by decide +kernel
theorem test_integer_32_bits : results (run 0x180000001 0x20 0)
    [(.add issA (.reg fReg32), 0xFFFFFFFF80000021), (.sub issA fReg32, 0x7FFFFFE1),
     (.sll issA (.reg fReg32), 0xFFFFFFFF80000001), (.srl issA (.reg fReg32), 0xFFFFFFFF80000001),
     (.sra issA (.reg fReg32), 0xFFFFFFFF80000001), (.rotl issA (.reg fReg32), 0xFFFFFFFF80000001),
     (.slt issA (.reg fReg32), 1), (.sltu issA fReg32, 0), (.min issA fReg32, 0xFFFFFFFF80000001),
     (.max issA fReg32, 0x20), (.minu issA fReg32, 0x20), (.maxu issA fReg32, 0xFFFFFFFF80000001),
     (.mul issA fReg32, 0x20), (.mulh issA fReg32, 0xFFFFFFFFFFFFFFF0), (.mulhu issA fReg32, 0x10),
     (.div issA fReg32, 0xFFFFFFFFFC000001), (.divu issA fReg32, 0x4000000),
     (.rem issA fReg32, 0xFFFFFFFFFFFFFFE1), (.remu issA fReg32, 1)] 0x1004 = true := by decide +kernel
theorem test_division_by_zero : results (run 0x180000001 0 0)
    [(.div issA fReg, 0xFFFFFFFFFFFFFFFF), (.divu issA fReg, 0xFFFFFFFFFFFFFFFF),
     (.rem issA fReg, 0x180000001), (.remu issA fReg32, 0xFFFFFFFF80000001)] 0x1004 = true := by decide +kernel
theorem test_g0_discards :
    after (.add issA (.reg ⟨0, 1, 2, false, 0⟩)) (run 1 2 0) (fun u => ends (run 1 2 0) u id 0x1004) =
      true := by decide +kernel

/-! ### Immediates (R62 to R65) -/

theorem witness_long_issues :
    Issues (issL (.one 0x80000000)) (run 5 0 0) ∧ Issues (issL (.two 1 2)) (run 5 0 0) :=
  ⟨issues_of_issuesB (by decide +kernel), issues_of_issuesB (by decide +kernel)⟩
theorem test_immediates : results (run 5 0 0)
    [(.add issA (.imm false 3 1 0xFFFF), 4), (.add issA (.imm true 3 1 0x8000), 0xFFFFFFFFFFFF8005),
     (.and issA (.imm 3 1 0xFFFE), 4), (.or issA (.imm 3 1 0x8000), 0xFFFFFFFFFFFF8005),
     (.xor issA (.imm 3 1 1), 4), (.slt issA (.imm 3 1 0xFFFF), 0), (.li issA ⟨3, 0, 0x8000⟩, 0xFFFFFFFFFFFF8000),
     (.sll issA (.imm 3 1 0 63), 0x8000000000000000), (.srl issA (.imm 3 1 0 1), 2),
     (.sra issA (.imm 3 1 0 1), 2), (.rotl issA (.imm 3 1 0 62), 0x4000000000000001),
     (.lui issA ⟨3, 0, 0x8000⟩, 0xFFFFFFFF80000000)] 0x1004 = true := by decide +kernel
theorem test_literals :
    after (.li (issL (.one 0x80000000)) ⟨3, 0, 0⟩) (run 5 0 0) (fun u =>
      decide (getG (getThread u 0) 3 = 0xFFFFFFFF80000000 ∧ (getThread u 0).pc = 0x100C)) &&
    after (.add (issL (.two 1 2)) (.imm false 3 1 0)) (run 5 0 0) (fun u =>
      decide (getG (getThread u 0) 3 = 0x200000006 ∧ (getThread u 0).pc = 0x1010)) = true := by decide +kernel

/-! ### Bit instructions -/

theorem test_bits : results (run 0x0000F00000000100 0 0)
    [(.clz issA ⟨3, 1, 0, 0, false, 3⟩, 16), (.ctz issA ⟨3, 1, 0, 0, false, 3⟩, 8),
     (.popc issA ⟨3, 1, 0, 0, false, 3⟩, 5), (.par issA ⟨3, 1, 0, 0, false, 3⟩, 1),
     (.par issA ⟨3, 1, 0, 0, false, 0⟩, 0), (.brev issA ⟨3, 1, 0, 0, false, 3⟩, 0x00800000000F0000),
     (.brev issA ⟨3, 1, 0, 0, false, 0⟩, 0x00000F0000008000)] 0x1004 = true := by decide +kernel
theorem test_bits_of_zero : results (run 0 0 0)
    [(.clz issA ⟨3, 1, 0, 0, false, 3⟩, 64), (.ctz issA ⟨3, 1, 0, 0, false, 3⟩, 64),
     (.popc issA ⟨3, 1, 0, 0, false, 3⟩, 0)] 0x1004 = true := by decide +kernel
/-- One byte 0x80 shifted into CRC 0 gives the polynomial shifted on by seven bits. -/
theorem test_crc :
    let s := device { thread 0 0x80 0 with crcpoly := 0x1 }
    after (.crcS issA ⟨3, 1, 2, 0, false, 0⟩) s (fun u =>
      ends s u (fun t => setG t 3 0x80) 0x1004) = true := by decide +kernel

/-! ### Branches and jumps -/

theorem test_branches :
    let s := sEdge
    let f : BrForm := ⟨1, 2, 0xFFFF⟩
    let go (c : Instr) (pc : Word) : Bool := after c s (fun u => ends s u id pc)
    go (.beq issA f) 0x1004 && go (.bne issA f) 0xFFC && go (.blt issA f) 0xFFC &&
    go (.bge issA f) 0x1004 && go (.bltu issA f) 0xFFC && go (.bgeu issA f) 0x1004 = true := by decide +kernel
theorem test_jumps :
    let s := device { thread 0x2000 0x2002 0 with g := [(1, 0x2000), (2, 0x2002), (30, 0x3000)] }
    let link (t : Thread) : Thread := setG t 30 0x1004
    after (.j issA ⟨0x3FFFFFF⟩) s (fun u => ends s u id 0xFFC) &&
    after (.call issA ⟨2⟩) s (fun u => ends s u link 0x1008) &&
    after (.jr issA ⟨0, 1, 0, 0⟩) s (fun u => ends s u id 0x2000) &&
    after (.callr issA ⟨0, 1, 0, 0⟩) s (fun u => ends s u link 0x2000) &&
    after (.ret issA ⟨0, 0, 0, 0⟩) s (fun u => ends s u id 0x3000) = true := by decide +kernel
theorem test_jump_alignment :
    let s := run 0x2002 0 0
    issuesB issA s &&
    gives (.jr issA ⟨0, 1, 0, 0⟩) s (takeSync (countIssue (fetched issA s) 0) 0 0x06 0x2002) &&
    gives (.callr issA ⟨0, 1, 0, 0⟩) s (takeSync (countIssue (fetched issA s) 0) 0 0x06 0x2002) = true := by
  decide +kernel
theorem test_ret_alignment :
    let s := device { thread 0 0 0 with g := [(30, 0x2001)] }
    gives (.ret issA ⟨0, 0, 0, 0⟩) s (takeSync (countIssue (fetched issA s) 0) 0 0x06 0x2001) = true := by
  decide +kernel


/-! ### Well-formed commands (R50, R530): an ill-formed term for each check -/

theorem test_ill_formed_core : Instr.wf (.timerExpire ⟨0, 34⟩) = false ∧ Instr.wf (.timerExpire ⟨3, 33⟩) = true := by decide
theorem test_ill_formed_thread : Instr.wf (.threadOff ⟨0, 34, 0⟩) = false ∧ Instr.wf (.threadOff ⟨0, 32, 4⟩) = false ∧
    Instr.wf (.threadOff ⟨0, 31, 15⟩) = true ∧ Instr.wf (.threadOff ⟨0, 33, 3⟩) = true := by decide
theorem test_ill_formed_sender : Instr.wf (.registerWrite (.thread ⟨1, 40, 0⟩) 0 8 0) = false ∧
    Instr.wf (.registerWrite .host 0 8 0) = true := by decide
theorem test_ill_formed_size : Instr.wf (.registerWrite .host 0 3 0) = false := by decide
theorem test_ill_formed_issue : Instr.wf (.add ⟨⟨0, 63, 0⟩, none, none, 0, none⟩ (.reg ⟨3, 1, 2, false, 0⟩)) = false := by decide
theorem test_ill_formed_tap : Instr.wf (.tapInstruction (.dbgStop ⟨0, 33, 4⟩)) = false ∧
    Instr.wf (.tapInstruction .bypass) = true := by decide
theorem test_ill_formed_way : Instr.wf (.wayPowerDown .host 0 24) = false ∧ Instr.wf (.wayPowerUp .host 0 31) = false ∧
    Instr.wf (.wayPowerUp .host 0 23) = true := by decide
theorem test_ill_formed_queue : Instr.wf (.waitRelease 2336) = false ∧ Instr.wf (.waitRelease 2335) = true := by decide
theorem test_ill_formed_physical_core : Instr.wf (.bootZero [⟨0, 36⟩]) = false ∧ Instr.wf (.bootZero [⟨0, 35⟩]) = true := by decide
theorem test_ill_formed_channel : Instr.wf (.channelRetrainDone 272) = false ∧ Instr.wf (.channelRetrainDone 271) = true := by decide

theorem test_ill_formed_group :
    Instr.wf (.groupReceive 0 ⟨List.replicate 255 0, [], 0, 0⟩) = false ∧
    Instr.wf (.groupReceive 0 ⟨List.replicate 256 0, [List.replicate 255 0], 0, 0⟩) = false ∧
    Instr.wf (.groupReceive 0 ⟨List.replicate 256 0, [List.replicate 256 0], 0, 0⟩) = true := by decide +kernel
theorem test_ill_formed_board_reader :
    Instr.wf (.bar0Read (.thread ⟨0, 34, 0⟩) 0 8) = false ∧ Instr.wf (.bar0Read .debug 0 8) = true := by decide


/-! ### Instruction words (R59 to R63, R71, R154), the worked examples of the manual among them -/

theorem test_words_of_the_manual :
    decodeTableWord 32 0x04611000 = some (.add firstIssue (.reg ⟨3, 1, 2, false, 0⟩)) ∧
    decodeTableWord 32 0x04611400 = some (.add firstIssue (.reg ⟨3, 1, 2, true, 0⟩)) ∧
    decodeTableWord 32 0x3485C010 = some (.ld firstIssue ⟨4, 5, 6, 16⟩) ∧
    decodeTableWord 32 0xC8003002 = some (.cRet firstIssue ⟨0, 0, 2⟩) ∧
    decodeTableWord 32 0xC8006000 = some (.cNop firstIssue ⟨0, 0, 0⟩) ∧
    decodeTableWord 32 0xE08110C5 = some (.cust firstIssue ⟨4, 1, 2, 3, 0, 5⟩) ∧
    decodeTableWord 32 0xA0A0006A = some (.tClaim firstIssue ⟨5, 0, 0, 3, false, 0xA⟩) ∧
    decodeTableWord 32 0xB4884AA1 = some (.aPass firstIssue ⟨4, 8, 9, 10, true, false, 0, true⟩) ∧
    decodeTableWord 32 0xB0A00000 = some (.aClaim firstIssue ⟨5, 0, 0, 0, false, false, 0⟩) ∧
    decodeTableWord 32 0xC807C100 = some (.cPf firstIssue ⟨0, 7, 0x100⟩) ∧
    decodeTableWord 32 0xC0642900 = some (.sWait firstIssue ⟨3, 4, 5, 0⟩) ∧
    decodeTableWord 32 0xC0000503 = some (.fDev firstIssue ⟨0, 0, 0, 0⟩) ∧
    decodeTableWord 32 0xC4A63800 = some (.dPost firstIssue ⟨5, 6, 7, 0⟩) ∧
    decodeTableWord 32 0xC4A03900 = some (.dQuery firstIssue ⟨5, 0, 7, 0⟩) := by decide +kernel

/-- Words written out from the format tables: MAJ in [31:26], then the operands of the format. -/
theorem test_words_by_format :
    decodeTableWord 32 0x0861FFFF = some (.add firstIssue (.imm false 3 1 0xFFFF)) ∧
    decodeTableWord 32 0x18610105 = some (.srl firstIssue (.imm 3 1 0 5)) ∧
    decodeTableWord 32 0x2C611401 = some (.mulh firstIssue ⟨3, 1, 2, true, 0⟩) ∧
    decodeTableWord 32 0x30610303 = some (.par firstIssue ⟨3, 1, 0, 0, false, 3⟩) ∧
    decodeTableWord 32 0x4822FFFF = some (.blt firstIssue ⟨1, 2, 0xFFFF⟩) ∧
    decodeTableWord 32 0x5C000002 = some (.call firstIssue ⟨2⟩) ∧
    decodeTableWord 32 0x60000002 = some (.ret firstIssue ⟨0, 0, 0, 0⟩) ∧
    decodeTableWord 32 0x68611002 = some (.fpMul firstIssue ⟨true, 3, 1, 2, 0⟩) ∧
    decodeTableWord 32 0x6C611111 = some (.fms firstIssue ⟨1, 0, 3, 1, 2, 4⟩) ∧
    decodeTableWord 32 0x70610024 = some (.cvt firstIssue ⟨3, 1, 0, 0, 2, 4⟩) ∧
    decodeTableWord 32 0x7061004F = some (.fclass firstIssue ⟨3, 1, 0, 0, 4, 0xF⟩) ∧
    decodeTableWord 32 0x81102021 = some (.vSub firstIssue ⟨8, 16, 4, false, 0, 2⟩) ∧
    decodeTableWord 32 0x99010484 = some (.vLd firstIssue ⟨8, 1, 0, true, 1, 4⟩) ∧
    decodeTableWord 32 0xA4611101 = some (.tSt firstIssue ⟨3, 1, 2, 4⟩) ∧
    decodeTableWord 32 0xB8611130 = some (.aDrain firstIssue ⟨3, 1, 2, 4, true, true, 0⟩) ∧
    decodeTableWord 32 0xC8011011 = some (.frmWrite firstIssue ⟨0, 1⟩) := by decide +kernel

/-- Reserved majors, undefined function codes, the all-zero word and a prefix spell no instruction. -/
theorem test_words_of_no_instruction :
    ([0, 0x0461100F, 0x2C611003, 0x74000000, 0xCC000000, 0xE4000000, 0x18610400, 0xC8007000, 0xC0000600,
      0xFD000000] : List Nat).all (fun w => (decodeTableWord 32 w).isNone) ∧
    decodePfx 0xFD10C201 0x80000000 0 = some ⟨.one 0x80000000, 2, 3, 1, 1⟩ ∧
    decodePfx 0x04611000 0 0 = none := by decide +kernel

/-- R32: of two ready threads, the one that the search from the issue pointer meets first issues; the other
does not. -/
theorem test_issue_order :
    let s := { run 5 6 0 with threads := [(0, thread 5 6 0), (3, thread 5 6 0)]
                              cores := [(0, { coreOn with last := 0 })] }
    gives (.sub issA fReg) s s &&
    after (.sub { issA with thr := ⟨0, 0, 3⟩ } fReg) s (fun u => decide ((getThread u 3).pc = 0x1004 ∧
      (getCore u 0).last = 3)) &&
    after (.sub { issA with busy := 0x0008 } fReg) s (fun u => decide ((getThread u 0).pc = 0x1004)) = true := by
  decide +kernel

/-! ### Scalar memory (R69 to R72, R289 to R300) -/

/-- Thread 0 with an address in g1, values in g2 and g4, and a line of L1 whose bytes 0 to 3 are
0x80, 1, 2, 3. -/
def sMem (addr : Word) : State :=
  { run addr 0x1122334455667788 0xFF with
    cores := [(0, { coreOn with l1d := [(0x40, { data := 0x03020180, way := 0, age := 0, pf := false })] })] }

def memF (kind : BitVec 3) (off : BitVec 13) : MemForm := ⟨3, 1, kind, off⟩
def line40 (u : State) : Option Line := (tabFind (getCore u 0).l1d 0x40).map L1Line.data

/-- The hypotheses of `ScalarLoads` and `ScalarStores`. -/
def loadHyp (f : MemForm) (s : State) (size pa : Nat) (signed : Bool) : Bool :=
  issuesB issA s && decide (loadKind f.kind = some (size, signed)) &&
    decide ((getG (getThread s 0) f.a + f.off.signExtend 64).toNat % size = 0) &&
    decide ((xlatAny true (threadAgent (fetched issA s) 0) .load (fetched issA s)
      (getG (getThread s 0) f.a + f.off.signExtend 64)).2 = .to pa)

theorem test_loads_hit :
    loadHyp (memF 0 0) (sMem 0x2000) 1 0x2000 true &&
    after (.ld issA (memF 0 0)) (sMem 0x2000) (fun u =>
      decide (getG (getThread u 0) 3 = 0xFFFFFFFFFFFFFF80 ∧ (getThread u 0).pc = 0x1004)) &&
    after (.ld issA (memF 1 0)) (sMem 0x2000) (fun u => decide (getG (getThread u 0) 3 = 0x80)) &&
    after (.ld issA (memF 2 2)) (sMem 0x2000) (fun u => decide (getG (getThread u 0) 3 = 0x302)) = true := by
  decide +kernel
theorem test_load_misses :
    let s := sMem 0x3000
    loadHyp (memF 4 0x1FFC) s 4 0x2FFC true &&
    after (.ld issA (memF 4 0x1FFC)) s (fun u =>
      decide ((getThread u 0).hold = .load ∧ (getThread u 0).pc = 0x1000 ∧
        (getThread u 0).loads = [⟨0x5F, 0x2FFC, 0x2FFC, 4, true, 3, 4⟩] ∧ u.mem = [])) = true := by decide +kernel
/-- ID_BOOT, read by a load from the device register space. -/
theorem test_load_of_a_register :
    loadHyp (memF 6 0) (sMem 0x3FFF00000018) 8 0x3FFF00000018 true &&
    after (.ld issA (memF 6 0)) (sMem 0x3FFF00000018) (fun u =>
      decide (getG (getThread u 0) 3 = 0xA ∧ (getThread u 0).pc = 0x1004)) = true := by
  decide +kernel
theorem test_store :
    let s := { sMem 0x2000 with threads := [(0, { thread 0x2000 0 0 with g := [(1, 0x2000), (3, 0x5566)] })] }
    issuesB issA s && decide (storeKind 1 = some 2) &&
    after (.st issA (memF 1 2)) s (fun u =>
      decide (line40 u = some 0x55660180 ∧
        (getBank u (lineBank 0x40)).waiting.map (fun w => (w.item.kind, w.item.line, w.item.thr)) =
          [(.store 2 2 0x5566, 0x40, 0)] ∧
        (getThread u 0).settled = Thread.settled { getThread s 0 with pc := 0x1004 } ∧ u.mem = [])) = true := by
  decide +kernel
theorem test_memory_alignment :
    let s := sMem 0x2001
    let f := takeSync (countIssue (fetched issA s) 0) 0 0x05 0x2001
    issuesB issA s && gives (.ld issA (memF 2 0)) s f && gives (.st issA (memF 3 0)) s f &&
    gives (.amoAdd issA ⟨3, 1, 2, true, 0⟩) s f && gives (.amoCas issA ⟨3, 1, 2, false, 0⟩) s f = true := by
  decide +kernel

def amoF : RegForm := ⟨4, 1, 2, false, 0⟩
theorem test_atomics_go_home :
    let s := sMem 0x2008
    [(.amoAdd issA amoF, AmoOp.add), (.amoSwap issA amoF, .swap), (.amoCas issA amoF, .cas),
      (.amoMin issA amoF, .min), (.amoMax issA amoF, .max), (.amoMinu issA amoF, .minu),
      (.amoMaxu issA amoF, .maxu)].all (fun c =>
      after c.1 s (fun u =>
        decide ((getBank u (lineBank 0x40)).waiting.map (fun w => (w.item.kind, w.item.line)) =
          [(.amo c.2 8 8 0x1122334455667788 0xFF 4 0x2008, 0x40)] ∧
          (getThread u 0).hold = .load ∧ (getThread u 0).pc = 0x1000))) = true := by decide +kernel

/-- Line 0x40 in L2, with 5 in its first word, and a request at the head of its bank. -/
def atHome (k : ReqKind) : State :=
  let r : Req := { kind := k, wid := 0, core := 0, thr := 0, line := 0x40, cls := 0, age := 0, l2age := 0 }
  { run 0 0 0 with
    l2 := [(0x40, { data := 5, bad := 0, dirty := false, way := 0, age := 0, sharers := [] })]
    banks := [(0, { Arb.idle with granted := [r] })] }
def homeLine (u : State) : Option (Line × Bool × List Nat) :=
  (tabFind u.l2 0x40).map (fun y => (y.data, y.dirty, y.sharers))

theorem test_load_at_home :
    after (.l2Access ⟨0, 0⟩ .none) (atHome .load) (fun u =>
      decide (homeLine u = some (5, false, [0]) ∧ (getCore u 0).msgs = [.fill 0x40 5 0 false true])) &&
    after (.l2Access ⟨0, 0⟩ .none) (atHome (.store 0 1 0xFF)) (fun u =>
      decide ((homeLine u).map (fun x => (x.1, x.2.1)) = some (0xFF, true))) = true := by decide +kernel
theorem test_fetch_and_prefetch_at_home :
    after (.l2Access ⟨0, 0⟩ .none) (atHome .ifetch) (fun u =>
      decide ((homeLine u).map (fun x => (x.1, x.2.1)) = some (5, false) ∧ (getCore u 0).msgs = [.ifill 0x40 5 true])) &&
    after (.l2Access ⟨0, 0⟩ .none) (atHome (.prefetch false)) (fun u =>
      decide (homeLine u = some (5, false, [0]) ∧ (getCore u 0).msgs = [.fill 0x40 5 0 true true])) &&
    after (.l2Access ⟨0, 0⟩ .none) (atHome (.prefetch true)) (fun u =>
      decide (homeLine u = some (5, false, []) ∧ (getCore u 0).msgs = [.fill 0x40 5 0 true false])) = true := by
  decide +kernel
theorem test_atomic_at_home :
    let amo (op : AmoOp) (b old : Word) (v : Line) : Bool :=
      after (.l2Access ⟨0, 0⟩ .none) (atHome (.amo op 0 8 b old 4 0x2000)) (fun u =>
        decide ((homeLine u).map (fun x => (x.1, x.2.1)) = some (v, true) ∧
          CoreMsg.value 0 0x40 4 5 [] ∈ (getCore u 0).msgs))
    amo .add 3 0 8 && amo .swap 9 0 9 && amo .cas 7 5 7 && amo .cas 7 6 5 &&
    amo .min 0xFFFFFFFFFFFFFFFF 0 0xFFFFFFFFFFFFFFFF && amo .max 0xFFFFFFFFFFFFFFFF 0 5 &&
    amo .minu 0xFFFFFFFFFFFFFFFF 0 5 && amo .maxu 9 0 9 = true := by decide +kernel
theorem test_home_miss :
    after (.l2Access ⟨0, 0⟩ .none) { atHome .load with l2 := [] } (fun u =>
      decide ((getChannel u (lineChannel 0x40)).waiting.map (fun w => w.item.line) = [0x40] ∧ u.l2 = [])) =
      true := by decide +kernel

def toCore (m : CoreMsg) : State :=
  { sMem 0 with cores := [(0, { getCore (sMem 0) 0 with msgs := [m] })] }
theorem test_answers_reach_cores :
    after (.l1Fill ⟨0, 0⟩) { toCore (.value 0 0x40 4 9 []) with
        threads := [(0, { thread 0 0 0 with hold := .load })] } (fun u =>
      decide (getG (getThread u 0) 4 = 9 ∧ (getThread u 0).pc = 0x1004 ∧ (getThread u 0).hold = .none)) &&
    after (.l1Fill ⟨0, 0⟩) (toCore (.fill 0x41 6 0 false true)) (fun u =>
      decide ((tabFind (getCore u 0).l1d 0x41).map L1Line.data = some 6)) &&
    after (.l1Invalidate ⟨0, 0⟩) (toCore (.inval 0x40 1)) (fun u =>
      decide (line40 u = none ∧ (getCore u 0).msgs = [])) = true := by decide +kernel
theorem test_last_acknowledgement :
    let s := { run 0 0 0 with writes := [{ id := 1, agents := [0], line := 0x40, acks := [0] }] }
    gives (.invalidateAck ⟨0, 0⟩ 0x40) s { s with writes := [] } = true := by decide +kernel

/-- Two requests wait at bank 0. -/
def waitsAt (a b : Nat) (t : Option Nat) : State :=
  let r : Req := { kind := .load, wid := 0, core := a, thr := 0, line := 0x40, cls := 0, age := 0, l2age := 0 }
  { run 0 0 0 with banks := [(0, { Arb.idle with
      waiting := [⟨a, 0xFFFF, none, r⟩, ⟨b, 0xFFFF, t, { r with core := b }⟩] })] }
theorem test_arbiter :
    after (.arbGrant ⟨.bank 0 0, 0⟩) (waitsAt 1 2 none) (fun u =>
      decide ((getBank u 0).granted.map Req.core = [1] ∧ (getBank u 0).last = 1 ∧
        (getBank u 0).waiting.length = 1)) &&
    after (.arbGrant ⟨.bank 0 0, 0⟩) (waitsAt 1 2 (some 0)) (fun u =>
      decide ((getBank u 0).granted.map Req.core = [2])) &&
    after (.trump (.bank 0 0) 1) (waitsAt 1 2 none) (fun u =>
      decide ((getBank u 0).waiting.map ArbWait.trump = [some 0, none])) = true := by decide +kernel
theorem test_l2_fill :
    let r : Req := { kind := .load, wid := 0, core := 0, thr := 0, line := 0x40, cls := 0, age := 0, l2age := 0 }
    let s := { run 0 0 0 with
      mem := [(0x2000, 7)], channels := [(lineChannel 0x40, { Arb.idle with granted := [r] })] }
    after (.l2Fill ⟨0, 0⟩ 0) s (fun u =>
      decide ((getCore u 0).msgs = [.fill 0x40 7 0 false false] ∧ u.mem = [(0x2000, 7)])) = true := by decide +kernel

/-! ### Scalar floating point (R113 to R124) -/

/-- Each instruction writes its value to g3, raises its flags and does nothing else. -/
def floats (s : State) (l : List (Instr × Word × FFlags)) : Bool :=
  issuesB issA s && l.all (fun c => after c.1 s (fun u =>
    ends s u (fun t => { setG t 3 c.2.1 with fflags := t.fflags ||| c.2.2 }) 0x1004))
def f32F : FpForm := ⟨false, 3, 1, 2, 0⟩
def f64F : FpForm := ⟨true, 3, 1, 2, 0⟩

/-- 1.0 and 3.0. -/
theorem test_float32 : floats (run 0x3F800000 0x40400000 0)
    [(.fpAdd issA f32F, 0x40800000, 0), (.fpSub issA f32F, 0xC0000000, 0), (.fpMul issA f32F, 0x40400000, 0),
     (.fpDiv issA f32F, 0x3EAAAAAB, 1), (.fpSqrt issA ⟨false, 3, 1, 0, 0⟩, 0x3F800000, 0),
     (.fpMin issA f32F, 0x3F800000, 0), (.fpMax issA f32F, 0x40400000, 0), (.fpCmpEq issA f32F, 0, 0),
     (.fpCmpLt issA f32F, 1, 0), (.fpCmpLe issA f32F, 1, 0), (.fpSgnj issA f32F, 0x3F800000, 0),
     (.fpSgnjn issA f32F, 0xBF800000, 0), (.fpSgnjx issA f32F, 0x3F800000, 0)] = true := by decide +kernel
/-- 1.0 and 0.0; division by zero and sign of a zero. -/
theorem test_float64 : floats (run 0x3FF0000000000000 0x8000000000000000 0)
    [(.fpAdd issA f64F, 0x3FF0000000000000, 0), (.fpDiv issA f64F, 0xFFF0000000000000, 8),
     (.fpMul issA f64F, 0x8000000000000000, 0), (.fpSgnj issA f64F, 0xBFF0000000000000, 0),
     (.fpSgnjx issA f64F, 0xBFF0000000000000, 0)] = true := by decide +kernel
/-- 2, 3 and 5. -/
theorem test_fused : floats (run 0x40000000 0x40400000 0x40A00000)
    [(.fma issA ⟨0, 0, 3, 1, 2, 4⟩, 0x41300000, 0), (.fms issA ⟨0, 0, 3, 1, 2, 4⟩, 0x3F800000, 0),
     (.fnma issA ⟨0, 0, 3, 1, 2, 4⟩, 0xBF800000, 0), (.fnms issA ⟨0, 0, 3, 1, 2, 4⟩, 0xC1300000, 0)] =
    true := by decide +kernel
theorem test_conversions : floats (run 0xBFC00000 0 0)
    [(.cvt issA ⟨3, 1, 0, 0, 4, 5⟩, 0xBFF8000000000000, 0),
     (.cvt issA ⟨3, 1, 0, 0, 4, 0⟩, 0xFFFFFFFFFFFFFFFE, 1),
     (.cvt issA ⟨3, 1, 0, 0, 4, 1⟩, 0, 16), (.cvt issA ⟨3, 1, 0, 0, 0, 4⟩, 0xCE808000, 0),
     (.fclass issA ⟨3, 1, 0, 0, 4, 15⟩, 0x100, 0)] = true := by decide +kernel
theorem test_nan_rules :
    decide ((decodeFmt 11 0x7F800001).isNan = true ∧ (decodeFmt 11 0x3F800000).isNan = false ∧
      fpAdd 11 0 0x7F800001 0x3F800000 = (0x7FC00001, 16) ∧ fpMul 11 0 0 0x7F800000 = (0x7FC00000, 16) ∧
      fpSqrt 11 0 0x7FC00005 = (0x7FC00005, 0) ∧
      fpMulExact (decodeFmt 11 0) (decodeFmt 11 0x7F800000) = none ∧
      fpFma 11 0 false false 0 0x7F800000 0x7FC00005 = (0x7FC00005, 16) ∧
      fpFma 11 0 false false 0 0x7F800000 0 = (0x7FC00000, 16) ∧
      fpAddExact 0 (decodeFmt 11 0x7F800000) (decodeFmt 11 0xFF800000) = none ∧
      ieeeOf 11 3 (decodeFmt 11 1) = (1, 0) ∧ ieeeOf 12 1 (decodeFmt 12 0x8000000000000000) =
        (0x8000000000000000, 0)) = true := by decide +kernel
theorem test_fp_trap :
    let s := device { thread 0x3F800000 0x40400000 0 with fte := 1 }
    after (.fpDiv issA f32F) s (fun u => decide ((getThread u 0).deferred = [(0x20, 1)] ∧
      (getThread u 0).fflags = 1 ∧ (getThread u 0).pc = 0x1004)) = true := by decide +kernel

/-! ### Control registers, gates and frames (R85 to R111) -/

theorem test_control_reads :
    let s := device { thread 0 0 0 with fflags := 5, vl := 4096, oob := 9, seed := 7 }
    results s [(.cRd issA ⟨3, 0, 0⟩, 0x4), (.cRd issA ⟨3, 0, 0x10⟩, 5), (.cRd issA ⟨3, 0, 0x12⟩, 7),
      (.cRd issA ⟨3, 0, 0x18⟩, 4096), (.cRd issA ⟨3, 0, 0x38⟩, 9), (.cRd issA ⟨3, 0, 0x40⟩, 4)] 0x1004 =
      true := by decide +kernel
theorem test_control_read_refused :
    let s := device { thread 0 0 0 with ring := 3, aspace := 0, entry := [] }
    let z := device { thread 0 0 0 with ring := 1 }
    decide (crListed 0x3 = false ∨ crListed 0x7FF = false) &&
    gives (.cRd issA ⟨3, 0, 0x7FF⟩) z (takeSync (countIssue (fetched issA z) 0) 0 0x03 0x1000) &&
    decide (crListed 4 = true ∧ crReadRing 4 < (getThread s 0).ring.toNat) = true := by decide +kernel
theorem test_control_writes :
    let s := run 0xFFFFFFFFFFFFFFFF 4096 16
    let w (c : Instr) (f : Thread → Thread) : Bool := after c s (fun u => ends s u f 0x1004)
    w (.cWr issA ⟨0, 1, 0⟩) (fun t => { t with fte := 0x3F, ss := true, em := true }) &&
    w (.cWr issA ⟨0, 1, 1⟩) (fun t => { t with cause := 0xE0FF }) &&
    w (.cWr issA ⟨0, 1, 4⟩) (fun t => { t with tsb := 0xFFFFFFFFFFFFF000 }) &&
    w (.cWr issA ⟨0, 1, 9⟩) (fun t => setEntry t 1 0xFFFFFFFFFFFFFFFC) &&
    w (.cWr issA ⟨0, 1, 0x12⟩) (fun t => { t with seed := 0xFFFFFFFFFFFFFFFF }) &&
    w (.cWr issA ⟨0, 1, 0x38⟩) (fun t => { t with oob := 0xFFFFFFFFFFFFFFFF }) &&
    w (.vlWrite issA ⟨0, 2⟩) (fun t => { t with vl := 4096 }) &&
    w (.frmWrite issA ⟨0, 4⟩) (fun t => { t with frm := 0 }) &&
    w (.fflagsWrite issA ⟨0, 1⟩) (fun t => { t with fflags := 0x3F }) &&
    w (.pfctlWrite issA ⟨0, 4⟩) (fun t => { t with pfctl := 16 }) = true := by decide +kernel
theorem test_control_writes_refused :
    let s := run 4097 5 17
    let bad := takeSync (countIssue (fetched issA s) 0) 0 0x03 0x1000
    gives (.vlWrite issA ⟨0, 1⟩) s bad && gives (.frmWrite issA ⟨0, 2⟩) s bad &&
    gives (.pfctlWrite issA ⟨0, 4⟩) s bad && gives (.cWr issA ⟨0, 1, 0x7FF⟩) s bad &&
    gives (.cWr issA ⟨0, 1, 0x20⟩) s (takeSync (countIssue (fetched issA s) 0) 0 0x04 0x20) = true := by
  decide +kernel

/-- Tile 0 belongs to thread 0; TCFG gives it format 2. -/
def sTiles (zeroing : Bool) : State :=
  { run 2 0 0 with
    cores := [(0, { coreOn with
      tiles := [(0, { Tile.free with owner := some 0, fmt := 1, zeroing := zeroing })] })] }
theorem test_tile_format_write :
    let s := sTiles false
    issuesB issA s && decide ((tcfgChanged (fetched issA s) 0 2).all (fun k => tileFmt (tcfgFmt 2 k).toNat) ∧
      tcfgClear (fetched issA s) 0 2 ∧ (getArr (fetched issA s) 0).pass = none) &&
    after (.tcfgWrite issA ⟨0, 1⟩) s (fun u =>
      decide ((tileOf u 0 0).fmt = 2 ∧ (getThread u 0).pc = 0x1004)) = true := by decide +kernel
theorem test_tile_format_waits :
    let s := sTiles true
    decide (tcfgClear (fetched issA s) 0 2 = false) &&
    after (.tcfgWrite issA ⟨0, 1⟩) s (fun u => decide ((getThread u 0).hold = .tcfg 2 ∧
      (tileOf u 0 0).fmt = 1)) &&
    (let h := { sTiles false with threads := [(0, { thread 2 0 0 with hold := .tcfg 2 })] }
     decide (coreIssues h 0 ∧ tcfgClear h 0 2) &&
     after (.tcfgApply thrA) h (fun u => decide ((tileOf u 0 0).fmt = 2 ∧ (getThread u 0).pc = 0x1004 ∧
       (getThread u 0).hold = .none))) = true := by decide +kernel

/-- Gate 0 leads to 0x5000 at ring 0; a frame stack of 0x1000 bytes at 0x8000 with FRAME_PTR 0x200. -/
def sGate : State :=
  { device { thread 7 8 0 with gatebase := 0x40001, tsb := 0x8000 } with
    mem := [(0x8001, 0x10), (0x8009, 0x02), (0x40001, 0x50), (0x4000E, 0x80), (0x4000F, 0x83)]
    cores := [(0, { Core.idle with
      l1i := [(0x20, { data := 0, way := 0, age := 0, pf := false }), (0xA0, { data := 0, way := 0, age := 0, pf := false })] })] }
theorem test_gate :
    after (.cGate issA ⟨0, 0, 0⟩) sGate (fun u =>
      let t := getThread u 0
      decide (t.pc = 0x5000 ∧ t.ring = 0 ∧ t.faultinfo = 0 ∧ t.cause.toNat % 256 = 0x83 ∧ t.em = true ∧
        t.depth = 1 ∧ getG t 1 = 7)) = true := by decide +kernel
theorem test_gate_and_return :
    after (.cGate issA ⟨0, 0, 0⟩) sGate (fun v =>
      after (.cRet issA ⟨0, 0, 1⟩) (setThread v 0 { getThread v 0 with g := [(1, 99), (2, 98)] }) (fun u =>
        decide ((getThread u 0).pc = 0x1004 ∧ (getThread u 0).ring = 0 ∧
          getG (getThread u 0) 1 = 99 ∧ getG (getThread u 0) 2 = 8))) = true := by decide +kernel
theorem test_return_from_emergency_frame :
    let s0 := saveEmergency (run 7 8 0) 0 0x2000 0 0 0 0
    let s := setThread s0 0 { getThread s0 0 with g := [(1, 99), (2, 98)] }
    issuesB issA s && occBit (fetched issA s) 0 && frameLegal (getThread s 0) (eframeWords (fetched issA s) 0) &&
    after (.cRet issA ⟨0, 0, 1⟩) s (fun u =>
      decide (occBit u 0 = false ∧ (getThread u 0).pc = 0x2000 ∧ getG (getThread u 0) 1 = 99 ∧
        getG (getThread u 0) 2 = 8)) = true := by decide +kernel
theorem test_small_control :
    let s := run 0x2000 0 0
    let z : CtlForm := ⟨0, 0, 0⟩
    after (.cNop issA z) s (fun u => ends s u id 0x1004) &&
    after (.cIsync issA z) s (fun u => decide ((getCore u 0).l1i = [] ∧ (getThread u 0).pc = 0x1004)) &&
    gives (.cBrk issA z) s (takeSync (countIssue (fetched issA s) 0) 0 0x11 0x1000) &&
    after (.cBrk issA z) (device { thread 0 0 0 with claimed := true }) (fun u =>
      decide ((getThread u 0).mode = .debug ∧ (getThread u 0).pc = 0x1000)) &&
    after (.cPf issA ⟨1, 1, 0⟩) s (fun u => decide ((getBank u (lineBank 0x40)).waiting.map
      (fun w => (w.item.kind, w.item.line)) = [(.prefetch true, 0x40)] ∧
      (getThread u 0).pc = 0x1004)) = true := by decide +kernel

/-- Slot 0 of quadrant 0: enabled for ring 3, micro-words 16 to 19; its first word adds g1 and the
immediate 5 into u2 and goes on at 17, which ends the routine. -/
def sMicro : State :=
  let w (next seq : Nat) : BitVec 96 := BitVec.ofNat 96 (next * 2 ^ 80 + seq * 2 ^ 77 + 1 * 2 ^ 66 +
    9 * 2 ^ 61 + 15 * 2 ^ 56 + 2 * 2 ^ 51 + 5)
  let s := run 7 0 0
  rset { s with ucode := [(16, w 17 0), (17, w 0 5)] } (qcmOff 0 0x200)
    (wd (2 ^ 63 + 3 * 2 ^ 58 + 4 * 2 ^ 32 + 16))
def cust1 : CustForm := ⟨3, 1, 0, 0, 0, 0⟩
theorem test_custom_starts :
    decide (ucodePending (fetched issA sMicro) 0 = false ∧ custForm issA cust1 = true ∧
      slotOpen (decSlot (fetched issA sMicro) 0 0) 0 = true) && issuesB issA sMicro &&
    after (.cust issA cust1) sMicro (fun u => decide ((getThread u 0).custom.map Custom.upc = some 16 ∧
      (getThread u 0).pc = 0x1000)) = true := by decide +kernel
theorem test_micro_words :
    after (.cust issA cust1) sMicro (fun v =>
      let key := 16
      let w := tabGet (fun _ => (0 : BitVec 96)) v.ucode key
      decide (canMicro v 0 = true ∧ microLegal w cust1 = true ∧ mUnit w = 0 ∧ mMem w = 0 ∧ mSd w = 2 ∧
        inRoutine (decSlot v 0 0) 17 = true) &&
      after (.microWord thrA ⟨false, none, 0⟩) v (fun u =>
        decide ((getThread u 0).custom.map (fun c => (c.upc, tabGet zeroWord c.u 2)) = some (17, 12)) &&
        after (.microWord thrA ⟨false, none, 0⟩) u (fun x =>
          decide ((getThread x 0).custom = none ∧ (getThread x 0).pc = 0x1004)))) = true := by decide +kernel

/-! ### Threads, timers and exceptions (R37 to R46, R87 to R112) -/

/-- Thread 0 is OFF and may be started; with its bit of CORE_THR_EN set, it runs. -/
def sOff : State := { device Thread.off with deckEntry1 := 0x4000 }
def sRun (t : Thread) : State := rset { device t with deckEntry1 := 0x4000 } (coreReg 0 0x8) 1

theorem test_thread_start :
    mayWrite sOff .host 1 && decide ((getThread sOff 0).mode = .off) &&
    after (.threadStart .host thrA) sOff (fun u => decide ((getThread u 0).mode = .run ∧
      (getThread u 0).pc = 0x4000 ∧ (getThread u 0).ring = 1 ∧ (getThread u 0).em = true ∧
      (getThread u 0).cause = 0x60 ∧ (getThread u 0).faultinfo = tidWord sOff 0 ∧
      rget u (coreReg 0 0x8) = 1 ∧ u.mem = [] ∧ tabDel u.threads 0 = [])) = true := by decide +kernel
theorem test_thread_start_refused :
    gives (.threadStart .board thrA) sOff sOff = true := by decide +kernel
theorem test_thread_stop :
    let s := sRun (thread 1 2 0)
    mayWrite s .host 1 && after (.threadStop .host thrA) s (fun u => decide (rget u (coreReg 0 0x8) = 0 ∧
      canIssue u 0 = false ∧ getThread u 0 = { getThread s 0 with stopping := true } ∧ u.mem = [])) = true := by
  decide +kernel
theorem test_thread_off :
    let s := { sRun { thread 1 2 0 with stopping := true } with
      cores := [(0, { coreOn with
        tiles := [(1, { Tile.free with owner := some 0, use := true }), (2, { Tile.free with owner := some 3 })]
        arr := { Arr.free with owner := some 0 } })]
      sync := [(5, { SyncObj.zero with waiters := [⟨0, true, 1⟩, ⟨9, false, 2⟩] })] }
    mayTurnOff s 0 && after (.threadOff thrA) s (fun u => decide ((getThread u 0).mode = .off ∧
      (getThread u 0).g = [] ∧ (getThread u 0).v = [] ∧ (getObj u 5).waiters = [⟨9, false, 2⟩] ∧
      (tileOf u 0 1).owner = none ∧ (tileOf u 0 2).owner = some 3 ∧ (getArr u 0).owner = none)) &&
    gives (.threadOff thrA) (sRun (thread 1 2 0)) (sRun (thread 1 2 0)) = true := by decide +kernel

def sTimer (ctl : Word) (n : Word) : State :=
  rset (rset (rset (device Thread.off) (coreReg 0 0x20) ctl) (coreReg 0 0x28) n) (coreReg 0 0x30) 77
theorem test_timer_expires :
    let s := sTimer 0x80000000 1
    let a := sTimer 0xC0000000 1
    timerDue s 0 && timerDue a 0 &&
    after (.timerExpire ⟨0, 0⟩) s (fun u => decide (rget u (coreReg 0 0x28) = 0 ∧
      (rget u (coreReg 0 0x20)).getLsbD 8 = true ∧ u.threads = s.threads)) &&
    after (.timerExpire ⟨0, 0⟩) a (fun u => decide (rget u (coreReg 0 0x28) = 77)) = true := by decide +kernel
theorem test_timer_written_as_it_expires :
    let a := sTimer 0xC0000000 1
    after (.coreTimerWrite .host ⟨0, 0⟩ 0x900000005 true) a (fun u => decide (rget u (coreReg 0 0x28) = 5 ∧
      (rget u (coreReg 0 0x20)).getLsbD 8 = true)) &&
    after (.coreTimerWrite .host ⟨0, 0⟩ 5 false) a (fun u => decide (rget u (coreReg 0 0x28) = 5 ∧
      (rget u (coreReg 0 0x20)).getLsbD 8 = false)) = true := by decide +kernel

/-- A thread at ring 1 with a frame stack of 0x1000 bytes at 0x8000, its entries at rings 0 and 1. -/
def tTrap : Thread :=
  { thread 5 6 0 with em := false, ring := 1, tsb := 0x8000, entry := [(0, 0x600), (1, 0x700)] }
def sTrap (t : Thread) : State := { device t with mem := [(0x8001, 0x10), (0x8009, 0x02)] }

theorem test_exception_entry :
    let s := sTrap tTrap
    let p := pushFrame s 0 0x1000 (causeWord 1 false 0x05) 0x2001
    let v := takeException false s 0 0x1000 0x05 0x2001 false
    decide (p.2 = .ok ∧ entryRing tTrap (min 1 (causeRing 0x05)) = some 1 ∧ (getThread v 0).ring = 1 ∧
      (getThread v 0).pc = 0x700 ∧ (getThread v 0).cause = causeWord 1 false 0x05 ∧
      (getThread v 0).faultinfo = 0x2001 ∧ (getThread v 0).mode = .run ∧ (getThread v 0).em = false ∧
      (getThread v 0).depth = 1 ∧ getG (getThread v 0) 1 = 5) = true := by decide +kernel
theorem test_interrupt_taken :
    let s := sTrap { tTrap with ipend := 0x28, ipendInfo := [(0x63, 9)] }
    let s1 := setThread (clearEvent s 0 0x63) 0 { getThread (clearEvent s 0 0x63) 0 with
      custRestart := [], custom := none }
    decide (lowestInterrupt (ipendWord s 0) = some 3 ∧ maskedPending s 0 = false ∧
      entryRing (getThread s 0) 1 = some 1 ∧
      (pushFrame s1 0 0x1000 (causeWord 1 false 0x63) 9).2 = .ok) &&
    after (.exceptionTake ⟨thrA, false⟩) s (fun v => decide ((getThread v 0).pc = 0x700 ∧ (getThread v 0).em = true ∧
      (getThread v 0).ipend = 0x20 ∧ (getThread v 0).cause.toNat % 256 = 0x63 ∧
      (getThread v 0).faultinfo = 9)) = true := by decide +kernel
theorem test_no_frame_stack :
    let t := { tTrap with tsb := 0 }
    let v := takeException false (sTrap t) 0 0x1000 0x05 0x2001 false
    decide (t.tsb = 0 ∧ occBit (sTrap t) 0 = false ∧ (getThread v 0).pc = 0x600 ∧ (getThread v 0).ring = 0 ∧
      (getThread v 0).em = true ∧ (getThread v 0).cause = causeWord 1 false 0x90 ∧
      (getThread v 0).faultinfo = 0 ∧ occBit v 0 = true ∧ v.mem = (sTrap t).mem) = true := by decide +kernel

/-- An uncorrectable error in what an instruction reads: MEM_SRAM in place of its effect (R463). -/
theorem test_read_error :
    let x : Iss := { issA with ue := some (.index 7) }
    let s := run 5 6 0
    let body (_ : Nat) (s : State) : Body := .done s
    let v := takeSync (countIssue (ueIn (fetched x s) 0 7 inCore) 0) 0 0x41 7
    (canIssue s 0 && decide ((fetchOf x s).2 = .ok ∧ issue x body s = v) &&
    gives (.add x (.reg fReg)) s v && gives (.add { x with ue := some (.row 3) } (.reg fReg)) s
      (match exec (.add issA (.reg fReg)) s with | .next u => u | _ => s)) = true := by decide +kernel

/-- The same thread with EM 1, and the monitor of quadrant 0 in RUN. -/
def sMasked : State :=
  { device { thread 5 6 0 with em := true } with
    present := [(0, true), (32, true)]
    threads := [(0, { thread 5 6 0 with em := true }), (512, thread 0 0 0)] }
theorem test_masked_fault :
    let m := monitorOf sMasked 0
    let v := takeSync sMasked 0 0x05 0x2001
    decide (m = 512 ∧ corePresent sMasked (m / 16) = true ∧ (getThread v 0).mode = .halt ∧ occBit v 0 = true ∧
      rget v (eframeOff 0 0) = 0x1000 ∧ rget v (eframeOff 0 5) = 5 ∧ rget v (eframeOff 0 6) = 6 ∧
      rget v (eframeOff 0 48) = 0x91 ∧ rget v (eframeOff 0 49) = 5 ∧
      (rget v (qcmOff 0 0x18)).getLsbD 16 = true ∧
      tabGet zeroWord (getThread v m).ipendInfo 0x91 = tidWord sMasked 0 ∧ v.mem = []) = true := by decide +kernel
theorem test_resume :
    let s0 := saveEmergency (run 5 6 0) 0 0x2000 0 0 0 0
    let s := setThread s0 0 { getThread s0 0 with mode := .halt, g := [] }
    mayWrite s .host 0 && after (.resume .host thrA) s (fun u => decide ((getThread u 0).mode = .run ∧
      occBit u 0 = false ∧ (getThread u 0).pc = 0x2000 ∧ getG (getThread u 0) 1 = 5 ∧
      getG (getThread u 0) 2 = 6)) &&
    gives (.resume .host thrA) (run 5 6 0) (run 5 6 0) = true := by decide +kernel

/-- A word that no table defines, and a second prefix, raise ILLEGAL_INSTR at the pc; a command whose word
spells another instruction issues nothing. -/
theorem test_undefined_words :
    let bad (x : Iss) : Bool := after (.sub x fReg) (sTrap tTrap) (fun u =>
      decide ((getThread u 0).cause.toNat % 256 = 0x03 ∧ (getThread u 0).faultinfo = 0x1000 ∧
        getG (getThread u 0) 3 = 0))
    bad { issA with code := some 0x0461100F } && bad { issA with code := some 0 } &&
    bad { issL (.one 1) with code := some 0xFD000000 } &&
    gives (.sub { issA with code := some 0x04611000 } fReg) (sTrap tTrap) (sTrap tTrap) = true := by
  decide +kernel

/-- The frame stack lies in a window page that two sequences share: the push waits for its copy, and the entry
stays in progress (R338). -/
def sHeld : State :=
  let s := { device { tTrap with aspace := 2, tsb := 0xC00000000000 } with
    mem := [(0x660001, 0x10), (0x660009, 0x02)]
    ctx := { Ctx.empty with
      ents := [(0, ⟨0, 102⟩)]
      pages := [(102, { h64 := 0, h32 := 0, tag := 0, shard := 0, ref := 2, state := 1, idx := false, age := 0 })] } }
  rset s (dealOff 0x1000) 0xC000000000000100
theorem test_exception_entry_held :
    decide ((pushFrame sHeld 0 0x1000 (causeWord 1 false 0x05) 0x2001).2 = .held (.copy 0)) &&
    (let v := takeException false sHeld 0 0x1000 0x05 0x2001 false
     decide ((getThread v 0).hold = .entry 0x1000 0x05 0x2001 false ∧ (getThread v 0).mode = .run ∧
       v.ctx.held.map (fun h => (h.thr, h.need)) = [(some 0, .copy 0)] ∧ v.mem = sHeld.mem)) = true := by
  decide +kernel

/-! ### Vector instructions (R149 to R179) -/

/-- Thread 0 with VL 4, v1, v2, v4 and mask m1; g2 is 1. -/
def tVec (a b d : VReg) (mask : VReg) : Thread :=
  { thread 0 1 0 with vl := 4, v := (List.zip [1, 2, 4] [a, b, d]).filter (fun e => decide (e.2 ≠ 0))
                      m := if mask = 0 then [] else [(1, mask)] }
def sVec (a b d : VReg) (mask : VReg) : State := device (tVec a b d mask)

/-- The instruction writes the elements to v4, raises the flags and does nothing else. -/
def puts (s : State) (c : Instr) (w : Nat) (es : List (Nat × Nat)) (fl : FFlags) (pc : Word) : Bool :=
  after c s (fun u => ends s u (fun t =>
    { vputAll t 4 w es with vstart := 0, fflags := t.fflags ||| fl }) pc)
def bitsTo (s : State) (c : Instr) (es : List (Nat × Bool)) (fl : FFlags) : Bool :=
  after c s (fun u => ends s u (fun t =>
    { maskPutAll t 4 es with vstart := 0, fflags := t.fflags ||| fl }) 0x1004)
def vcf (msk : Bool) (cls : BitVec 3) : VClassForm := ⟨4, 1, 2, msk, if msk then 1 else 0, cls⟩
def fourOf (l : List Nat) : List (Nat × Nat) := List.zip [0, 1, 2, 3] l

theorem test_elements :
    let t := tVec 0x0807060504030201 0 0 5
    decide (vget (vput t 1 16 1 0x1FFFF) 1 16 1 = 0xFFFF ∧ vget (vput t 1 16 1 0x1FFFF) 1 16 0 = 0x0201 ∧
      vget (vput t 1 4 2048 7) 3 4 0 = 7 ∧ (getM (maskPutAll t 1 [(2, false)]) 1) = 1) = true := by
  decide +kernel

/-- Bytes: v1 holds 0x80, 1, 0xFF, 2 and v2 holds 1, 9, 0xFF, 2. -/
def sVec8 : State := sVec 0x02FF0180 0x02FF0901 0 0
theorem test_vector_integers :
    let c := vcf false 0
    vform issA false 0 4 false false && issuesB issA sVec8 &&
    vconfig (getThread sVec8 0) 8 [vopnd (getThread sVec8 0) 8 1 8, vopnd (getThread sVec8 0) 8 2 8]
      [vopnd (getThread sVec8 0) 8 4 8] true false &&
    ([(.vAdd issA c, [0x81, 0x0A, 0xFE, 4]), (.vSub issA c, [0x7F, 0xF8, 0, 0]), (.vAnd issA c, [0, 1, 0xFF, 2]),
      (.vOr issA c, [0x81, 9, 0xFF, 2]), (.vXor issA c, [0x81, 8, 0, 0]), (.vSll issA c, [0, 2, 0x80, 8]),
      (.vSrl issA c, [0x40, 0, 1, 0]), (.vSra issA c, [0xC0, 0, 0xFF, 0]), (.vMin issA c, [0x80, 1, 0xFF, 2]),
      (.vMax issA c, [1, 9, 0xFF, 2]), (.vMinu issA c, [1, 1, 0xFF, 2]), (.vMaxu issA c, [0x80, 9, 0xFF, 2])] :
      List (Instr × List Nat)).all (fun e => puts sVec8 e.1 8 (fourOf e.2) 0 0x1004) = true := by
  decide +kernel
theorem test_vector_compares :
    let c := vcf false 0
    let z (l : List Bool) := List.zip [0, 1, 2, 3] l
    bitsTo sVec8 (.vCmpEq issA c) (z [false, false, true, true]) 0 &&
    bitsTo sVec8 (.vCmpNe issA c) (z [true, true, false, false]) 0 &&
    bitsTo sVec8 (.vCmpLt issA c) (z [true, true, false, false]) 0 &&
    bitsTo sVec8 (.vCmpLtu issA c) (z [false, true, false, false]) 0 = true := by decide +kernel
/-- Under the mask 0b0110 with VSTART 2, only element 2 is active. -/
theorem test_vector_mask_and_start :
    let s := device { tVec 0x02FF0180 0x02FF0901 0x11111111 6 with vstart := 2 }
    puts s (.vAdd issA (vcf true 0)) 8 [(2, 0xFE)] 0 0x1004 = true := by decide +kernel
/-- XF[2]: the second operand is general register 2, which holds 1. -/
theorem test_vector_scalar_operand :
    let x : Iss := ⟨thrA, some ⟨.none, 0, 0, 0, 4⟩, none, 0, none⟩
    issuesB x sVec8 && vform x false 0 4 false false &&
    after (.vAdd x (vcf false 0)) sVec8 (fun u => decide ((getThread u 0).settled = Thread.settled
      { vputAll (getThread sVec8 0) 4 8 (fourOf [0x81, 2, 0, 3]) with pc := 0x1008 })) = true := by
  decide +kernel
theorem test_vector_configuration :
    let s := device { tVec 0 0 0 0 with vl := 4096 }
    let t := getThread s 0
    decide (vconfig t 8 [vopnd t 8 1 8, vopnd t 8 2 8] [vopnd t 8 4 8] true false = false) &&
    gives (.vAdd issA (vcf false 0)) s (takeSync (countIssue (fetched issA s) 0) 0 0x0D 4096) = true := by
  decide +kernel

theorem test_vector_bits :
    let s := device { tVec 0x13 0x31 0 0 with vl := 1, crcpoly := 0x1021 }
    let f : VBitForm := ⟨4, 1, 2, false, 0, false, 0⟩
    puts s (.vPar issA f) 8 [(0, 1)] 0 0x1004 && puts s (.vBrev issA f) 8 [(0, 0xC8)] 0 0x1004 &&
    puts s (.vCrcS issA f) 64 [(0, (crcStep false 8 0x1021 0x13 0x31).toNat)] 0 0x1004 = true := by
  decide +kernel
/-- Mask bits: m1 holds 0b0110 and bit 9, past VL; m4 holds ones past VL. -/
def sMask : State :=
  device { tVec 0 0 0 0 with m := [(1, 0x206), (2, 0x3), (4, 0xF0)] }
theorem test_masks :
    let f : VMaskForm := ⟨4, 1, 2, false, 0⟩
    let z : VMaskForm := ⟨4, 3, 2, false, 0⟩
    vform issA false 0 0 false false && issuesB issA sMask &&
    after (.mAnd issA f) sMask (fun u => ends sMask u (fun t => setM t 4 0xF2) 0x1004) &&
    after (.mOr issA f) sMask (fun u => ends sMask u (fun t => setM t 4 0xF7) 0x1004) &&
    after (.mNot issA f) sMask (fun u => ends sMask u (fun t => setM t 4 0xF9) 0x1004) &&
    after (.mPop issA f) sMask (fun u => ends sMask u (fun t => setG t 4 2) 0x1004) &&
    after (.mFirst issA f) sMask (fun u => ends sMask u (fun t => setG t 4 1) 0x1004) &&
    after (.mFirst issA z) sMask (fun u => ends sMask u (fun t => setG t 4 (BitVec.allOnes 64)) 0x1004) = true := by
  decide +kernel

/-- FP32: v1 holds 1, 2, 3, -1, v2 holds 1, 3, 2, 0 and v4 holds 1, 1, 1, 1. -/
def sVec32 : State := sVec 0xBF80000040400000400000003F800000 0x0000000040000000404000003F800000 0x3F8000003F8000003F8000003F800000 0
theorem test_vector_floats :
    let c := vcf false 1
    let t := getThread sVec32 0
    vform issA false 0 7 false false && vconfig t 32 [vopnd t 32 1 32, vopnd t 32 2 32, vopnd t 32 4 32]
      [vopnd t 32 4 32] true false &&
    ([(.vFma issA c, [0x40000000, 0x40E00000, 0x40E00000, 0x3F800000]),
      (.vFms issA c, [0x0, 0x40A00000, 0x40A00000, 0xBF800000]),
      (.vFnma issA c, [0x0, 0xC0A00000, 0xC0A00000, 0x3F800000]),
      (.vFnms issA c, [0xC0000000, 0xC0E00000, 0xC0E00000, 0xBF800000]),
      (.vMul issA c, [0x3F800000, 0x40C00000, 0x40C00000, 0x80000000]),
      (.vAddF issA c, [0x40000000, 0x40A00000, 0x40A00000, 0xBF800000]),
      (.vSubF issA c, [0x0, 0xBF800000, 0x3F800000, 0xBF800000]),
      (.vMaxF issA c, [0x3F800000, 0x40400000, 0x40400000, 0x0]),
      (.vMinF issA c, [0x3F800000, 0x40000000, 0x40000000, 0xBF800000])] :
      List (Instr × List Nat)).all (fun e => puts sVec32 e.1 32 (fourOf e.2) 0 0x1004) = true := by
  decide +kernel
theorem test_vector_float_compares :
    let c := vcf false 1
    let z (l : List Bool) := List.zip [0, 1, 2, 3] l
    bitsTo sVec32 (.vCmpEqF issA c) (z [true, false, false, false]) 0 &&
    bitsTo sVec32 (.vCmpLtF issA c) (z [false, true, false, true]) 0 &&
    bitsTo sVec32 (.vCmpLeF issA c) (z [true, true, false, true]) 0 = true := by decide +kernel

def vff (fmt : BitVec 4) : VFmtForm := ⟨4, 1, 2, false, 0, fmt⟩

/-- FP32 to FP64, FP32 to I16, and I8 to FP32, each of four elements. -/
theorem test_vector_convert :
    let s := device { tVec 0x40400000C0200000400000003F800000 0 0 0 with vl := 4 }
    let c (d : BitVec 5) : VFmtForm := ⟨4, 1, d, false, 0, 11⟩
    issuesB issA s && vform issA false 0 3 false false && cvtFmt 11 && cvtFmt 12 &&
    (vcvtApply 11 12 0 4 1 0 false 0 (getThread s 0)).isSome &&
    puts s (.vCvt issA (c 12)) 64
      (fourOf [0x3FF0000000000000, 0x4000000000000000, 0xC004000000000000, 0x4008000000000000]) 0 0x1004 &&
    puts s (.vCvt issA (c 2)) 16 (fourOf [1, 2, 0xFFFE, 3]) 1 0x1004 &&
    puts (sVec 0x7F80FF01 0 0 0) (.vCvt issA ⟨4, 1, 11, false, 0, 0⟩) 32
      (fourOf [0x3F800000, 0xBF800000, 0xC3000000, 0x42FE0000]) 0 0x1004 = true := by decide +kernel
theorem test_vector_products :
    let s := sVec 0x017F80FF 0x7F7F80FF 0 0
    let d := device { tVec 0x04030201 0xFF0180FF 100 0 with vl := 1 }
    puts s (.vWmul issA (vff 0)) 16 (fourOf [1, 0x4000, 0x3F01, 0x7F]) 0 0x1004 &&
    puts d (.vDot4 issA (vff 0)) 32 [(0, 0xFFFFFF62)] 0 0x1004 &&
    puts d (.vDot4 issA (vff 1)) 32 [(0, 0x662)] 0 0x1004 &&
    puts d (.vDot2 issA (vff 2)) 32 [(0, 0xFEFD8066)] 0 0x1004 =
      true := by decide +kernel
theorem test_vector_random :
    let s := device { tVec 0 0 0 0 with seed := 0x7FFFFFFFE, vl := 2 }
    let t := getThread s 0
    let draw (e : Nat) := srBits 7 0xFFFFFFFE e
    after (.vRng issA (vff 3)) s (fun u => ends s u (fun t =>
      { vputAll t 4 32 [(0, draw 0 * 65536 + draw 1), (1, draw 2 * 65536 + draw 3)] with seed := 0x700000002 }) 0x1004) &&
    decide (rngElem t 0 0 = draw 0 % 256 ∧ 0 < rngDraws 3) = true := by decide +kernel
/-- Values at which the result is exact: 2^0 and 1/0. -/
theorem test_vector_steps :
    let s := sVec 0 0 0 0
    puts s (.vExpStep issA (vff 11)) 32 (fourOf [0x3F800000, 0x3F800000, 0x3F800000, 0x3F800000]) 0 0x1004 &&
    puts s (.vRcpStep issA (vff 11)) 32 (fourOf [0x7F800000, 0x7F800000, 0x7F800000, 0x7F800000]) 8 0x1004 &&
    (vstepApply 11 0 (vff 11) expOp expG16 (getThread s 0)).isSome = true := by decide +kernel

/-- I16: v1 holds 10, 11, 12, 13; indexes 3, -1, 4, 0 in v2. -/
def sPerm (n : Word) : State :=
  let t := tVec 0x000D000C000B000A 0x00000004FFFF0003 0x7777777777777777 0
  device { t with g := [(2, n)] }
theorem test_permutes :
    let s := sPerm 1
    let t := getThread s 0
    vform issA false 0 0 false false && issuesB issA s &&
    vconfig t 16 [vopnd t 16 1 16, vopnd t 16 2 16] [vopnd t 16 4 16] false true &&
    puts s (.vPerm issA (vff 2)) 16 (fourOf [13, 0, 0, 10]) 0 0x1004 &&
    puts s (.vSlideUp issA (vff 2)) 16 [(1, 10), (2, 11), (3, 12)] 0 0x1004 &&
    puts s (.vSlideDn issA (vff 2)) 16 (fourOf [11, 12, 13, 0]) 0 0x1004 &&
    puts (sPerm 0x12345) (.vBcast issA (vff 2)) 16 (fourOf [0x2345, 0x2345, 0x2345, 0x2345]) 0 0x1004 &&
    puts (sPerm 4) (.vSlideUp issA (vff 2)) 16 [] 0 0x1004 = true := by decide +kernel
theorem test_reduction :
    let s := sPerm 1
    let f (op : BitVec 5) : VFmtForm := ⟨4, 1, op, false, 0, 2⟩
    (vredApply 2 0 (f 0) (getThread s 0)).isSome && redFmt 2 &&
    puts s (.vRed issA (f 0)) 64 [(0, 46)] 0 0x1004 && puts s (.vRed issA (f 1)) 64 [(0, 13)] 0 0x1004 &&
    puts s (.vRed issA (f 2)) 64 [(0, 10)] 0 0x1004 = true := by decide +kernel
/-- U8 keys 5, 3, 5, 1 and 3, 3, 9, 7; 4 and 5 for v.merge. -/
def sKeys : State := sVec 0x01050305 0x07090303 0 0
theorem test_sets :
    let s := sKeys
    setForm issA (vff 1) && keyFmt 1 &&
    (vsetApply 1 8 false (vff 1) (fun _ => []) (getThread s 0)).isSome &&
    puts s (.vSortKey issA (vff 1)) 8 (fourOf [1, 3, 5, 5]) 0 0x1004 &&
    puts s (.vSortIdx issA (vff 1)) 16 (fourOf [3, 1, 0, 2]) 0 0x1004 &&
    puts s (.vIsect issA (vff 1)) 16 (fourOf [0, 2, 0, 0]) 0 0x1004 &&
    puts (device { getThread s 0 with g := [(2, 2)] }) (.vTopk issA (vff 1)) 16 [(0, 0), (1, 2)] 0 0x1004 = true := by
  decide +kernel
theorem test_merge_and_runs :
    let s := sVec 0x09050301 0x08070303 0 0
    let r := sVec 0x05050303 0 0 0
    let d := sVec 0x05050303 0 0x11111111 0
    after (.vMerge issA (vff 1)) s (fun u => ends s u (fun t => { vputAll (vputAll t 4 8
      (fourOf [1, 3, 3, 3])) 5 8 (fourOf [5, 7, 8, 9]) with vstart := 0 }) 0x1004) &&
    after (.vUniq issA ⟨4, 1, 5, false, 0, 1⟩) d (fun u => ends d u (fun t =>
      setG { vputAll t 4 8 [(0, 3), (1, 5)] with vstart := 0 } 5 2) 0x1004) &&
    decide (keysOf (getThread r 0) 1 8 = [(3, 0), (3, 1), (5, 2), (5, 3)]) = true := by decide +kernel
theorem test_sort_is_stable :
    decide (rankSort (keyOrder 1 true) [(5, 0), (3, 1), (5, 2), (1, 3)] = [(5, 0), (5, 2), (3, 1), (1, 3)] ∧
      rankSort (keyOrder 11 false) [(0x7FC00000, 0), (0, 1), (0x80000000, 2), (0xFF800000, 3)] =
        [(0xFF800000, 3), (0x80000000, 2), (0, 1), (0x7FC00000, 0)] ∧
      keyOrder 11 true 0x7FC00000 0 = keyOrder 11 false 0 0x7FC00000) = true := by decide +kernel

/-! ### Vector memory (R172 to R179) and writes at home -/

/-- g1 and g2, VL 4, v2 and v4; line 0x40 of L1 and of L2 holds bytes 1 to 16 from 0x2000 on, and a
descriptor of a U8 tensor of extent 3 at 0x2000 stands at 0x2040. -/
def descU8 : List Word := [0x0101000000002000, 0xEE, 0x0000003000000001, 0, 0, 0, 0, 0]
def lineV : Line :=
  0x100F0E0D0C0B0A090807060504030201 |||
    BitVec.ofNat 1024 ((descU8.reverse.foldl (fun acc w => acc * 2 ^ 64 + w.toNat) 0) * 2 ^ 512)
def sVM (a b : Word) (v2 v4 : VReg) : State :=
  let t := tVec 0 v2 v4 0
  { device { t with g := (List.zip [1, 2] [a, b]).filter (fun e => decide (e.2 ≠ 0)) } with
    cores := [(0, { coreOn with l1d := [(0x40, { data := lineV, way := 0, age := 0, pf := false })] })]
    l2 := [(0x40, { data := lineV, bad := 0, dirty := false, way := 0, age := 0, sharers := [0] })] }

/-- The load puts the elements in v4 and completes. -/
def vloads (s : State) (c : Instr) (w : Nat) (es : List Nat) : Bool :=
  after c s (fun u => decide ((getThread u 0).pc = 0x1004 ∧ (getThread u 0).vstart = 0 ∧
    (getThread u 0).v = (vputAll (getThread s 0) 4 w (fourOf es)).v ∧ (getThread u 0).g = (getThread s 0).g ∧
    u.mem = s.mem ∧ u.l2 = s.l2))
theorem test_vector_loads :
    vmemForm issA (vff 1) false true &&
    vloads (sVM 0x2000 0 0 0) (.vLd issA (vff 1)) 8 [1, 2, 3, 4] &&
    vloads (sVM 0x2002 0 0 0) (.vLd issA (vff 2)) 16 [0x403, 0x605, 0x807, 0xA09] &&
    vloads (sVM 0x2000 0 0 0) (.vLd issA (vff 5)) 4 [1, 0, 2, 0] &&
    vloads (sVM 0x2008 0xFFFFFFFFFFFFFFFE 0 0) (.vLds issA (vff 1)) 8 [9, 7, 5, 3] &&
    vloads (sVM 0x2000 0 0x08 0) (.vLdx issA (vff 4)) 64
      [0x100F0E0D0C0B0A09, 0x807060504030201, 0x807060504030201, 0x807060504030201] = true := by decide +kernel
theorem test_vector_descriptor_load :
    let s := sVM 0x2040 0 0 0
    let f := vff 1
    decide ((vdesc issA f (vmemConfig (getThread s 0) f false [] [vopnd (getThread s 0) 8 4 8]) 0
      (fetched issA s)).2 = .inl descU8) &&
    vloads s (.vLdd issA f) 8 [1, 2, 3, 0xEE] = true := by decide +kernel
/-- A miss leaves VSTART at the element that waits and the pc where it is. -/
theorem test_vector_load_misses :
    after (.vLd issA (vff 1)) (sVM 0x207E 0 0 0) (fun u => decide ((getThread u 0).pc = 0x1000 ∧
      (getThread u 0).vstart = 2 ∧ (getThread u 0).hold = .line [0x41])) = true := by decide +kernel

/-- The line at home after a store of v4. -/
def vstores (s : State) (c : Instr) (es : List (Nat × Nat)) : Bool :=
  after c s (fun u => decide ((getThread u 0).pc = 0x1004 ∧ (getThread u 0).vstart = 0 ∧
    (getThread u 0).v = (getThread s 0).v ∧ u.mem = s.mem ∧
    (tabFind u.l2 0x40).map L2Line.data =
      some (es.foldl (fun (l : Line) e => linePut l e.1 1 e.2) lineV)))
theorem test_vector_stores :
    let d : VReg := 0xD4D3D2D1
    issuesB issA (sVM 0x2000 0 0 d) &&
    vstores (sVM 0x2000 0 0 d) (.vSt issA (vff 1)) [(0, 0xD1), (1, 0xD2), (2, 0xD3), (3, 0xD4)] &&
    vstores (sVM 0x2000 0 0 d) (.vSt issA (vff 5)) [(0, 0xD1), (1, 0xD2)] &&
    vstores (sVM 0x2008 0xFFFFFFFFFFFFFFFE 0 d) (.vSts issA (vff 1)) [(8, 0xD1), (6, 0xD2), (4, 0xD3), (2, 0xD4)] &&
    vstores (sVM 0x2000 0 0x08 d) (.vStx issA (vff 4))
      ((List.range 16).map (fun k => (k, if k = 8 then 0xD1 else if k = 9 then 0xD2 else if k = 10 then 0xD3
        else if k = 11 then 0xD4 else 0))) = true := by decide +kernel
theorem test_vector_descriptor_store :
    let s := sVM 0x2040 0 0 0xD4D3D2D1
    vstores s (.vStd issA (vff 1)) [(0, 0xD1), (1, 0xD2), (2, 0xD3)] &&
    after (.vStd issA (vff 1)) s (fun u => decide ((getThread u 0).oob = 1)) = true := by decide +kernel

theorem test_write_at_home :
    let s := sVM 0 0 0 0
    let r := homeMask s none [7] none 0x40 (byteMask 4 2) (byteData 4 2 0x1BBAA) 0 1
    decide (((getWindow s (lineBank 0x40)).sent ++ (getWindow s (lineBank 0x40)).entries ++
      (getWindow s (lineBank 0x40)).arriving).all (fun u => decide (u.line ≠ 0x40)) = true ∧
      r.2 = none ∧ r.1.mem = s.mem ∧ (tabFind r.1.l2 0x40).map (fun l => (l.dirty, l.bad, l.data)) =
        some (true, 0, linePut (linePut lineV 4 1 0xAA) 5 1 0xBB) ∧
      refused { s with l2 := [], lost := [lineBank 0x40 * 1024 + lineSet 0x40] } 0x40 = true) = true := by decide +kernel

/-! ### Tiles and the matrix array (R180 to R248) -/

/-- Core 0 with tiles and an array, thread 0 with registers g1, g2, g4. -/
def sTile (ts : List (Nat × Tile)) (a : Arr) (g : List (Nat × Word)) : State :=
  { device { thread 0 0 0 with g := g } with cores := [(0, { coreOn with tiles := ts, arr := a })] }
def mine : Tile := { Tile.free with owner := some 0, fmt := 1, use := true, rows := [(0, 0x1234)] }
def tOwn (tile : BitVec 3) (d : BitVec 5) (fmt : BitVec 4) : TileOwnForm := ⟨d, 0, 0, tile, false, fmt⟩

/-- As `ends`, with the core changed by `k`. -/
def endsCore (s u : State) (f : Thread → Thread) (k : Core → Core) : Bool :=
  let s1 := fetched issA s
  decide ((getThread u 0).settled = Thread.settled { f (getThread s 0) with pc := 0x1004 }) &&
  decide ({ getCore u 0 with last := 0 } = { k (getCore s1 0) with last := 0 }) &&
  decide ({ u with threads := [], regs := [], cores := [] } = { s1 with threads := [], regs := [], cores := [] })

theorem test_tile_claims :
    let s := sTile [(1, { mine with owner := some 0 }), (2, { mine with owner := some 3 })] .free [(3, 9)]
    issuesB issA s && !isControl (thrIx thrA / 16) && tileFmt 2 &&
    after (.tClaim issA (tOwn 0 3 2)) s (fun u => endsCore s u (fun t => setG t 3 0)
      (fun k => setTile k 0 { Tile.free with owner := some 0, fmt := 2 })) &&
    after (.tClaim issA (tOwn 1 3 1)) s (fun u => endsCore s u (fun t => setG t 3 0) id) &&
    after (.tClaim issA (tOwn 2 3 1)) s (fun u => endsCore s u (fun t => setG t 3 2) id) = true := by decide +kernel
theorem test_tile_free_and_zero :
    let s := sTile [(1, mine), (2, { mine with owner := some 3 })] .free []
    after (.tFree issA (tOwn 1 0 0)) s (fun u => endsCore s u id (fun k => setTile k 1 { Tile.free with zeroing := true })) &&
    after (.tZero issA (tOwn 1 0 0)) s (fun u => endsCore s u id (fun k => setTile k 1
      { Tile.free with owner := some 0, fmt := 1, zeroing := true })) &&
    gives (.tFree issA (tOwn 2 0 0)) s (takeSync (countIssue (fetched issA s) 0) 0 0x0B 2) &&
    gives (.tZero issA (tOwn 2 0 0)) s (takeSync (countIssue (fetched issA s) 0) 0 0x0B 2) = true := by decide +kernel
theorem test_tile_zeroed :
    let s := sTile [(1, { mine with zeroing := true })] .free []
    after (.tileZeroDone ⟨0, 0⟩ 1) s (fun u => decide (u.cores =
      [(0, { coreOn with tiles := [(1, mine)] })])) = true := by decide +kernel

/-- Tile 1 is thread 0's, U8; lines 0x40 and 0x41 of L1 hold 1 to 16 from 0x2000 on; a descriptor of a
U8 tensor of 3 columns at 0x2000 stands at 0x2040. g1, g2 and g4 are address, stride and rows. -/
def sTileMem (a b n : Word) : State :=
  let s := sTile [(1, { mine with rows := [(0, 0xA2A1)] })] .free
    ((List.zip [1, 2, 4] [a, b, n]).filter (fun e => decide (e.2 ≠ 0)))
  let ln (d : Line) : L1Line := { data := d, way := 0, age := 0, pf := false }
  let hm (d : Line) : L2Line := { data := d, bad := 0, dirty := false, way := 0, age := 0, sharers := [0] }
  { s with
    cores := [(0, { getCore s 0 with l1d := [(0x40, ln lineV), (0x41, ln 0x77)] })]
    l2 := [(0x40, hm lineV), (0x41, hm 0x77)] }
def tMem : TileMemForm := ⟨1, 1, 2, 4⟩
/-- The rows of tile 1, TSTART and the pc. -/
def tileIs (u : State) (rows : List (Nat × TileRow)) : Bool :=
  decide ((tileOf u 0 1).rows = rows ∧ (getThread u 0).tstart = 0 ∧ (getThread u 0).pc = 0x1004)
theorem test_tile_load :
    let s := sTileMem 0x2000 0 1
    let row : TileRow := lineV.zeroExtend 2048 ||| (0x77 <<< 1024)
    issuesB issA s && tileForm issA tMem && decide ((alignedRows issA tMem (getThread s 0) 1 0 1).2 = none) &&
    after (.tLd issA tMem) s (fun u => tileIs u [(0, row)] && decide (u.mem = s.mem ∧ u.l2 = s.l2)) &&
    after (.tLd issA tMem) (sTileMem 0x2000 0x80 1) (fun u => tileIs u [(0, row)]) = true := by decide +kernel
/-- A transposed load puts the bytes of row 0 into column 0. -/
theorem test_tile_transposed_load :
    after (.tLdt issA tMem) (sTileMem 0x2000 0 1) (fun u => decide ((tileOf u 0 1).rows.take 3 =
      [(0, 0xA201), (1, 2), (2, 3)] ∧ (getThread u 0).pc = 0x1004)) = true := by decide +kernel
theorem test_tile_store :
    let s := sTileMem 0x2000 0 1
    after (.tSt issA tMem) s (fun u => tileIs u [(0, 0xA2A1)] && decide (u.mem = s.mem ∧
      (tabFind u.l2 0x40).map L2Line.data = some 0xA2A1 ∧ (tabFind u.l2 0x41).map L2Line.data = some 0)) =
      true := by decide +kernel
/-- An uncorrectable error in row 0 of tile 1 stops the store at that row (R196); FAULTINFO is
256 × 1 + 0, and memory is as before. -/
theorem test_tile_store_bad_row :
    let s := sTileMem 0x2000 0 1
    let x : Iss := { issA with ue := some (.row 0) }
    let bad (s t u : State) : Bool := decide (u = takeSync (countIssue (ueIn
      (stopAt t 0 (fun h => { h with tstart := 0 })) 0 256 inCore) 0) 0 0x41 256 ∧ u.l2 = s.l2)
    after (.tSt x tMem) s (fun u => bad s (modThread (fetched x s) 0 (fun t => { t with tstart := 0 })) u) &&
    decide (badRow x.ue [1, 2] = none) = true := by decide +kernel
theorem test_tile_descriptor_load :
    let s := sTileMem 0x2040 0 1
    decide ((tileDesc tMem 0 (fetched issA s)).2 = .inl descU8) &&
    after (.tLdDesc issA tMem) s (fun u => tileIs u [(0, BitVec.ofNat 2048
      (packCodes 8 ([1, 2, 3] ++ List.replicate 253 0xEE)))]) &&
    after (.tLdtDesc issA tMem) s (fun u => decide ((getThread u 0).pc = 0x1004)) &&
    after (.tStDesc issA tMem) s (fun u => tileIs u [(0, 0xA2A1)] && decide ((tabFind u.l2 0x40).map L2Line.data =
      some (linePut (linePut (linePut lineV 0 1 0xA1) 1 1 0xA2) 2 1 0))) = true := by decide +kernel

def aOwn (tile : BitVec 3) (d : BitVec 5) : ArrOwnForm := ⟨d, 0, 0, tile, false, false, 0⟩
def ours : Arr := { Arr.free with owner := some 0 }
def endsArr (s u : State) (f : Thread → Thread) (v : Arr) : Bool := endsCore s u f (fun k => { k with arr := v })
theorem test_array_claims :
    let s := sTile [] { Arr.free with lost := [0, 2] } [(3, 9)]
    let o := sTile [] ours [(3, 9)]
    let h := sTile [] { ours with owner := some 3 } [(3, 9)]
    after (.aClaim issA (aOwn 0 3)) s (fun u => endsArr s u (fun t => setG t 3 0) { ours with lost := [2] }) &&
    after (.aClaim issA (aOwn 0 3)) o (fun u => endsArr o u (fun t => setG t 3 0) ours) &&
    after (.aClaim issA (aOwn 0 3)) h (fun u => endsArr h u (fun t => setG t 3 2) { ours with owner := some 3 }) =
      true := by decide +kernel
theorem test_array_free_swap_load :
    let f : Plane := { Plane.zero with use := true }
    let s := sTile [(1, mine)] { ours with front := f } []
    let h := sTile [] { ours with owner := some 3 } []
    let n := sTile [] { Arr.free with lost := [0] } []
    after (.aFree issA (aOwn 0 0)) s (fun u => endsArr s u id { Arr.free with zeroing := true }) &&
    after (.aSwap issA (aOwn 0 0)) s (fun u => endsArr s u id { ours with back := f }) &&
    decide (modeOf 1 ≠ 6) &&
    after (.aLdw issA (aOwn 1 0)) s (fun u => endsArr s u id { ours with front := f, ldw := some (1, false) }) &&
    after (.aSwap issA (aOwn 0 0)) h (fun u => decide ((getThread u 0).astatReason = 1)) &&
    after (.aSwap issA (aOwn 0 0)) n (fun u => decide ((getThread u 0).astatReason = 2)) = true := by decide +kernel
theorem test_array_events :
    let s := sTile [(1, { mine with fmt := 2, rows := [(0, 0x20001), (1, 3)] })] { ours with ldw := some (1, false) } []
    let z := sTile [] { Arr.free with zeroing := true } []
    after (.aLdwDone ⟨0, 0⟩ none) s (fun u => decide ((getArr u 0).ldw = none ∧ (getArr u 0).back.use = true ∧
      planeVal (getArr u 0).back 1 0 = .fin false 2 0 ∧ planeVal (getArr u 0).back 0 1 = .fin false 3 0)) &&
    after (.aLdwDone ⟨0, 0⟩ (some 7)) s (fun u => decide ((getArr u 0).ldw = none ∧
      (getArr u 0).ldwErr = some 0x107 ∧ (getArr u 0).back.use = false ∧ u.mem = s.mem)) &&
    after (.arrayZeroDone ⟨0, 0⟩) z (fun u => decide (getCore u 0 = coreOn)) = true := by
  decide +kernel
/-- Thread 3 owns the array and has a save area at 0x10000; thread 0 has a higher priority. -/
def sSave (t : Nat) (o : Nat) (tsb : Word) : State :=
  { sTile [] { ours with owner := some o } [] with
    threads := [(0, { thread 0 0 0 with prio := 1 }), (3, { thread 0 0 0 with tsb := tsb })].filter
      (fun e => decide (t = 0 ∨ e.1 = t))
    mem := [(0x801A, 1)] }
theorem test_array_preempted :
    let s := sSave 0 3 0x8000
    let r := settleArray (fetched issA s) 0 3
    let w := saveArray r.1 3 0 (getArr r.1 0)
    decide ((getArr s 0).owner = some 3 ∧ (getThread s 3).prio < (getThread s 0).prio ∧ r.2 = true ∧
      w.2 = .ok) &&
    after (.aClaim issA (aOwn 0 3)) s (fun u => decide ((getThread u 0).pc = 0x1004 ∧
      getArr u 0 = { ours with lost := [3] } ∧ memLine u (0xB2000 / 128) = memLine w.1 (0xB2000 / 128))) =
      true := by decide +kernel
theorem test_array_forced_save :
    let s := sSave 3 3 0x8000
    let z := sSave 3 3 0
    let saves (s : State) (p : Put → Bool) : Bool :=
      (settleArray s 0 3).2 && p (saveArray (settleArray s 0 3).1 3 3 (getArr (settleArray s 0 3).1 0)).2
    mayWrite s .host 1 && saves s (fun p => decide (p = .ok)) && saves z (fun p => match p with
      | .fault _ _ => true
      | _ => false) &&
    after (.arrayForcedSave .host ⟨0, 0, 3⟩) s (fun u => decide (getArr u 0 = { Arr.free with lost := [3] })) &&
    after (.arrayForcedSave .host ⟨0, 0, 3⟩) z (fun u => decide (getArr u 0 = { ours with owner := some 3 } ∧
      (rget u (coreReg 0 0x58)).getLsbD 32 = true)) &&
    gives (.arrayForcedSave .host thrA) (sTile [] Arr.free []) (sTile [] Arr.free []) = true := by decide +kernel
/-- A stopped pass does not keep a.free with D = 1 from giving the array back; a running one does. -/
theorem test_array_free_discards :
    let p (st : PassState) : Pass := { passFrom [] 0 with state := st }
    let s (st : PassState) : State := sTile [] { ours with pass := some (p st) } []
    after (.aFree issA { aOwn 0 0 with dbit := true }) (s .stopped) (fun u => decide ((getArr u 0).owner = none ∧
      (getThread u 0).pc = 0x1004)) &&
    after (.aFree issA { aOwn 0 0 with dbit := true }) (s .running) (fun u => decide ((getArr u 0).owner = some 0 ∧
      (getThread u 0).hold = .unit .pass)) = true := by decide +kernel

/-- I16 weights W[0][0] = 3, W[1][0] = -2, W[0][5] = 7, a tile row 10, 4, and a pass of two rows to
rows 9 and 10 of plane 0, columns 128 to 255. -/
def weights : Plane := { Plane.zero with fmt := 2, use := true, cols := [(0, 0xFFFE0003), (5, 7)] }
def passForm1 : PassForm := ⟨3, 0, 1, 4, false, false, 0, false⟩
def sPass : State :=
  sTile [(0, { mine with fmt := 2, rows := [(0, 0x4000A), (1, 1)] })]
    { ours with front := weights, acc0 := { use := true, rows := [(9, 100 <<< 4096)] } } [(3, 0x902), (4, 2)]
theorem test_pass_starts :
    let s := sPass
    passForm issA passForm1 &&
    decide (passReasons (getArr s 0) passForm1 2 (getThread s 0) weights [] = [] ∧
      (passDesc (fetched issA s) 0 false 0).2 = .inl []) &&
    after (.aPass issA passForm1) s (fun u => match (getArr u 0).pass with
      | some p => decide (p.state = .running ∧ p.src = false ∧ p.op = 0 ∧ p.count = 2 ∧ p.dspec = 0x902 ∧
          p.enter = 0 ∧ p.inside = [] ∧ (getThread u 0).pc = 0x1004 ∧ (getArr u 0).front = weights)
      | none => false) = true := by decide +kernel
/-- The row of the tile enters; its outputs are 22 in column 0 and 70 in column 5. -/
theorem test_pass_rows :
    after (.aPass issA passForm1) sPass (fun s => arrayRuns s 0 &&
      after (.passRowEnter ⟨0, 0⟩) s (fun v => decide (((getArr v 0).pass.map (fun p => (p.enter, p.inside))) =
        some (1, [⟨0, 0x4000A, 0⟩])))) &&
    decide ((rowOutputs weights 2 0 false ⟨0, 0x4000A, 0⟩).take 6 = [.fin false 22 0, .fin false 0 0,
      .fin false 0 0, .fin false 0 0, .fin false 0 0, .fin false 70 0] ∧
      accumulate false 0 false 100 (.fin false 22 0) = (122, 0)) = true := by decide +kernel
/-- A pass with a row inside whose sources are lines at 0x2000, U8, and a row of output to stream. -/
def sInside : State :=
  let p : Pass :=
    { state := .running, src := true, ax := false, op := 0, sw := false, rnd := 0, srcAddr := 0, spos := 0
      count := 2, dspec := 0x902, daddr := 0, dpos := 0, srcDesc := descU8, dstDesc := [], reread := false
      seed := 0, ring := 0, aspace := 0, fmt := 1, enter := 0, done := 1, inside := [⟨1, 5, 0⟩], buffer := []
      flags := 0, due := none, fault := none, refused := false, mismatched := false }
  let s := sTileMem 0 0 0
  setArr s 0 { ours with front := weights, pass := some p }
theorem test_pass_stops :
    after (.passStop ⟨0, 0⟩ (some ⟨0, 1, 2⟩)) sInside (fun u => match (getArr u 0).pass with
      | some p => decide (p.state = .stopped ∧ p.done = 1 ∧ p.inside = [] ∧ p.fault = some (0x41, 0x102) ∧
          (getThread u 0).apos = 1 ∧ u.mem = [])
      | none => false) = true := by decide +kernel
theorem test_stream_port :
    let p := (getArr sInside 0).pass
    arrayRuns sInside 0 && after (.streamPortFetch ⟨0, 0⟩) sInside (fun u =>
      decide ((getArr u 0).pass = p.map (fun p => { p with buffer := [(0x40, lineV)] }))) &&
    gives (.passRowEnter ⟨0, 0⟩) { sInside with power := { sInside.power with dp := 0 } }
      { sInside with power := { sInside.power with dp := 0 } } = true := by decide +kernel
/-- Two rows of plane 0 drain into tile 1 as I8, with columns from 1 on, and are cleared. -/
def drainForm1 (clr : Bool) : DrainForm := ⟨1, 3, 0, 4, false, clr, 0⟩
def sDrain : State :=
  sTile [(1, { mine with fmt := 2, rows := [(0, 9), (2, 9)] })]
    { ours with front := weights, acc0 := { use := true, rows := [(0, 0x7FFFFFFF00000005), (2, 7)] } }
    [(3, 2), (4, 2)]
theorem test_drain :
    let s := sDrain
    drainForm issA (drainForm1 true) && drainRange 2 2 (tileCols 2) &&
    after (.aDrain issA (drainForm1 false)) s (fun u => decide ((tileOf u 0 1).rows = [(0, 0x7FFF0005), (2, 9)] ∧
      (getArr u 0).acc0 = (getArr s 0).acc0 ∧ (getThread u 0).pc = 0x1004)) &&
    after (.aDrain issA (drainForm1 true)) s (fun u => decide ((getArr u 0).acc0.rows = [(2, 7)])) = true := by
  decide +kernel
/-- Row 1 of plane 0 gains the products of the row inside: 22 at column 128 and 70 at column 133. -/
theorem test_pass_output :
    after (.aPass issA passForm1) sPass (fun s =>
      after (.passRowEnter ⟨0, 0⟩) s (fun v => arrayRuns v 0 &&
        after (.passRowOutput ⟨0, 0⟩ []) v (fun u => decide (
          ((getArr u 0).pass.map (fun p => (p.done, p.inside))) = some (1, []) ∧
          accElem (getArr u 0).acc0 9 128 = 122 ∧ accElem (getArr u 0).acc0 9 133 = 70 ∧
          accElem (getArr u 0).acc0 9 129 = 0)))) = true := by decide +kernel
/-- Two rows drain to the tensor at 0x2000, whose extent is 3, from column 0 on. -/
theorem test_drain_to_memory :
    let s := { sTileMem 0 0 2 with cores := [(0, { getCore (sTileMem 0 0 2) 0 with
      arr := { ours with acc0 := { use := true, rows := [(0, 0x0000000300000005), (1, 0x07)] } } })]
                                   threads := [(0, { thread 0 0 0 with g := [(1, 0x2040), (2, 2), (4, 1)] })] }
    let f : DrainForm := ⟨1, 2, 3, 4, true, false, 0⟩
    drainForm issA f && drainRange 2 1 3 && issuesB issA s &&
    decide ((passDesc (fetched issA s) 0 true 0x2040).2 = .inl descU8 ∧ is4 (dFmt descU8) = false ∧ dFmt descU8 ≠ 7) &&
    after (.aDrain issA f) s (fun u => decide ((getThread u 0).pc = 0x1004 ∧ (getThread u 0).tstart = 0 ∧
      (tabFind u.l2 0x40).map L2Line.data = some (linePut (linePut (linePut lineV 0 1 5) 1 1 3) 2 1 0))) =
      true := by decide +kernel

/-! ### Windows, way power, and the context store (R276 to R312, R321 to R366) -/

def upd (line : Nat) (age : Nat) : AccUpd := { line := line, acc := 1, fmt := 3, elems := [(2, 5)], agents := [0], cls := 3, age := age }
def sWin (w : Window) : State := setWindow (sVM 0 0 0 0) 0 w
def bank0 : BankRef := ⟨0, 0⟩
theorem test_combining_window :
    let s1 := sWin { Window.empty with arriving := [upd 0x40 3], entries := [upd 0x60 1, upd 0x40 9] }
    let s2 := sWin { Window.empty with arriving := [upd 0x40 3], entries := [upd 0x60 256] }
    let full := sWin { Window.empty with arriving := [upd 0x40 3], entries := (List.range 64).map (fun k => upd (0x800 + 32 * k) 1) }
    let other := sWin { Window.empty with arriving := [upd 0x40 3], entries := [upd 0x60 1, { upd 0x40 9 with acc := 2 }] }
    decide (bankBlocks s1 0 = false) &&
    after (.combiningUpdate bank0) s1 (fun u => decide (((getWindow u 0).entries.map (fun e => (e.line, e.elems))) =
      [(0x60, [(2, 5)]), (0x40, [(2, 10)])] ∧ (getWindow u 0).arriving = [])) &&
    after (.combiningUpdate bank0) s2 (fun u => decide ((getWindow u 0).entries = [upd 0x60 256, upd 0x40 0])) &&
    after (.combiningUpdate bank0) full (fun u => decide ((getWindow u 0).sent = [upd 0x800 1] ∧
      (getWindow u 0).entries.length = 64)) &&
    after (.combiningUpdate bank0) other (fun u => decide (getWindow u 0 =
      { Window.empty with entries := [upd 0x60 1, upd 0x40 0], sent := [{ upd 0x40 9 with acc := 2 }] })) &&
    decide (bankBlocks { s1 with regs := [] } 0 = true) &&
    after (.combiningUpdate bank0) { s1 with regs := [] } (fun u => decide (getWindow u 0 =
      { Window.empty with entries := [upd 0x60 1, upd 0x40 9], sent := [upd 0x40 3] })) &&
    after (.combiningSend bank0) s2 (fun u => decide (getWindow u 0 =
      { Window.empty with arriving := [upd 0x40 3], sent := [upd 0x60 256] })) = true := by decide +kernel
theorem test_accumulation :
    let s := sWin { Window.empty with sent := [upd 0x40 3] }
    after (.accumulateApply bank0) s (fun u => decide ((tabFind u.l2 0x40).map (fun l => (l.dirty, l.data)) =
      some (true, linePut lineV 8 4 (0x0C0B0A09 + 5)) ∧ (getWindow u 0).sent = [] ∧ u.mem = s.mem)) = true := by
  decide +kernel

def sWay (on state : Nat) (busy w : Nat) : State :=
  rset (sVM 0 0 0 0) (l2Off 0 0x100) (wd (on + state * 2 ^ 24 + busy * 2 ^ 56 + w * 2 ^ 48))
theorem test_way_power_commands :
    let s := sWay 7 7 0 0
    let p := l2Off 0 0x100
    mayWrite s .host 0 && wayUsable s 0 2 && !wayRetired s 0 3 &&
    (List.range 24).all (fun k => wayWanted s 0 k == wayUsable s 0 k) &&
    after (.wayPowerDown .host 0 2) s (fun u => decide (transition u 0 false = some 2 ∧ field (rget u p) 0 48 = 3 + 7 * 2 ^ 24 ∧
      u.l2 = s.l2)) &&
    after (.wayPowerUp .host 0 3) s (fun u => decide (transition u 0 true = some 3 ∧ field (rget u p) 0 48 = 15 + 7 * 2 ^ 24)) &&
    after (.wayPowerDown .host 0 1) (sWay 3 7 1 2) (fun u => decide (transition u 0 false = some 2)) = true := by decide +kernel
theorem test_way_transitions :
    let s := sWay 1 3 1 1
    let d := { s with l2 := [(0x40, { data := 7, bad := 0, dirty := true, way := 1, age := 0, sharers := [] }),
      (0x41, { data := 8, bad := 0, dirty := true, way := 2, age := 0, sharers := [] })] }
    decide (transition d 0 false = some 1) &&
    after (.wayCleanDone 0) d (fun u => decide (wayUsable u 0 1 = false ∧ (u.l2.map Prod.fst) = [0x41] ∧ u.mem = [(0x2000, 7)])) &&
    decide (transition (sWay 7 3 1 2) 0 true = some 2) &&
    gives (.wayPowerUpDone 0) (sWay 7 3 1 2) (sWay 7 3 1 2) &&
    after (.wayPowerUpDone 0) { sWay 7 3 1 2 with wayAge := [(0, 1024)] } (fun u => decide (wayUsable u 0 2 = true ∧ transition u 0 true = none)) = true := by
  decide +kernel
theorem test_lost_sets :
    let s := { sVM 0 0 0 0 with lost := [5, 32768] }
    after (.l2LostClr .host 0) s (fun u => decide (u.lost = [32768])) && gives (.l2LostClr .board 0) s s = true := by
  decide +kernel

theorem test_mmu_invalidation :
    let e (a : Option Nat) : TlbEnt := { asid := a, shift := 16, page := 3, pte := 1, addr := 0x100 }
    let s := { device Thread.off with tlbs := [(0, [e (some 5), e none, e (some 6)])] }
    let v : Word := 0x4001000000000005
    after (.mmuInval .host v) s (fun a => decide (rget a (dealOff 0) = 0x8001000000000005) &&
      after (.mmuInval .host v) a (fun b => decide (b.ctx.mmuQueued = [(0x1000000000005, 0), (0x1000000000005, 0)] ∧ bit (rget b (dealOff 0)) 63 = true) &&
        after .mmuInvalDone b (fun c => decide (c.ctx.mmuQueued = [(0x1000000000005, 0)] ∧
            getTlb c 0 = [e none, e (some 6)] ∧ bit (rget c (dealOff 0)) 63 = true) &&
          after .mmuInvalDone c (fun d => decide (rget d (dealOff 0) = 0x1000000000005))))) = true := by decide +kernel

/-- The kitty: HBM of quadrant 0 has pages 102 to 109, DDR5 pages 0x800001 to 0x800009. -/
def sKitty (c : Ctx) : State :=
  let s := device { thread 0 0 0 with hold := .ctx }
  rset (rset { s with ctx := c } (dealOff 0x1100) (wd (100 * 2 ^ 34 + 10))) (dealOff 0x1108) (wd (0x800000 * 2 ^ 34 + 10))
def held0 (n : CtxNeed) : CtxHeld := { thr := some 0, need := n, told := false }
theorem test_window_page :
    let s := sKitty { Ctx.empty with held := [held0 (.alloc 1)] }
    decide (findEnt s 1 = none ∧ keyGone s 1 = false ∧ keyLive s 1 = false ∧ 0 < generalFree s ∧ pickPage s (keyQuad 1) = some 102) &&
    after .windowAlloc s (fun u => decide (u.ctx =
      { Ctx.empty with ents := [(1, ⟨0, 102⟩)], pages := [(102, PageRec.plain 1 1)] }) &&
      decide ((getThread u 0).hold = .none)) = true := by decide +kernel
theorem test_copy_not_needed :
    let s := sKitty { Ctx.empty with held := [held0 (.copy 1)], ents := [(1, ⟨0, 103⟩)], pages := [(103, PageRec.plain 1 1)] }
    after .copyOnFirstWrite s (fun u => decide (u.ctx.held = [] ∧ u.ctx.ents = s.ctx.ents ∧ u.ctx.pages = s.ctx.pages ∧
      (getThread u 0).hold = .none ∧ u.mem = s.mem)) = true := by decide +kernel
theorem test_before_image_not_needed :
    let s := { sKitty { Ctx.empty with held := [held0 (.snap 3 0x2000)], images := [(3, 104)], snapCmd := 0 } with
      mem := [(0x2000, 9), (0x2007, 3)] }
    decide ((readPa s managerAgent 0x2000 8).2 = (0x0300000000000009, none)) &&
    after .snapshotCopy s (fun u => decide (u.ctx.held = [] ∧ u.ctx.images = [(3, 104)] ∧
      (readPa u managerAgent 0x2000 8).2 = (0x0200000000000009, none))) = true := by decide +kernel
theorem test_snapshots :
    let s := sKitty { Ctx.empty with images := [(3, 104)], pages := [(104, PageRec.plain 0 3)], shadowUsed := 1 }
    let s := rset s snapOff (wd (0xFF * 2 ^ 32 + 1))
    after (.release .host) s (fun a => decide (a.ctx = { s.ctx with snapCmd := 1 } ∧ bit (rget a snapOff) 63 = true) &&
      after .snapDone a (fun u => decide (u.ctx.images = [] ∧ u.ctx.snapCmd = 0 ∧ u.ctx.shadowUsed = 0 ∧
        findPage u 104 = none ∧ rget u snapOff = 0 ∧ u.mem = s.mem))) &&
    after (.restore .host) s (fun a => decide (a.ctx.snapCmd = 2)) = true := by decide +kernel

/-- A parked sequence 0 with its block in page 102, or in DDR5 page 0x800001 and live. -/
def seq0 (st : SeqState) : Sequence :=
  { state := st, part := false, grp := 0, copy := 0, slot := 0, plen := 2, len := 3, limit := 9, promptId := 7, user := 0
    skey := 0, changes := [(0, 1)], lastHand := 0, inHand := false, prefilled := true, ending := none, pinned := 0
    parkAt := 1, h64 := 0, h32 := 0, tag := none, mbs := (0, 0) }
def sTier (ppn tier : Nat) (st : SeqState) : State :=
  let s := sKitty { Ctx.empty with ents := [(0, ⟨tier, ppn⟩)], pages := [(ppn, PageRec.plain 1 1)] }
  rset { s with dealer := { Dealer.empty with seqs := [(0, seq0 st)] } } (dealOff 0x1010) 100
theorem test_demotion :
    let s := sTier 102 0 .parked
    decide (freeTier s false = 7 ∧ rfield s (dealOff 0x1010) 0 28 = 100 ∧
      demoteChoice s false = some (0, ⟨0, 102⟩) ∧ pickTier s (keyQuad 0) true = some 0x800001) &&
    after .tierDemote s (fun u => decide (u.ctx.demoting = true ∧ u.ctx.ents = [(0, ⟨2, 102⟩)] ∧
      u.ctx.moves = [{ key := 0, src := 102, dst := 0x800001, down := true }])) = true := by decide +kernel
theorem test_fetch :
    let s := rset (sTier 0x800001 1 .live) (jobOff 8) 1
    decide (dealState s = 1 ∧ leastBy (fun e => (fetchRank s e.1).getD (0, 0)) (s.ctx.ents.filter (fun e =>
      decide (e.2.tier = 1) && movable s e.2.ppn && (fetchRank s e.1).isSome)) = some (0, ⟨1, 0x800001⟩)) &&
    after .tierFetch s (fun u => decide (u.ctx.ents = [(0, ⟨2, 0x800001⟩)] ∧
      u.ctx.moves = [{ key := 0, src := 0x800001, dst := 102, down := false }])) = true := by decide +kernel
theorem test_move_ends :
    let s := sTier 102 2 .parked
    let s := { s with ctx := { s.ctx with moves := [{ key := 0, src := 102, dst := 103, down := true }] } }
    (copyPage { s with ctx := { s.ctx with moves := [] } } 102 103).2 &&
    after .tierMoveDone (remap (freePage s 102) 102 103) (fun u => decide (u.ctx.moves = [] ∧
      findPage u 103 = none)) = true := by decide +kernel
def sMove (held : List CtxHeld) (moves : List CtxMove) : State :=
  sKitty { Ctx.empty with ents := [(0, ⟨2, 102⟩)], pages := [(102, PageRec.plain 1 1)], held := held, moves := moves }
def move1 : CtxMove := { key := 0, src := 102, dst := 103, down := false }
/-- Two entries share page 102; the writer of entry 1 waits for a page of its own, which is page 103. -/
def sShared (pages : Tab PageRec) (moves : List CtxMove) : State :=
  sKitty { Ctx.empty with ents := [(0, ⟨2, 102⟩), (1, ⟨2, 102⟩)], pages := pages, held := [held0 (.copy 1)], moves := moves }
def copied : State := sShared [(102, PageRec.plain 2 1), (103, PageRec.plain 1 1)] []
theorem test_page_copies : (copyPage copied 102 103).2 = true := by decide +kernel
/-- Page 102 is copied where a move to page 103 ends, and where its first write after sharing copies it. -/
theorem witness_copies :
    let m := sShared [(102, PageRec.plain 2 1), (103, PageRec.plain 1 1)] [move1]
    let s := sShared [(102, PageRec.plain 2 1)] []
    { m with ctx := { m.ctx with moves := [] } } = copied ∧ setPage s 103 (.plain 1 1) = copied ∧
    quarterTested s (keyQuad move1.key) = false ∧ quarterTested s (homeQuad (102 * 65536)) = false ∧ keyLive s 1 = false ∧
    0 < generalFree s ∧ findEnt s 1 = some ⟨2, 102⟩ ∧ pickPage s (homeQuad (102 * 65536)) = some 103 ∧
    findPage m 102 = some (.plain 2 1) ∧ (getThread m 0).hold = .ctx := by decide +kernel
theorem test_move_maps : after .tierMoveDone (sMove [held0 (.move 0)] [move1]) (fun u => decide (u.ctx.moves = [] ∧
    findPage u 102 = none ∧ findPage u 103 = some (PageRec.plain 1 1) ∧ u.ctx.ents = [(0, ⟨0, 103⟩)] ∧ u.ctx.held = [] ∧
    (getThread u 0).hold = .none)) = true := by decide +kernel
theorem test_context_writes :
    let s := sKitty { Ctx.empty with ents := [(0, ⟨0, 102⟩), (1, ⟨0, 103⟩), (1 + 2 * 16384 * 256, ⟨0, 104⟩)] }
    after (.ctxMbWrite .host 0x12345) s (fun u => decide (rget u (jobOff 0x58) = 0x345)) &&
    after (.ctxStashFree .host 1) s (fun u => decide (u.ctx.ents = [(0, ⟨0, 102⟩), (1, ⟨0, 103⟩)])) &&
    after (.ctxStashFree .host 0x100) s (fun u => decide (u.ctx.ents = [(0, ⟨0, 102⟩)])) = true := by decide +kernel

/-! ### The dealer (R12 to R30, R351 to R366) -/

/-- The dealer leads in state `st`; sequence 0 is live, its block in HBM. -/
def sDeal (st : Nat) (d : Dealer) : State :=
  let s := sKitty { Ctx.empty with ents := [(0, ⟨0, 102⟩), (1, ⟨0, 103⟩)], pages := [(102, PageRec.plain 1 1), (103, PageRec.plain 1 1)] }
  let s := rset { s with dealer := d } (jobOff 8) (wd (st + 0xF0))
  rset (rset s (dealOff 0x10000) (2 ^ 48 + 0x1004)) (dealOff 0x10048) (wd (4 * 2 ^ 48 + 0x20000))
def live0 : Dealer := { Dealer.empty with seqs := [(0, seq0 .live), (5, seq0 .carry)], version := 3 }
theorem test_phase_commands_refused :
    let s := sDeal 2 live0
    let n := rset s (dealOff 0x10000) 0
    mayWrite s .host 3 && isLead s && decide (dealState s = 2) &&
    gives (.startG .board 7) s s &&
    gives (.stop .host) s (rsetField s (jobOff 8) 4 4 1) && gives (.endG .host) s (rsetField s (jobOff 8) 4 4 1) &&
    gives (.startG .host 7) n (rsetField n (jobOff 8) 4 4 2) = true := by decide +kernel
theorem test_start_generation :
    after (.startG .host 7) (sDeal 3 live0) (fun u => decide (dealState u = 1 ∧ u.dealer.version = 7 ∧
      rfield u (jobOff 8) 4 4 = 0 ∧ u.dealer.seqs = [(0, seq0 .live)])) = true := by decide +kernel
theorem test_end_generation :
    let h : HandRec := { id := 4, slot := 0, prefill := false, part := false, version := 3, entries := [] }
    after (.endG .host) (sDeal 1 { live0 with hands := [h] }) (fun u => decide (dealState u = 2 ∧ u.dealer.hands = [h])) &&
    after (.endG .host) (sDeal 1 Dealer.empty) (fun u => decide (dealState u = 3 ∧ u.dealer.shrinking = true)) &&
    after (.stop .host) (sDeal 3 { live0 with shrinking := true }) (fun u => decide (dealState u = 0 ∧
      u.dealer = live0)) = true := by decide +kernel
theorem test_dealer_reset :
    let d := { live0 with seqs := [(0, { seq0 .live with changes := [(0, 1), (4, 9)] }), (2, { seq0 .live with inHand := true })] }
    after (.reset .host 5) (sDeal 1 d) (fun u => decide (dealState u = 0 ∧ u.dealer.hands = [] ∧
      u.dealer.seqs = [(2, { seq0 .parked with parkAt := 1, pinned := 3 })] ∧ u.ctx.ents = [])) = true := by decide +kernel
theorem test_drained :
    gives .lastHandDrained (sDeal 1 live0) (sDeal 1 live0) && gives .formHand (sDeal 2 live0) (sDeal 2 live0) &&
    after .lastHandDrained (sDeal 2 Dealer.empty) (fun u => decide (dealState u = 3)) = true := by decide +kernel
theorem test_form_hand :
    let s := sDeal 1 live0
    decide (handSlots s = [0, 1] ∧ dealCount s 0 = 0 ∧ waitingGroups s false = []) && seqReady s 0 (seq0 .live) &&
    after .formHand s (fun u => decide (u.dealer.hands = [{ id := 0, slot := 0, prefill := false, part := false
                                                            version := 3, entries := [(0, 2, 1)] }] ∧
      u.dealer.turn = true ∧ u.dealer.nextHand = 1 ∧
      u.dealer.seqs = [(0, { seq0 .live with inHand := true, lastHand := 1 }), (5, seq0 .carry)])) = true := by decide +kernel
theorem test_hand_done :
    let h : HandRec := { id := 4, slot := 0, prefill := false, part := false, version := 3, entries := [] }
    let s := setObj (sDeal 1 { live0 with hands := [h] }) 0 { SyncObj.zero with value := 2 }
    decide (doneObject s = 0) &&
    after .handDone s (fun u => decide (u.dealer.hands = [] ∧ (getObj u 0).value = 1)) &&
    gives .handDone (sDeal 1 live0) (sDeal 1 live0) = true := by decide +kernel
theorem test_retirement :
    let s := sDeal 1 live0
    let f := sDeal 1 { live0 with seqs := [(0, { seq0 .live with inHand := true })] }
    decide (poolFull s false = false ∧ poolTail s = 0) &&
    after (.dealRetire .host 0) s (fun u => decide (u.dealer.seqs = [(5, seq0 .carry)] ∧ poolTail u = 1 ∧
      u.ctx.ents = [(1, ⟨0, 103⟩)])) &&
    after (.dealRetire .host 0) f (fun u => decide (u.dealer.seqs =
      [(0, { seq0 .live with inHand := true, ending := some 5 })])) &&
    after (.poolHeadAdvance .host 0x500000001) s (fun u => decide (rget u (jobOff 0x28) = 1)) = true := by decide +kernel

/-! ### Synchronisation (R371 to R396) -/

def syF (d a b : BitVec 5) : SyncForm := ⟨d, a, b, 0⟩
def asThread (t : Thread) : State := device { t with hold := .sync }
def opBy (k : SyncKind) (src : SyncBy) (arg : BitVec 32) : SyncOp := { seq := 0, kind := k, src := src, obj := 5, arg := arg }
/-- One operation on object 5 is at its home. -/
def sHome (op : SyncOp) (o : SyncObj) : State :=
  { setObj (asThread (thread 5 3 0)) 5 o with syncQ := [(0, [op])] }
def val5 (v : BitVec 32) : SyncObj := { SyncObj.zero with value := v }

/-- The operation is on its way to the home of object 5, and its thread waits. -/
def sendsOp (c : Instr) (k : SyncKind) (d : BitVec 5) : Bool :=
  let s := run 5 3 0
  let u := modThread (sendSync (fetched issA s) (opBy k (.thread thrA d) 3)) 0 (fun h => { h with hold := .sync })
  gives c s (modThread (countIssue u 0) 0 (fun h => { h with begun := true }))
/-- A thread at ring 2 whose page table maps the first 1 GiB onto itself for every ring. -/
def ring2 : State :=
  { device { thread 5 3 0 with ring := 2, aspace := 0x10001 } with
    mem := [(0x10001, 0x10), (0x10002, 0x01), (0x10007, 0x80), (0x11007, 0xFE)] }
theorem test_local_sends :
    (sendsOp (.sWait issA (syF 4 1 2)) .wait 4 && sendsOp (.sTake issA (syF 4 1 2)) .take 4 &&
    sendsOp (.sSig issA (syF 0 1 2)) .sig 0 && sendsOp (.sSet issA (syF 0 1 2)) .set 0 &&
    issuesB issA ring2 &&
    gives (.sSet issA (syF 0 1 2)) ring2 (takeSync (countIssue (fetched issA ring2) 0) 0 0x03 0x1000)) = true := by
  decide +kernel

/-- Port 0 is UP, its peer is device 9, and it has credits. -/
def sPort (s : State) : State :=
  let p := { Port.down with credits := [(0, 256), (1, 256), (2, 256), (3, 256), (4, 256)] }
  setPort (rset (rset s (portOff 0 0) (wd (9 * 2 ^ 44 + 3))) (portOff 0 8) 6) 0 p
/-- A signal to device 9 leaves through port 0. -/
theorem test_remote_signal :
    let s := sPort (device { thread 5 3 9 with g := [(1, 5), (2, 3), (4, 9)] })
    let x : Iss := ⟨thrA, some ⟨.none, 4, 0, 0, 0⟩, none, 0, none⟩
    (issuesB x s && decide ((emitPacket (fetched x s) 5 0 none (sigFrom s 9 0xFE 0 5 3 0)).2 = some 0) &&
    after (.sSig x (syF 0 1 2)) s (fun u => decide ((getThread u 0).sigOut = [(9, 5, 0)] ∧ (getThread u 0).pc = 0x1008 ∧
      (getPort u 0).egress.waiting.map (fun w => w.item.pkt) = [sigFrom s 9 0xFE 0 5 3 0]))) = true := by decide +kernel
theorem test_dump_hypotheses :
    let s := run 0x2000 0 0
    issuesB issA s && decide ((getG (getThread s 0) 1).toNat % 64 = 0 ∧ (getThread s 0).ring.toNat < 2) = true := by decide +kernel
theorem test_fences :
    let s := run 0 0 0
    let w := { run 0 0 0 with writes := [{ id := 3, agents := [0], line := 7, acks := [1] }] }
    let z := syF 0 0 0
    [(Instr.fLd issA z, FenceKind.ld), (.fSt issA z, .st), (.fAll issA z, .all), (.fDev issA z, .dev), (.fSys issA z, .sys)].all
      (fun c => fenceMet (flushAgent (fetched issA s) 0) 0 c.2 &&
        after c.1 s (fun u => decide ((getThread u 0).pc = 0x1004 ∧ (getThread u 0).hold = .none))) &&
    !fenceMet (flushAgent (fetched issA w) 0) 0 .dev &&
    after (.fDev issA z) w (fun u => decide ((getThread u 0).hold = .fence .dev ∧ (getThread u 0).pc = 0x1000) &&
      gives (.fenceComplete thrA) u u &&
      after (.fenceComplete thrA) { u with writes := [] } (fun v =>
        decide ((getThread v 0).hold = .none ∧ (getThread v 0).pc = 0x1004))) = true := by decide +kernel
theorem test_home_signal_and_set :
    let a := sHome (opBy .sig .host 4) (val5 3)
    let b := sHome (opBy .set .host 4) { val5 3 with err := true }
    let c := sHome (opBy .setErr .unit 4) { val5 3 with waiters := [⟨9, true, 5⟩] }
    let d := sHome (opBy .sig (.thread thrA 0) 0xFFFFFFFF) (val5 3)
    decide (outOfRange a (opBy .sig .host 4) = false) &&
    after (.syncHomeOp 0) a (fun u => decide (u.sync = [(5, val5 7)] ∧ u.syncQ = [])) &&
    after (.syncHomeOp 0) b (fun u => decide (u.sync = [(5, val5 4)])) &&
    after (.syncHomeOp 0) c (fun u => decide (u.sync = [(5, { val5 3 with err := true })] ∧ u.releases = [⟨9, true, true⟩])) &&
    gives (.syncHomeOp 0) d (takeSync { d with syncQ := [] } 0 0x0F 5) = true := by decide +kernel
theorem test_home_wait_and_take :
    let home (k : SyncKind) (arg : BitVec 32) (o : SyncObj) (p : State → Bool) : Bool :=
      after (.syncHomeOp 0) (sHome (opBy k (.thread thrA 4) arg) o) p
    let goes (u : State) (st : Word) : Bool := decide ((getThread u 0).mode = .run ∧ (getThread u 0).hold = .none ∧
      (getThread u 0).pc = 0x1004 ∧ getG (getThread u 0) 4 = st)
    home .wait 3 (val5 3) (fun u => goes u 0 && decide (u.sync = [(5, val5 3)])) &&
    home .take 3 (val5 4) (fun u => goes u 0 && decide (u.sync = [(5, val5 1)])) &&
    home .take 3 { val5 0 with err := true } (fun u => goes u 1) &&
    home .take 3 (val5 2) (fun u => decide (u.sync = [(5, { val5 2 with waiters := [⟨0, true, 3⟩] })] ∧
      (getThread u 0).mode = .wait ∧ (getThread u 0).waitReg = 4 ∧ (getThread u 0).pc = 0x1000)) = true := by decide +kernel
theorem test_wait_release :
    let s := { device { thread 0 0 0 with mode := .wait, waitReg := 4 } with releases := [⟨9, false, true⟩, ⟨0, true, true⟩] }
    after (.waitRelease 0) s (fun u => decide (u.releases = [⟨9, false, true⟩] ∧ (getThread u 0).mode = .run ∧
      (getThread u 0).pc = 0x1004 ∧ getG (getThread u 0) 4 = 1)) = true := by decide +kernel
theorem test_host_operation :
    let s := run 0 0 0
    mayWrite s .host 1 &&
    gives (.syncHostOpSig .host 1 3 9) s (sendSync s { seq := 0, kind := .sig, src := .host, obj := 16387, arg := 9 }) &&
    gives (.syncHostOpSet .host 1 3 9) s (sendSync s { seq := 0, kind := .set, src := .host, obj := 16387, arg := 9 }) = true := by
  decide +kernel
theorem test_deadlock :
    let w := device { thread 0 0 0 with mode := .wait, stalled := 1048576 }
    let s := { rset w (syncOff 0 0x100) (2 ^ 63) with deadArmed := true }
    (bit (rget s (syncOff 0 0x100)) 63 && !bit (rget s (syncOff 0 0x100)) 62 && s.deadArmed && deadlocked s &&
    gives .deadlockDeclare w w) = true := by decide +kernel

/-! ### Links (R397 to R412, R423 to R430) -/

/-- Port 0 in state `st`, direct to device 9, generations up to 2, of 3 tries. -/
def sLink (st : Nat) : State :=
  let s := device Thread.off
  rset (rset s (portOff 0 0) (wd (9 * 2 ^ 44 + 3 + 2 * 2 ^ 8 + 3 * 2 ^ 32))) (portOff 0 8) (wd st)
/-- The command takes port 0 to a state and changes nothing else but its registers and the port. -/
def moves (c : Instr) (s : State) (st : Nat) : Bool :=
  after c s (fun u => decide (portState u 0 = st ∧ u.mem = s.mem ∧ tabDel u.ports 0 = tabDel s.ports 0 ∧
    tabDel u.regs (portOff 0 8) = tabDel s.regs (portOff 0 8)))
theorem test_bring_up :
    (moves (.detect 0 true) (sLink 1) 2 && moves (.detect 0 false) (sLink 1) 1 &&
    peerFits (sLink 2) 0 9 && moves (.negotiate 0 3 9) (sLink 2) 3 && moves (.negotiate 0 4 9) (sLink 2) 2 &&
    moves (.negotiate 0 3 8) (sLink 2) 7 && decide (commonGen (sLink 2) 0 3 = 2 ∧ commonGen (sLink 2) 0 4 = 0) &&
    moves (.train 0 true) (sLink 3) 4 && moves (.train 0 false) (sLink 3) 3 &&
    moves (.align 0 true) (sLink 4) 5 && moves (.align 0 false) (sLink 4) 4 &&
    after (.init 0) (sLink 5) (fun u => decide (portState u 0 = 6 ∧
      (List.range 8).all (fun c => tabGet (fun _ => 0) (getPort u 0).credits c == 256) ∧
      (getPort u 0).rxNext = 0 ∧ (getPort u 0).txSeq = 0))) = true := by decide +kernel
theorem test_attempts :
    let s := setPort (sLink 3) 0 { Port.down with attempt := 100000000 }
    let l := setPort (sLink (3 + 2 * 2 ^ 12)) 0 { Port.down with attempt := 100000000 }
    (moves (.attemptTimeout 0) s 1 && moves (.attemptTimeout 0) l 7 &&
    after (.retrain .host 0) (sLink 7) (fun u => decide (portState u 0 = 1 ∧ rfield u (portOff 0 8) 12 4 = 0 ∧
      getPort u 0 = Port.down)) &&
    after (.disable .host 0) (sLink 6) (fun u => decide (portState u 0 = 0 ∧ bit (rget u (portOff 0 0x10)) 0 = true))) = true := by
  decide +kernel
theorem test_port_leaves_up :
    let s := sLink 6
    let g : SentGroup := { gseq := 5, flits := [⟨2, true, [1]⟩], hdrs := [], packets := [], link := [9] }
    let h := setPort s 0 { Port.down with txHeld := [g], owed := [(2, 7)] }
    let r := setPort s 0 { Port.down with txHeld := [g], resends := 8 }
    (portUp s 0 && decide (portBlocked s 0 = none) && decide (ackGroups 4 [g] = [g]) &&
    after (.portLeavesUp 0 4) s (fun u => decide (portState u 0 = 1 ∧ rfield u (portOff 0 8) 8 4 = 4 ∧
      rfield u (portOff 0 8) 12 4 = 1 ∧ getPort u 0 = Port.down)) &&
    gives (.idleLinkFlit 0) h (setPort h 0 (idleFlit (getPort h 0))) &&
    decide ((idleFlit (getPort h 0)).owed = []) &&
    decide (linkCredits { link := (idleFlit (getPort h 0)).wire.headD [], flits := [], fecu := 0, fecc := 0 } = [0, 0, 7, 0, 0, 0, 0, 0]) &&
    after (.nak 0 4) h (fun u => decide (u.ports = [(0, { Port.down with txHeld := [g], owed := [(2, 7)], resends := 1, wire := [[9], sentFlit ⟨2, true, [1]⟩] })])) &&
    after (.nak 0 4) r (fun u => decide (portUp u 0 = false))) = true := by decide +kernel

def pkt (k : PktType) : Packet :=
  { type := k, acc := 1, fmt := 3, len := 4, dst := 0, src := 9, sq := 0, tag := 7, addr := 0x2004, obj := 5, value := 3
    status := 0, data := [1, 0, 0, 0] }
/-- The sender of port 0 after a first and a second group of one packet each, and the groups it sends. -/
def send0 : Port := pushTx Port.down ⟨2, pkt .put, 0⟩
def send1 : Port := pushTx (closeGroup send0) ⟨2, { pkt .put with tag := 8 }, 0⟩
def groupOf (t : Port) : Group :=
  { link := (closeGroup t).wire.headD [], flits := (closeGroup t).wire.drop 1, fecu := 0, fecc := 0 }
theorem test_link_flits :
    (lcrcGood (groupOf send0) && decide ((openGroup send0).isSome = true ∧ linkSeq (groupOf send0) = 0 ∧
      linkNpf (groupOf send0) = 1 ∧ linkVc (groupOf send0) 0 = 10 ∧ linkSeq (groupOf send1) = 1 ∧
      linkAck (groupOf send1) = 0xFFFF ∧ linkNak (groupOf send1) = false ∧
      readGroup (groupOf send0) [] = ([(2, some [pkt .put])], []) ∧
      linkFcrc (groupOf send1) 0 = linkCrc (sentFlit ⟨2, true, cellBytes (pkt .put)⟩))) = true := by decide +kernel
/-- The check value of CRC-32C: the digits 1 to 9. -/
theorem test_link_crc : linkCrc [0x31, 0x32, 0x33, 0x34, 0x35, 0x36, 0x37, 0x38, 0x39] = 0xE3069283 := by decide +kernel
/-- A long packet: its header stands in the link flit, and a second flit is needed for 300 bytes. -/
theorem test_long_packet :
    let y : Packet := { pkt .put with len := 300, data := List.replicate 300 5 }
    let t := pushTx (pushTx Port.down ⟨3, y, 0⟩) ⟨3, y, 1⟩
    decide (packetFlits y = 2 ∧ linkNpf (groupOf t) = 2 ∧ (readGroup (groupOf t) []).1.map (fun r => (r.1, r.2.map List.length)) =
      [(3, some 0), (3, some 1)] ∧ readHeader (linkHdr (groupOf t) 0) = some { y with data := [] } ∧
      ((readGroup (groupOf t) []).1.drop 1).map Prod.snd = [some [y]]) = true := by decide +kernel
theorem test_headers :
    let y : Packet := { type := .red, acc := 0xA, fmt := 5, len := 0xFEDC, dst := 0x98765, src := 0x43210, sq := 0xEF,
                        tag := 0xCDAB8967, addr := 0x452301FEDCBA, obj := 0x9876, value := 0x54321012, status := 0x34, data := [] }
    decide (readHeader (headerBytes y) = some y ∧ (headerBytes y).length = 32 ∧ readHeader (0x0B :: (headerBytes y).drop 1) = none) =
      true := by decide +kernel
theorem test_groups :
    let s := sPort (device Thread.off)
    let g := groupOf send0
    let bad : Group := { g with link := 1 :: g.link.drop 1, fecu := 3 }
    let wait := setPort s 0 { getPort s 0 with nakOut := true }
    (portUp s 0 && !lcrcGood bad && after (.groupReceive 0 bad) s (fun u => decide ((getPort u 0).nakOut = true ∧
      (getPort u 0).rxHeld = none ∧ (getPort u 0).rxNext = 0 ∧ rfield u (portOff 0 0x18) 32 16 = 1 ∧
      rfield u (portOff 0 0x18) 48 16 = 3)) &&
    heldGood (getPort s 0) g && decide (linkSeq (groupOf send1) ≠ (getPort wait 0).rxNext) &&
    after (.groupReceive 0 (groupOf send1)) wait (fun u => decide (u.ports = wait.ports)) &&
    after (.groupReceive 0 g) s (fun u => decide ((getPort u 0).rxHeld = some g ∧
      (getPort u 0).rxNext = 1 ∧ rxQueue u 0 2 = []) && heldGood (getPort u 0) (groupOf send1) &&
      after (.groupReceive 0 (groupOf send1)) u (fun v => decide (rxQueue v 0 2 = [pkt .put] ∧
        (getPort v 0).rxHeld = some (groupOf send1))) &&
      after (.groupReceive 0 (groupOf send0)) u (fun v => decide ((getPort v 0).nakOut = true ∧ (getPort v 0).rxNext = 0)))) =
      true := by decide +kernel

/-- A packet heads channel c of port 0; the responder's table maps the first 1 GiB, with U8 line 0x40. -/
def sRx (x : Packet) : State :=
  let s := sPort { sVM 0 0 0 0 with
    l2 := [(0x40, { data := lineV, bad := 0, dirty := false, way := 0, age := 0, sharers := [] })]
    mem := [(0x10001, 0x10), (0x10002, 0x01), (0x10007, 0x80), (0x11007, 0xFE)] }
  setRx (rset s (linkOff 0 0x410) 0x10001) 0 2 [x, pkt .mgmt]
/-- The packet is gone, and the reply waits at port 0. -/
def answered (c : Instr) (s : State) (r : List Packet) (line : Line) : Bool :=
  after c s (fun u => decide (rxQueue u 0 2 = [pkt .mgmt] ∧
    (getPort u 0).egress.waiting.map (fun w => w.item.pkt) = r ∧
    (tabFind u.l2 0x40).map L2Line.data = some line ∧ u.mem = s.mem))
def ack7 : Packet := { packetTo State.reset .writeAck 9 0 7 with addr := 0x2004 }
theorem test_remote_accesses :
    (decide (rxHead (sRx (pkt .put)) 0 2 .put = some (pkt .put)) &&
    (match (engWrite (rxAgent (sRx (pkt .put)) 0 2) [.put 0x2004 4 1] (sRx (pkt .put))).2 with
      | .ok => true
      | _ => false) && accLegal (pkt .putAcc) &&
    answered (.put 0 2) (sRx (pkt .put)) [ack7] (linePut lineV 4 4 1) &&
    answered (.getReq 0 2) (sRx (pkt .getReq)) [{ packetTo State.reset .getResp 9 0 7 with
      addr := 0x2004, len := 4, data := [5, 6, 7, 8] }] lineV) = true := by decide +kernel
/-- Accumulating writes wait in the window of their bank, and the packet until they are performed. -/
theorem test_remote_accumulation :
    after (.putAcc 0 2) (sRx (pkt .putAcc)) (fun u => decide (rxQueue u 0 2 = [pkt .putAcc, pkt .mgmt] ∧ headWritten u 0 2 = true ∧
      (u.windows.map (fun w => (w.2.sent ++ w.2.arriving ++ w.2.entries).map (fun e => (e.line, e.elems)))) =
        [[(0x40, [(1, 1)])]]) &&
      after (.putAcc 0 2) { u with windows := [] } (fun v => decide (rxQueue v 0 2 = [pkt .mgmt] ∧
        (getPort v 0).egress.waiting.map (fun w => w.item.pkt) = [ack7]))) = true := by decide +kernel

/-- Queue 0 awaits tag 7. -/
def flight7 : Flight :=
  { id := 2, desc := { words := [], addr := 0, poster := none }, awaits := [(7, 3), (8, 3)]
    places := [{ tag := 7, half := 0, block := none, wr := .put 0x2000 4 0 }], ready := [], signalled := false
    sigPort := none, pot := false }
def sAwait (x : Packet) : State :=
  setQueue (rset (sRx x) (teOff 0 8) 0x10001) 0 { TeQueue.empty with flight := [flight7] }
theorem test_responses :
    (decide ((flightOf (sAwait (pkt .writeAck)) 0 7).map Flight.id = some 2) &&
    after (.writeAck 0 2) (sAwait (pkt .writeAck)) (fun u => decide ((getQueue u 0).flight.map Flight.awaits = [[(8, 3)]] ∧
      rxQueue u 0 2 = [pkt .mgmt])) &&
    decide (slotOf (setSlot (sRx { pkt .writeAck with sq := 0xFF }) 5 { PotSlot.idle with state := 1, unacked := [7, 9] }) 7 =
      some (5, { PotSlot.idle with state := 1, unacked := [7, 9] })) &&
    after (.writeAck 0 2) (setSlot (sRx { pkt .writeAck with sq := 0xFF }) 5 { PotSlot.idle with state := 1, unacked := [7, 9] }) (fun u =>
      decide ((getSlot u 5).unacked = [9] ∧ rxQueue u 0 2 = [pkt .mgmt])) &&
    after (.getResp 0 2) (sAwait (pkt .getResp)) (fun u => decide ((getQueue u 0).flight.map Flight.awaits = [[(8, 3)]] ∧
      rxQueue u 0 2 = [pkt .mgmt] ∧ (tabFind u.l2 0x40).map L2Line.data = some (linePut lineV 0 4 1)))) = true := by
  decide +kernel
theorem test_remote_signals :
    let a : Packet := { pkt .sigAck with sq := 0xFE, tag := 0 }
    let s := { sRx a with threads := [(0, { thread 0 0 0 with sigOut := [(9, 5, 0)] })] }
    (after (.sig 0 2) (sRx (pkt .sig)) (fun u => decide (rxQueue u 0 2 = [pkt .mgmt] ∧
      u.syncQ = [(0, [{ seq := 0, kind := .sig, src := .remote (pkt .sig) 0, obj := 5, arg := 3 }])])) &&
    after (.sigAck 0 2) s (fun u => decide (rxQueue u 0 2 = [pkt .mgmt] ∧ u.threads = [(0, thread 0 0 0)]))) = true := by
  decide +kernel
def slot5 : PotSlot := { PotSlot.idle with state := 1, words := [0, 0, 512, 0, 0, 0, 0, 0], base := 3 }
theorem test_reduction_packets :
    let s := setSlot (sRx (pkt .red)) 5 slot5
    let b := setSlot (sRx (pkt .redAbort)) 5 { slot5 with blocks := [(3, { count := 1, sums := 5 })] }
    (decide (3 < 3 + slotBlocks slot5) &&
    after (.red 0 2) s (fun u => decide (rxQueue u 0 2 = [pkt .mgmt] ∧
      (getPot u 0).waiting.map (fun w => w.item) = [{ rid := 5, idx := 3, vals := 1, from? := some (pkt .red), abort := false }])) &&
    after (.redAbort 0 2) b (fun u => decide ((getSlot u 5).state = 2 ∧ (getSlot u 5).blocks = []))) = true := by decide +kernel

/-! ### Transfer engines and pots (R415 to R436) -/

/-- Queue 0 is in service for ring 0, with translation off; line 0x40 is at home. -/
def sQueue (q : TeQueue) : State :=
  setQueue (rset { sVM 0x2000 0 0 0 with
    l2 := [(0x40, { data := lineV, bad := 0, dirty := false, way := 0, age := 0, sharers := [] })] } (teOff 0 0) (2 ^ 63)) 0 q
def descOf (ws : List Word) : Desc := { words := ws, addr := 0x2040, poster := some 0 }
def headed (ws : List Word) : State := sQueue { TeQueue.empty with descs := [descOf ws] }

theorem test_post_and_query :
    let s := sQueue TeQueue.empty
    (issuesB issA s && (match (gather issA 0 (threadAgent (fetched issA s) 0) 64 [(0x2000, 64)] (fetched issA s)).2 with
      | .vals _ => true
      | _ => false) && decide (postStatus s 0 0 = 0) &&
    after (.dPost issA (syF 4 1 2)) s (fun u => decide ((getThread u 0).pc = 0x1004 ∧ getG (getThread u 0) 4 = 0 ∧
      (getQueue u 0).descs.map (fun d => (d.words.take 2, d.addr, d.poster)) =
        [([0x0807060504030201, 0x100F0E0D0C0B0A09], 0x2000, some 0)])) &&
    after (.dPost issA (syF 4 1 2)) (sVM 0x2000 0 0 0) (fun u => decide (getG (getThread u 0) 4 = 2 ∧ (getQueue u 0).descs = [])) &&
    after (.dQuery issA (syF 4 0 2)) s (fun u => ends s u (fun t => setG t 4 256) 0x1004)) = true := by decide +kernel
/-- A copy of 4 bytes from 0x2000 to 0x2010; kind 15; a WAIT and a TAKE for 3 units of object 5. -/
theorem test_descriptors_start :
    let c := [wd (1 * 2 ^ 60), 4, 0x2000, 0x2010, 0, 0, 0, 0]
    let w (k : Nat) := [wd (k * 2 ^ 60), 0, 0, 0, wd (3 * 2 ^ 16 + 5), 0, 0, 0]
    (decide (headStarts (headed c) 0 = some (descOf c)) && descGood 0 (descOf c) && !descGood 0 (descOf (w 15)) &&
    !descRemote (headed c) (descOf c) && descGood 0 (descOf (w 8)) &&
    after (.descStart 0) (headed c) (fun u => decide ((getQueue u 0).descs = [] ∧ (getQueue u 0).flight.map (fun f => f.desc) = [descOf c] ∧
      (tabFind u.l2 0x40).map L2Line.data = some (linePut lineV 0x10 4 0x04030201))) &&
    gives (.wait 0) (headed (w 8)) (sendSync (sQueue { TeQueue.empty with descs := [descOf (w 8)], waiting := true })
      { seq := 0, kind := .wait, src := .queue 0, obj := 5, arg := 3 }) &&
    after (.take 0) (headed (w 9)) (fun u => decide (u.syncQ = [(0, [{ seq := 0, kind := .take, src := .queue 0, obj := 5, arg := 3 }])]))) =
      true := by decide +kernel
/-- The hypotheses under which the copy of `test_descriptors_start` runs; queue 0 waits while it is queue 3's turn. -/
theorem test_descriptor_hypotheses :
    let c := [wd (1 * 2 ^ 60), 4, 0x2000, 0x2010, 0, 0, 0, 0]
    let s := headed c
    let two := setQueue (rset s (teOff 3 0) (2 ^ 63)) 3 { TeQueue.empty with descs := [descOf c] }
    (decide (nextQueue s 0 = some 0) &&
    (match openAll (engAgent s 0) (descOf c) (tensorsOf (descOf c)) { s with teTurn := tabSet (fun _ => 15) s.teTurn 0 0 } with
      | (s1, .inl ws) =>
        let b := beginRun s1 0 (descOf c) ws
        tensorsAligned (descOf c) && runGood (descOf c) (firstRun 0 (descOf c) ws) &&
        (match (getQueue b 0).run with
          | some r => decide (r.pos < runTotal r.flight.desc r) &&
            (match enterItem b 0 r with
              | (c1, .inl r1) =>
                let bs := turnBatches r1.flight.desc r1
                decide (wouldHold (engAgent c1 0) (allWrites bs) c1 = none) &&
                (match (runLocal (engAgent c1 0) 0 bs c1).2 with
                  | .ok => true
                  | _ => false)
              | _ => false)
          | none => false)
      | _ => false) &&
    decide (nextQueue two 0 = some 0) && decide (nextQueue { two with teTurn := [(0, 0)] } 0 = some 3) &&
    gives (.descStart 0) { two with teTurn := [(0, 0)] } { two with teTurn := [(0, 0)] } &&
    after (.descStart 3) { two with teTurn := [(0, 0)] } (fun u => decide (u.teTurn = [(0, 3)] ∧ (getQueue u 3).descs = []))) =
      true := by decide +kernel
theorem test_illegal_descriptor :
    let c := [wd (1 * 2 ^ 60), 4, 0x2000, 0x2010, 0, 0, 0, 1]
    (!descGood 0 (descOf c) && after (.descStart 0) (headed c) (fun u => decide ((getQueue u 0).halted = true ∧
      rfield u (teOff 0 0x10) 40 8 = 1 ∧ rget u (teOff 0 0x28) = 0x2040 ∧ (getQueue u 0).descs.length = 1))) = true := by decide +kernel
theorem test_contribution_starts :
    let c := [wd (7 * 2 ^ 60), 0x200, 0x2000, 0x3000, wd (5 + 2 ^ 32 + 2 * 2 ^ 16), 0, 0, 0]
    (descGood 0 (descOf c) && decide (1 ≤ potFree (headed c) 0) &&
    after (.contrib 0) (headed c) (fun u => decide ((getSlot u 5).state = 1 ∧ (getSlot u 5).words = c ∧
      (getQueue u 0).flight.map (fun f => f.pot) = [true] ∧ (getQueue u 0).descs = []))) = true := by decide +kernel
theorem test_descriptor_completes :
    let f : Flight := { flight7 with desc := descOf [0, 0, 0, 0, 0, 0, 0, 0], awaits := [], places := [] }
    let g : Flight := { f with desc := descOf [wd (2 ^ 58 + 5), wd (3 * 2 ^ 48), 0, 0, 0, 0, 0, 0] }
    (flightDone (flushAgent (sQueue { TeQueue.empty with flight := [f] }) (queueAgent 0)) 0 f &&
    after (.descComplete 0) (sQueue { TeQueue.empty with flight := [f] }) (fun u => decide ((getQueue u 0).flight = [])) &&
    after (.descComplete 0) (sQueue { TeQueue.empty with flight := [g] }) (fun u => decide ((getQueue u 0).flight = [{ g with signalled := true }] ∧
      u.syncQ = [(0, [{ seq := 0, kind := .sig, src := .flight 0 2, obj := 5, arg := 3 }])]))) = true := by decide +kernel
theorem test_queue_controls :
    let d := descOf [0, 0, 0, 0, 0, 0, 0, 0]
    let h := sQueue { TeQueue.empty with descs := [d, d], halted := true }
    (decide (queueState h 0 = 3) && mayWrite h .host 1 &&
    gives (.skip .host 0) h (sQueue { TeQueue.empty with descs := [d] }) &&
    gives (.skip .host 0) (headed []) (headed []) && gives (.flush .host 0) h (sQueue TeQueue.empty) &&
    after (.queueDisable .host 0) h (fun u => decide (queueState u 0 = 0 ∧ u.queues = []))) = true := by decide +kernel
/-- 1.0 in element 0, added to 2.0, in slot 5, which takes three contributions. -/
def slotAdd : PotSlot := { slot5 with words := [0, 512, 0, 0, wd (3 * 2 ^ 16 + 2 ^ 32 + 2 ^ 41), 0, 0, 0], base := 0 }
theorem test_pot_contribution :
    let f : PotFlit := { rid := 5, idx := 1, vals := 0x3F80, from? := none, abort := false }
    let s (x : PotSlot) : State := setPot (setSlot (device Thread.off) 5 x) 0 { Arb.idle with granted := [f] }
    let x := { slotAdd with blocks := [(1, { count := 1, sums := 0x40000000 })] }
    (decide (widen16 0x3F80 = 0x3F800000) && slotNoData x && decide (slotCount x = 3) &&
    after (.potContribution 0 false) (s slotAdd) (fun u => decide (((getSlot u 5).blocks.map (fun b => (b.1, b.2.count, b.2.sums))) =
      [(1, 1, 0x3F800000)])) &&
    after (.potContribution 0 false) (s x) (fun u => decide (((getSlot u 5).blocks.map (fun b => (b.1, b.2.count, b.2.sums))) =
      [(1, 2, 0x40400000)])) &&
    decide (slotFwd x = false) && after (.potContribution 0 true) (s x) (fun u => decide ((getSlot u 5).state = 2 ∧
      (getSlot u 5).blocks = [] ∧ (u.safety.reports.map (fun r => (r.code, r.loc))) = [(3, 1)])) &&
    after (.potContribution 0 true) (s slotAdd) (fun u => decide ((getSlot u 5).state = 1))) = true := by decide +kernel
theorem test_pot_slot :
    let x := { slotAdd with base := 4, localNext := 4, queue := 0, flight := 2 }
    let s := setSlot (sQueue { TeQueue.empty with flight := [{ flight7 with pot := true }] }) 5 x
    let a := setSlot (setSlot (device Thread.off) 5 { slot5 with state := 2 }) 6 slot5
    (decide (slotFlits x = 4) && agentDone s (potAgent 5) &&
    after (.potSlotComplete 5) s (fun u => decide (getSlot u 5 = PotSlot.idle ∧ (getQueue u 0).flight.map (fun f => f.pot) = [false])) &&
    gives (.clear .host 0) a (setSlot (device Thread.off) 6 slot5)) = true := by decide +kernel

/-! ### The commit unit (R441 to R455) -/

/-- Device 0 in a job with tag 7, interval 4 and TMO 10: U is 5, C 3, S and A 1; GO, UPD, CMT and SEC are
objects 1 to 4; the parent is device 0 itself or device 9, which port 0 serves. -/
def sJob (st parent : Nat) (c : CommitUnit) : State :=
  let s := sPort { device Thread.off with commit := { c with r0 := 1 } }
  let s := rset s (commitOff 0) (wd (4 * 2 ^ 48 + 10 * 2 ^ 32 + 7))
  let s := rset s (commitOff 8) (wd (parent * 2 ^ 32))
  let s := rset s (commitOff 0x28) (wd (2 ^ 48 + 2 * 2 ^ 32 + 3 * 2 ^ 16 + 4))
  let s := rset (rset s (commitOff 0x38) (wd (5 * 2 ^ 32 + 3))) (commitOff 0x40) (wd (2 ^ 32 + 1))
  rset (rset s (commitOff 0x48) (wd (st * 2 ^ 62))) (stOff 0) (wd (2 ^ 63))
def cIdle : CommitUnit := CommitUnit.idle
def gate (v : BitVec 32) (age : Nat) (opened : Bool) : GateRec := { version := v, age := age, opened := opened, since := 0 }
def child9 (r c : Option (BitVec 32)) : Child := { dev := 9, ready := r, copied := c }
def abortedFor (u : State) (why : Nat) : Bool :=
  decide (commitState u = 2 ∧ rfield u (commitOff 0x48) 48 8 = why ∧ rfield u (commitOff 0x48) 0 32 = 5 ∧
    u.safety.reports.map (fun r => r.code) = [0x23])
/-- The packets that wait at port 0: code, value, second operand. -/
def posted (u : State) : List (BitVec 16 × BitVec 32 × BitVec 48) :=
  (getPort u 0).egress.waiting.map (fun w => (w.item.2.obj, w.item.2.value, w.item.2.addr))

theorem test_commit_start :
    let s := sJob 0 0 { cIdle with children := [child9 (some 2) none] }
    let h := rset (sJob 0 9 cIdle) (commitOff 0x10) (wd (2 ^ 63 + 9 * 2 ^ 42 + 6))
    (mayWrite s .host 1 && !inRun s && after (.commitCtlStart .host 8) s (fun u => decide (commitState u = 1 ∧
      verU u = 8 ∧ verC u = 8 ∧ verS u = 8 ∧ verA u = 1 ∧ anchorStale u = true ∧ u.commit.ownCopied = some 8 ∧
      u.commit.children = [child9 none none] ∧ u.commit.gates = [] ∧ rfield u (commitOff 0x48) 60 2 = 2)) &&
    (postCommit h 9 1 0 0).2.isSome && after (.commitCtlStart .host 8) h (fun u => decide (commitState u = 1 ∧
      u.commit.partner = 1 ∧ u.commit.ownCopied = none ∧ posted u = [(7, 0, 6), (1, 0, 0), (2, 8, 0)])) &&
    gives (.commitCtlStart .host 8) (sJob 1 0 cIdle) (setResult (sJob 1 0 cIdle) 1) &&
    gives (.commitCtlStart .board 8) s s) = true := by decide +kernel
theorem test_anchor_abort_stop :
    let r := sJob 1 0 cIdle
    let k := sJob 1 0 { cIdle with children := [child9 none none] }
    let f := rset r (commitOff 0x38) (wd (4 * 2 ^ 32 + 3))
    (after (.anchor .host 1) r (fun u => decide (verA u = 1 ∧ anchorStale u = false ∧ u.commit.goOut = false)) &&
    after (.anchor .host 1) f (fun u => decide (u.commit.goOut = true ∧ u.syncQ.length = 1)) &&
    after (.anchor .host 2) r (fun u => decide (u = setResult r 1)) &&
    after (.commitCtlAbort .host) k (fun u => abortedFor u 5 && decide (posted u = [(6, 5, 1)])) &&
    gives (.commitCtlAbort .host) (sJob 0 0 cIdle) (sJob 0 0 cIdle) &&
    after (.commitCtlStop .host) k (fun u => decide (commitState u = 0 ∧ u.commit = cIdle ∧ posted u = []))) = true := by
  decide +kernel
theorem test_update_count :
    let s := setObj (sJob 1 0 cIdle) 2 (val5 3)
    let t := rset s (commitOff 0x38) (wd (8 * 2 ^ 32 + 7))
    (!isSecuring s 6 && isSecuring t 9 && after .updCount s (fun u => decide (verU u = 6 ∧ getObj u 2 = val5 2 ∧ verC u = 3 ∧
      u.commit.gates = [gate 6 0 false])) &&
    after .updCount t (fun u => decide (verU u = 9 ∧ u.commit.ownCopied = some 9)) &&
    gives .updCount (sJob 1 0 cIdle) (sJob 1 0 cIdle)) = true := by decide +kernel
theorem test_gate_and_timeout :
    let g := [gate 4 30000000 false, gate 5 29999999 false]
    let s := sJob 1 0 { cIdle with gates := g }
    let w := rset s (commitOff 8) 1
    let l := sJob 1 0 { cIdle with gates := [{ gate 4 0 true with since := 1000000 }] }
    (!gatesShut s && treeComplete s && !treeComplete w &&
    after (.gateOpen 4) s (fun u => decide (verC u = 4 ∧ u.commit.gates = [gate 5 29999999 false] ∧ verU u = 5)) &&
    after (.gateOpen 4) w (fun u => decide (verC u = 3 ∧ u.commit.gates = [gate 4 30000000 true, gate 5 29999999 false])) &&
    gives (.gateOpen 5) s s && after .commitTimeout l (fun u => abortedFor u 4) && gives .commitTimeout s s) = true := by
  decide +kernel
theorem test_feed_timeout_and_hello :
    let s := sJob 1 0 { cIdle with partner := 1, second := 2, feedAge := 1000000 }
    let h := sJob 1 9 { cIdle with helloAge := 100000 }
    (decide (commitTmo s = 1000000) && after .feedTimeout s (fun u => decide (u.commit.partner = 4 ∧ u.commit.second = 2)) &&
    gives .feedTimeout h h && after .helloRepeat h (fun u => decide (u.commit.helloAge = 0 ∧ posted u = [(1, 0, 0)]))) =
      true := by decide +kernel
/-- A securing copy of one page to one holder, whose descriptors have ended; one to a device that no port serves;
and one whose descriptor is illegal. -/
theorem test_securing_copy :
    let c := { cIdle with securing := some 5, targets := [(9, 0x40000)], posted := 1 }
    let s (h : Bool) := rset (sJob 1 0 { c with header := h }) (commitOff 0x18) (wd (2 ^ 38))
    let n := rset (sJob 1 0 { c with targets := [(8, 0x40000)] }) (commitOff 0x18) (wd (2 ^ 38))
    let d : Desc := { words := [wd (2 * 2 ^ 60), 0, 0, 0, 0, 0, 0, 1], addr := 0, poster := none }
    let q := setQueue (rset (s false) (teOff 0 0) (wd (2 ^ 63))) 0 { TeQueue.empty with descs := [d] }
    (decide (shardPages (s true) = 1 ∧ commitQueue (s true) = 0 ∧ (routePorts n none 8).1 = [] ∧ (routePorts (s false) none 9).1 ≠ [] ∧
      headStarts q 0 = some d ∧ descGood 0 d = false ∧ nextQueue q 0 = some 0) && copyQueue q 0 &&
    after .securingCopyDone (s false) (fun u => decide (u.commit.header = true ∧ u.commit.securing = some 5 ∧
      (getQueue u 0).flight.length = 1)) &&
    after .securingCopyDone (s true) (fun u => decide (u.commit.ownCopied = some 5 ∧ u.commit.securing = none ∧
      u.commit.header = false)) &&
    after .securingCopyDone n (fun u => abortedFor u 2) && after (.descStart 0) q (fun u => abortedFor u 3)) = true := by decide +kernel

/-- A commit message heads channel 2 of port 0. -/
def hears (parent : Nat) (c : CommitUnit) (code : BitVec 16) (v : BitVec 32) : State :=
  setRx (sJob 1 parent c) 0 2 [{ pkt .mgmt with obj := code, value := v, addr := 6 }, pkt .mgmt]
theorem test_hello_and_stray :
    let s := hears 0 cIdle 1 0
    let x := setRx (sJob 1 0 cIdle) 0 2 [{ pkt .mgmt with obj := 1, tag := 8 }]
    let z := setRx (sJob 0 0 cIdle) 0 2 [{ pkt .mgmt with obj := 3 }]
    ((rxHead s 0 2 .mgmt).isSome && after (.hello 0 2) s (fun u => decide (u.commit.children = [child9 none none])) &&
    gives (.ready 0 2) s s && after (.hello 0 2) x (fun u => decide (rfield u (commitOff 0x48) 32 15 = 1 ∧ rxQueue u 0 2 = [])) &&
    after (.commit 0 2) z (fun u => decide (rxQueue u 0 2 = [] ∧ u.regs = z.regs))) = true := by decide +kernel
theorem test_ready_and_commit :
    let top := { cIdle with children := [child9 none none], gates := [gate 4 0 true, gate 5 0 true] }
    (after (.ready 0 2) (hears 0 top 2 4) (fun u => decide (verC u = 4 ∧ u.commit.gates = [gate 5 0 true] ∧
      posted u = [(3, 4, 0)])) &&
    after (.ready 0 2) (hears 0 top 2 3) (fun u => decide (verC u = 3 ∧ u.commit.children = [child9 (some 3) none])) &&
    after (.ready 0 2) (hears 8 top 2 4) (fun u => decide (verC u = 3)) &&
    after (.commit 0 2) (hears 9 { cIdle with gates := [gate 5 0 true] } 3 4) (fun u => decide (verC u = 4 ∧
      u.commit.heardParent = true ∧ u.commit.gates = [gate 5 0 true])) &&
    after (.commit 0 2) (hears 9 cIdle 3 3) (fun u => decide (verC u = 3 ∧ u.commit.heardParent = true))) = true := by
  decide +kernel
theorem test_copied_and_secured :
    let top := { cIdle with children := [child9 none none], ownCopied := some 5 }
    let s := rset (hears 0 top 4 5) (commitOff 0x38) (wd (5 * 2 ^ 32 + 5))
    (isSecuring s 5 && after (.copied 0 2) s (fun u => decide (verS u = 5 ∧ u.commit.firstSecured = true ∧
      posted u = [(5, 5, 0)] ∧ u.safety.reports.map (fun r => (r.code, r.loc)) = [(0x22, 5)])) &&
    after (.copied 0 2) (hears 0 top 4 4) (fun u => decide (verS u = 1)) &&
    after (.secured 0 2) (hears 9 cIdle 5 5) (fun u => decide (verS u = 5 ∧ u.commit.firstSecured = true)) &&
    after (.secured 0 2) (hears 9 cIdle 5 1) (fun u => decide (verS u = 1 ∧ u.safety.reports.length = 1)) &&
    after (.secured 0 2) (hears 9 { cIdle with firstSecured := true } 5 1) (fun u => decide (u.safety.reports = []))) = true := by
  decide +kernel
theorem test_abort_and_feed :
    let p := rset (hears 0 { cIdle with partner := 1 } 8 0) (commitOff 0x10) (wd (9 * 2 ^ 42 + 5))
    (after (.abort 0 2) (hears 9 cIdle 6 4) (fun u => abortedFor u 6 && decide (posted u = [])) &&
    after (.feedQuery 0 2) (hears 0 cIdle 7 0) (fun u => decide (posted u = [(8, 0, 0)])) &&
    after (.feedReply 0 2) p (fun u => decide (u.commit.partner = 2 ∧ rfield u (commitOff 0x48) 60 2 = 0)) &&
    after (.feedReply 0 2) (rset p (commitOff 0x10) (wd (9 * 2 ^ 42 + 6))) (fun u => decide (u.commit.partner = 4)) &&
    after (.feedReply 0 2) (rset (rset p (commitOff 0x10) (wd (9 * 2 ^ 42 + 6))) (commitOff 0) (wd (2 ^ 30 + 7)))
      (fun u => decide (u.commit.partner = 3 ∧ u.safety.reports.length = 1))) = true := by decide +kernel

/-! ### Safety and self-test (R462 to R489) -/

def rep (code unit : BitVec 16) (loc : Word) : Report := { code := code, unit := unit, loc := loc, info := 0 }
/-- The safety controller's state and the self-test's; the log has 4 entries at 0x4000; thresholds are 5. -/
def sSafe (f : Safety) (t : SelfTest) : State :=
  let s := { device Thread.off with safety := f, selfTest := t }
  rset (rset (rset s (safeOff 0x10) (wd (4 * 2 ^ 48 + 0x4000))) (stOff 0) (wd (2 ^ 63 + 2 ^ 16)))
    (safeOff 0x30) (wd 0x505)
def fIdle : Safety := Safety.idle
def tIdle : SelfTest := SelfTest.idle
def deviceDue (u : State) (code : Nat) : Bool :=
  u.safety.resetDue && !bit (rget u (safeOff 0)) 0 && decide (u.kept.lastDev = wd (code * 2 ^ 48))
theorem test_notices :
    let s := sSafe { fIdle with reports := [rep 0x30 0 7, rep 0xF 0 0] } tIdle
    let w := rset s (safeOff 0x18) 4
    (decide (classOf (rep 0x30 0 7) = 0) && inMemory s 0x4000 &&
    after (.safetyEvent none) s (fun u => decide (u.safety.reports = [rep 0xF 0 0] ∧ rget u (safeOff 8) = 1 ∧
      rfield u (safeOff 0x18) 0 32 = 1 ∧ (readPa u managerAgent 0x4008 8).2 = (0x3000000000, none))) &&
    after (.safetyEvent (some (rep 0x30 0 7))) w (fun u => decide (rfield u (safeOff 0) 32 16 = 1 ∧ rget u (safeOff 8) = 1 ∧
      rfield u (safeOff 0x18) 0 32 = 4)) &&
    gives (.safetyEvent none) (sSafe fIdle tIdle) (sSafe fIdle tIdle)) = true := by decide +kernel
theorem test_step_and_device_events :
    let j := sJob 1 0 cIdle
    (decide (classOf (rep 3 0 0) = 2 ∧ classOf (rep 0x11 0 0) = 3) && inRun j &&
    after (.safetyEvent (some (rep 3 0 0))) j (fun u => abortedFor u 1) &&
    after (.safetyEvent (some (rep 0x11 0 0))) (sSafe fIdle tIdle) (fun u => deviceDue u 0x11) &&
    after .lockstepMismatch (sSafe fIdle tIdle) (fun u => deviceDue u 0x10)) = true := by decide +kernel
def withTests (l : List Region) (busy : Bool) : State :=
  sSafe { fIdle with tests := [(0, l)], testing := if busy then [(0, true)] else [] } tIdle
def stateOf (u : State) : Nat := rfield u (stOff 0x100) 0 3
theorem test_targeted_tests :
    let s := withTests [.core 0, .port 0] false
    (quadFree s 0 && !sliceNext s 0 &&
    decide ((getCore (enterTest s 0) 0).testing = true ∧ stateOf (stState (enterTest s 0) 0 3) = 3) &&
    after (.targetedTest 0) (withTests [.port 0] false) (fun u => decide (portState u 0 = 0 ∧ stateOf u = 5)) &&
    after (.targetedTest 0) (withTests [.hbmRow 0] false) (fun u => decide (u.safety.testing = [(0, true)] ∧ stateOf u = 5)) &&
    gives (.targetedTest 0) (withTests [.core 0] true) (withTests [.core 0] true) && gives (.targetedTest 1) s s) = true := by
  decide +kernel
/-- The test of a core saves its state first: 2 MiB, which this names and does not evaluate. -/
theorem test_core_test_starts : exec (.targetedTest 0) (withTests [.core 0] false) =
    .next (holdCore (setTesting (withTests [.core 0] false) 0 true) 0 0) := rfl
theorem test_targeted_tests_end :
    let s := withTests [.core 0, .port 0] true
    let e : RetireEnt := { kind := 3, region := BitVec.ofNat 48 (coreIsland s 0) }
    (decide (testedRegion s 0 = some (.core 0) ∧ retireEnt s (.core 0) = some e) && !sparesSpent s (.core 0) &&
    after (.targetedTestDone 0 true) s (fun u => decide (u.kept = s.kept ∧ u.safety.tests = [(0, [.port 0])] ∧ u.safety.testing = [])) &&
    after (.targetedTestDone 0 false) s (fun u => decide (u.kept.retire = [e] ∧ (getCore u 0).stopped = true)) &&
    after (.targetedTestDone 0 false) (withTests [.unit 3] true) (fun u => bit (rget u (safeOff 0)) 1 && decide (u.kept.retire = [])) &&
    gives (.targetedTestDone 0 true) (withTests [.core 0] false) (withTests [.core 0] false)) = true := by decide +kernel
def sDue (d : Nat × Nat × Nat) : State := sSafe fIdle { tIdle with due := [(0, [d])] }
theorem test_slices :
    let s := sDue (0, 0, 0)
    let z := setCore s 0 { getCore s 0 with stopped := true }
    let l := sDue (0, 100001, 1)
    (quadFree s 0 && sliceNext s 0 && slicesRun s && !(getCore s 0).stopped &&
    after (.sliceStart 0) z (fun u => decide (u.selfTest.running = [] ∧ u.selfTest.due = [])) &&
    gives (.sliceStart 0) l l && gives (.sliceStart 1) l l && decide (lateCycles l = 100000) &&
    after (.stLapse 0) l (fun u => decide (u.safety.lapses = [0] ∧ gatesShut u = true ∧ u.selfTest = l.selfTest)) &&
    gives (.stLapse 0) s s) = true := by decide +kernel
theorem test_slice_ends :
    let s := sSafe { fIdle with lapses := [0] } { tIdle with running := [(0, some 0)] }
    let e : RetireEnt := { kind := 3, region := BitVec.ofNat 48 (coreIsland s 0) }
    (decide (rget s (stOff 0x400) = 0) &&
    after (.sliceEnd 0 0 false) s (fun u => decide (u.selfTest.running = [] ∧ u.safety.lapses = [] ∧ u.selfTest.passed = [(0, 0)] ∧
      u.kept = s.kept)) &&
    after (.sliceEnd 0 1 false) s (fun u => decide (u.kept.retire = [e] ∧ u.safety.lapses = [] ∧ (getCore u 0).stopped = true)) &&
    after (.sliceEnd 0 0 true) s (fun u => decide (u.kept.retire = [e])) && gives (.sliceEnd 1 0 false) s s) = true := by
  decide +kernel
theorem test_recovery :
    let s := { sSafe fIdle tIdle with lost := [32769] }
    let r := sSafe { fIdle with recover := some 1 } tIdle
    (mayRecover s 1 && !mayRecover { s with threads := [(0, thread 0 0 0)] } 0 &&
    after (.safeRecover .host 1) s (fun u => decide (u.safety.recover = some 1 ∧ u.lost = []) &&
      bit (rget u (safeOff 0x50)) 62) &&
    after (.safeRecover .host 2) r (fun u => bit (rget u (safeOff 0x50)) 61 && decide (u.safety = r.safety)) &&
    after .recoveryDone r (fun u => decide (u.safety.recover = none)) && gives .recoveryDone s s) = true := by decide +kernel
theorem test_slots :
    let s := sSafe fIdle tIdle
    let l := sSafe fIdle { tIdle with slot := 33 }
    (isReady s && corePresent s 0 && after .selfTestSlot s (fun u => decide (u.selfTest.slot = 0 ∧ u.selfTest.elapsed = 0 ∧
      u.selfTest.due = [(0, [(0, 0, 0)])])) &&
    after .selfTestSlot l (fun u => decide (u.selfTest.slot = 0 ∧ rfield u (stOff 0x100) 32 32 = 1)) &&
    gives .selfTestSlot (sSafe fIdle { tIdle with elapsed := 749999 }) (sSafe fIdle { tIdle with elapsed := 749999 })) = true := by
  decide +kernel
theorem test_analogue_checks :
    let s := sSafe fIdle tIdle
    let o := sSafe { fIdle with overdue := [(.phy, 3)] } tIdle
    let bad (part : AnaPart) (p : State → Bool) : Bool := after (.analogueCheck part 3 9 true) s p
    (after (.analogueCheck .phy 3 9 false) o (fun u => decide (u.safety.overdue = []) && !gatesShut u) &&
    bad .vref (fun u => deviceDue u 0xB) && bad .phy (fun u => decide (u.safety.retrain = [3])) &&
    bad .temp (fun u => decide (u.safety.excluded = [3])) && bad .osc (fun u => decide (u.power.halted = [3])) &&
    bad .serdes (fun u => decide (u.safety.tests = [(0, [.port 0])])) &&
    after (.analogueOverdue .phy 3) s (fun u => decide (u.safety.overdue = [(.phy, 3)]) && gatesShut u && bit (rget u (safeOff 0)) 3) &&
    gives (.analogueOverdue .phy 3) o o &&
    after (.channelRetrainDone 3) (sSafe { fIdle with retrain := [2, 3] } tIdle) (fun u => decide (u.safety.retrain = [2]))) = true := by
  decide +kernel
theorem test_scrubs :
    let s := sVM 0 0 0 0
    (inMemory s 0x2000 && after (.dramScrub 0x40 5 0) s (fun u => decide (u.safety.reports.map (fun r => (r.code, r.loc, r.info)) =
      [(1, 0x2000, 5)])) &&
    after (.dramScrub 0x40 0 6) s (fun u => decide (u.memBad = [(0x40, 6)] ∧ u.safety.reports.map (fun r => (r.code, r.loc)) = [(4, 0x2000)])) &&
    gives (.dramScrub 0x7FFFFFFFFF 5 6) s s &&
    after (.l2Scrub 0x40 5 0) (sRx (pkt .put)) (fun u => decide (u.safety.reports.map (fun r => (r.code, r.loc, r.info)) = [(2, 768, 2 ^ 61)])) &&
    after (.l2Scrub 0x40 0 6) (sRx (pkt .put)) (fun u => decide ((tabFind u.l2 0x40).map L2Line.bad = some 6)) &&
    gives (.l2Scrub 0x41 5 6) (sRx (pkt .put)) (sRx (pkt .put))) = true := by decide +kernel
/-- Alarm 10, target 20, ceiling of 3 steps; core 0 runs on island 0. -/
def sAge (steps : BitVec 8) (k : Nat) : State :=
  let s := rset (sSafe fIdle tIdle) (ageOff 0) (wd (3 * 2 ^ 56 + 20 * 2 ^ 40 + 10 * 2 ^ 32))
  let s := rset s (coreReg 0 0x38) 40
  { s with kept := { s.kept with ages := [(0, { Island.new with steps := steps })] }
           power := { s.power with raising := if k = 0 then [] else [(0, k)] } }
theorem test_margins :
    let isle (u : State) : Nat × Nat × Bool := ((getIsland u 0).steps.toNat, (getIsland u 0).lowered.toNat, (getIsland u 0).limit)
    let slow (u : State) : Bool := decide (isle u = (3, 1, true) ∧ u.power.changing = [0] ∧ rfield u (coreReg 0 0x38) 0 8 = 39)
    (decide (islandCore (sAge 3 0) 0 = some 0) && islandMoves 0 && atCeiling (sAge 3 0) 0 && !atCeiling (sAge 2 0) 0 &&
    after (.monitorSample 0 10) (sAge 2 0) (fun u => decide (isle u = (2, 0, false) ∧ u.power.slack = [(0, 10)])) &&
    after (.monitorSample 0 9) (sAge 2 0) (fun u => decide (isle u = (3, 0, false))) &&
    after (.monitorSample 0 9) (sAge 3 0) slow && after (.rePlan 0 19) (sAge 3 0) slow &&
    gives (.rePlan 0 20) (sAge 2 0) (sAge 2 0) && after (.rePlan 0 19) (sAge 2 0) (fun u => decide (isle u = (2, 0, false))) &&
    after (.monitorSample 40 9) (rset (sAge 3 0) (ageOff 0) (wd (10 * 2 ^ 32))) (fun u => bit (rget u (safeOff 0)) 1) &&
    after (.voltageStep 0) (sAge 2 1) (fun u => decide (isle u = (3, 0, false) ∧ u.power.raising = [])) &&
    after (.voltageStep 0) (sAge 3 2) (fun u => decide (isle u = (3, 0, false) ∧ u.power.raising = [(0, 1)])) &&
    gives (.voltageStep 0) (sAge 2 0) (sAge 2 0)) = true := by decide +kernel
theorem test_clock_change_end :
    let s := { sAge 2 0 with power := { Power.reset with changing := [0, 7] } }
    after (.clockChangeEnd 0) s (fun u => decide (u.power.changing = [7])) = true := by decide +kernel

/-! ### Resets and boot (R491 to R510, R528, R533) -/

def stageOf (s : State) : Nat := rfield s 0x18 0 4
/-- A boot stage with these kept stores. -/
def sBoot (stage : Nat) (k : Kept) (b : Boot) : State :=
  { State.reset with regs := [(0x18, wd stage)], kept := k, boot := b }
def kept0 : Kept := Kept.new
/-- A device in service whose memory, cache and kept stores hold something. -/
def sUsed : State :=
  { rset (sVM 1 2 3 4) 0x18 0xA with
    kept := { kept0 with lc := 1, resets := 6, lastDev := 9, diag := true, flash := [(3, 7)] } }
def resetTo (c : Instr) (s : State) (kind n last : Nat) : Bool :=
  after c s (fun u => decide (u.kept = { s.kept with resets := 7, diag := decide (kind = 4), lastDev := wd last } ∧
    rfield u 0x18 24 4 = kind ∧ stageOf u = 1 ∧ u.mem = [] ∧ u.l2 = [] ∧ u.threads = [] ∧ u.present = [] ∧
    u.fresh = n ∧ rget u (safeOff 0x48) = wd last))
theorem test_device_resets :
    let due := { sUsed with safety := { Safety.idle with resetDue := true } }
    let off := { sUsed with power := { Power.reset with stages := false } }
    (decide (stageOf State.reset = 1) && resetTo .powerOnReset sUsed 0 (sUsed.fresh + 2) 0 &&
    resetTo .moduleReset sUsed 1 (sUsed.fresh + 2) 9 && resetTo .safetyReset due 2 (sUsed.fresh + 2) 9 &&
    resetTo (.softwareReset .host 0xA5) sUsed 3 (sUsed.fresh + 2) 9 &&
    gives (.softwareReset .host 0xA6) sUsed sUsed && gives (.softwareReset .board 0xA5) sUsed sUsed &&
    gives .powerOnReset off off && gives .moduleReset off off && gives .safetyReset sUsed sUsed &&
    gives .moduleReset (sBoot 1 kept0 .start) (sBoot 1 kept0 .start) && gives .powerOnReset (sBoot 1 kept0 .start) (sBoot 1 kept0 .start) &&
    resetTo .powerOnReset { rset sUsed 0x18 1 with power := { Power.reset with pgood := false } } 0 (sUsed.fresh + 2) 0) = true := by decide +kernel
theorem test_pcie_reset_and_supply :
    let s := rset (rset (device Thread.off) (hostOff 0) 5) (hostOff 0x800C) 3
    let p := { sUsed with pending := [.sagEnd] }
    (after .pcieReset s (fun u => decide (rget u (hostOff 0) = 0 ∧ u.regs = [(0x18, 0xA)])) &&
    after .pwrEnFall p (fun u => decide (u.pending = [.sagEnd] ∧ u.kept = { p.kept with lastDev := 0, diag := false } ∧
      u.regs = [] ∧ u.mem = [] ∧ u.power.stages = false)) &&
    after .powerStagesStart { sUsed with power := { Power.reset with stages := false } } (fun u => u.power.stages)) = true := by
  decide +kernel
/-- The header of a deck of 4096 bytes, with one REGS section of 16 bytes at 0x100. -/
def deckHead (base gen : Nat) : Tab Byte :=
  [(base, 0x44), (base + 1, 0x45), (base + 2, 0x43), (base + 3, 0x4B), (base + 4, 3), (base + 8, BitVec.ofNat 8 gen),
   (base + 13, 0x10), (base + 0x18, 1), (base + 0x40, 0xB), (base + 0x45, 1), (base + 0x48, 16)]
def decks (a b : List (Nat × Byte)) : Kept := { kept0 with flash := a ++ b }
def deckB : Nat := 0x10000000
theorem test_boot_rom :
    let k := { kept0 with retire := [{ kind := 2, region := 0x105 }] }
    let s := rset (sBoot 1 k .start) (l2Off 1 0x100) (wd (2 ^ 48 - 1))
    (bootAt s 1 && after .bootRom s (fun u => decide (stageOf u = 2 ∧ rget u (l2Off 1 0x100) = wd (2 ^ 48 - 1 - 2 ^ 29))) &&
    gives .bootRom (sBoot 2 k .start) (sBoot 2 k .start)) = true := by decide +kernel
def readsCopy (c : Instr) (s : State) (n : Nat) (rest : List Nat) : Bool :=
  after c s (fun u => decide (stageOf u = 3 ∧ u.boot.copy = n ∧ u.boot.todo = rest ∧
    u.boot.sections = [(0xB, 0, 0x100, 16)] ∧ u.boot.size = 4096))
theorem test_boot_read :
    let s (x y : Nat) := sBoot 2 (decks (deckHead 0 x) (deckHead deckB y)) .start
    let none' (s : State) (a b : Nat) : Bool := after (.bootRead false false) s (fun u => decide (stageOf u = 0xB ∧
      rfield u 0x18 8 4 = a ∧ rfield u 0x18 12 4 = b) && bit (rget u (hostOff 0)) 22)
    (readsCopy (.bootRead false false) (s 5 4) 1 [2] && readsCopy (.bootRead false false) (s 5 5) 1 [2] && readsCopy (.bootRead false false) (s 4 5) 2 [1] &&
    readsCopy (.bootRead false true) (s 4 5) 1 [] && none' (sBoot 2 kept0 .start) 1 1 &&
    none' (sBoot 2 { kept0 with lc := 4, flash := deckHead 0 1 } .start) 0 0 &&
    readsCopy (.bootRead false true) (sBoot 2 (decks (deckHead 0 5) []) { Boot.start with copy := 1 }) 1 [] &&
    gives (.bootRead false false) (sBoot 3 kept0 .start) (sBoot 3 kept0 .start)) = true := by decide +kernel
/-- A key, big-endian, and a signature of no bytes with it: r = s = e / 4 for the hash e of no bytes, and the key
is the point with abscissa r less four times the base point. -/
def keyNum : Nat :=
  0xCDBCCF13CCF5FB909E739D65EA65D8D9D13303659633FC4273A77B839EF89C3DD9201FB25CBDA82C0B941E9A32BCC210 * 2 ^ 384 +
  0xB689D6808008568E95EFA34512BA63143989EC170C5785A3AF2B40BE0B15851614F91735AC4CABFF18A0F7836C9F7D28
def sigNum : Nat :=
  0xCE2C1829D46B258E13364C9FAC6C78DA887F6DC4452F81D0A88DAC1150271ADE0BE741F5B060571B26F7C7CC6BBA0D6D * (2 ^ 384 + 1)
def keyHash : BitVec 384 :=
  0x4E0F7F03DDDCED6C53F7EE9857E9844338D52A5428A6EC4E32030D8D0A442E9C6F7448BC3C58C90EE00E4F107C7DD6F9
/-- The copy read is a signature block that signs no bytes; the owner's hash fits the key or does not. -/
def sCheck (owner : BitVec 384) (sig : Nat) (todo : List Nat) : State :=
  sBoot 3 { kept0 with lc := 1, owner := owner } { Boot.start with
    copy := 1, image := bigBytes 96 keyNum ++ bigBytes 96 sig ++ List.replicate 64 0, todo := todo }
theorem test_sha384 : sha384 [0x61, 0x62, 0x63] =
    0xCB00753F45A35E8BB5A03D699AC65007272C32AB0EDED1631A8B605A43FF5BED8086072BA1E7CC2358BAECA134C825A7 := by decide +kernel
theorem test_curve : ecMul 5 p384G 384 = ecAdd p384G (ecDouble (ecDouble p384G)) ∧ onCurve (p384G.getD (0, 0)).1 (p384G.getD (0, 0)).2 = true := by
  decide +kernel
theorem test_verify :
    (decide (verifyCode (sCheck 0 sigNum []) = 5 ∧ verifyCode (sCheck keyHash 0 []) = 6 ∧ verifyCode (sCheck keyHash sigNum []) = 0) &&
    after .bootVerify (sCheck 0 sigNum []) (fun u => decide (stageOf u = 0xB ∧ rfield u 0x18 8 4 = 5)) &&
    after .bootVerify (sCheck 0 sigNum [2]) (fun u => decide (stageOf u = 2 ∧ u.boot.copy = 2 ∧ u.boot.todo = []))) = true := by decide +kernel
theorem test_boot_verify_stage : gives .bootVerify (sBoot 4 kept0 .start) (sBoot 4 kept0 .start) = true := by decide +kernel
/-- The REGS section sets SAFE_THRESH to 0x1203. -/
theorem test_boot_apply :
    let image : List Byte := List.replicate 0x100 0 ++ [0x30, 0, 0x20, 0, 0, 0, 0, 0, 3, 0x12, 0, 0, 0, 0, 0, 0]
    let b := { Boot.start with copy := 1, svn := 2, gen := 7, size := 4096, sections := [(0xB, 0, 0x100, 16)], image := image }
    let s := sBoot 4 kept0 b
    (decide (regsEntries (sectionBytes s (0xB, 0, 0x100, 16)) = [(safeOff 0x30, 0x1203)]) && bootAt s 4 &&
    (let u := s.boot.sections.foldl applySection s
     decide (rget u (safeOff 0x30) = (rget s (safeOff 0x30) &&& ~~~(deckMask (safeOff 0x30))) ||| (0x1203 &&& deckMask (safeOff 0x30)) ∧
      deckMask (safeOff 0x30) ≠ 0))) = true := by decide +kernel
theorem test_boot_zero :
    let s := sBoot 5 kept0 .start
    (bootAt s 5 && after (.bootZero []) s (fun u => decide (stageOf u = 6) && (List.range 136).all (corePresent u)) &&
    after (.bootZero [⟨1, 3⟩]) s (fun u => decide (u.kept.retire = [{ kind := 3, region := 67 }]) &&
      decide (tabFind u.kept.coreMap 37 = some 32) && corePresent u 37)) = true := by decide +kernel
def good (cap : BitVec 16) : MemInfo :=
  { present := true, failed := false, ident := 6, mrdimm := false, dpc2 := false, rate := 8, cap := cap }
theorem test_boot_memories :
    let s := sBoot 6 kept0 .start
    let d := rset (rset (sBoot 7 kept0 .start) (dealOff 0x1108) (wd (2 ^ 20))) (portOff 0 0) (wd (9 * 2 ^ 44 + 3))
    let bad := { good 8 with failed := true }
    (bootAt s 6 && bootAt d 7 && after (.bootHbm [good 64, bad]) s (fun u => decide (stageOf u = 7 ∧
      (List.range 3).map (fun k => rfield u (mcOff (k / 2) (0x100 + 8 * (k % 2))) 62 2) = [1, 2, 0] ∧ bit (rget u (mcOff 0 0x100)) 61 = true)) &&
    !trainsFully { s with boot := { s.boot with record := [6, 0, 0, 0, 0, 0, 0, 0], recordGood := true } } 0 (good 64) &&
    decide (portBlocked d 0 = none ∧ installed [good 8, good 4, good 8, good 8] 0 = 16 * 2 ^ 30) &&
    after (.bootDdr [good 8, good 4, good 8, good 8]) d (fun u => decide (stageOf u = 8 ∧ portState u 0 = 1 ∧
      ddrCapacity u 0 = 16 * 2 ^ 30 ∧ rfield u (dealOff 0x1108) 0 30 = 0) && bit (rget u 0x18) 23)) = true := by decide +kernel
theorem test_boot_links_and_start :
    let l := sBoot 8 kept0 .start
    let n := rset l (portOff 3 8) 2
    let b := { Boot.start with copy := 1, flags := 1, svn := 5, loadAddr := 0x4000, imageOff := 2, imageLen := 1, image := [5, 6, 7] }
    let s := { sBoot 9 kept0 b with present := [(32, true), (67, true)] }
    ((List.range 16).all (portSettled l) && !portSettled n 3 && gives .bootLinks l (setStage l 9) && gives .bootLinks n n &&
    after .bootStart s (fun u => decide (stageOf u = 0xA ∧ u.mem = [(0x4000, 7)] ∧ u.kept.svnMin = 5) &&
      bit (rget u (safeOff 0)) 0 && bit (rget u (hostOff 0)) 22 && bit (rget u (coreReg 32 8)) 0 &&
      bit (rget u (coreReg 67 8)) 0 && !bit (rget u (coreReg 66 8)) 0) &&
    after .bootStart { s with present := [(0, true)] } (fun u => decide (stageOf u = 0xC ∧ rfield u 0x18 20 3 = 1) &&
      bit (rget u (hostOff 0)) 22)) = true := by decide +kernel

/-! ### Registers, transactions, the host and power (R6, R512 to R519, R530 to R549) -/

def sReg : State := rset (device Thread.off) (hostOff 0) 5
theorem test_register_writes :
    let o := BitVec.ofNat 28 (safeOff 0x20)
    let log := BitVec.ofNat 28 (safeOff 0x10)
    let d := { sReg with boot := { Boot.start with deckApplied := true } }
    let plain (s : State) (off : Nat) (v : Word) : Bool := decide (putReg s .host off v = plainWrite s .host off v)
    (hostClear sReg .host && plain sReg (safeOff 0x20) (2 ^ 40 + 7) && plain sReg (hostOff 0) 4 && plain d (safeOff 0x10) 9 &&
    decide ((regAt (safeOff 0x20)).txn = 0) && regDefined (safeOff 0x20) &&
    after (.registerWrite .host o 8 (2 ^ 40 + 7)) sReg (fun u => decide (u = rset sReg (safeOff 0x20) 7)) &&
    after (.registerWrite .host (BitVec.ofNat 28 (hostOff 0)) 8 4) sReg (fun u => decide (rget u (hostOff 0) = 1)) &&
    after (.registerWrite .host log 8 9) sReg (fun u => decide (rget u (safeOff 0x10) = 9)) &&
    after (.registerWrite .host log 8 9) d (fun u => decide (rget u (safeOff 0x10) = 0)) &&
    gives (.registerWrite .host (o + 4) 8 7) sReg (badWrite sReg) && gives (.registerWrite .board o 8 7) sReg sReg &&
    after (.bar0Read .host o 8) (rset sReg (safeOff 0x20) 7) (fun u => decide (u.host.reply = some (.data 7)))) = true := by
  decide +kernel
theorem test_no_reach :
    let t := device { thread 0 0 0 with ring := 2 }
    let o := BitVec.ofNat 28 (safeOff 0x20)
    let w := { sReg with writes := [{ id := 3, agents := [hostAgent], line := 7, acks := [1] }] }
    (gives (.registerWrite (.thread thrA) o 8 7) t t && after (.bar0Read (.thread thrA) o 8) (rset t (safeOff 0x20) 7) (fun u =>
      decide (u.host.reply = some (.data 0))) &&
    !hostClear w .host && gives (.registerWrite .host o 8 7) w w && gives (.bar0Read .host o 8) w w &&
    after (.bar0Read .board 0x0E 8) { sReg with power := { Power.reset with alert := 6 } } (fun u => decide (u.host.reply = some (.data 6))) &&
    after (.registerWrite .board 0x0E 8 2) { sReg with power := { Power.reset with alert := 6 } } (fun u => decide (u.power.alert = 4))) =
      true := by decide +kernel
def txnFor (id : BitVec 16) (regs : List (Nat × Word)) : Txn :=
  { who := 0, id := id, regs := regs, words := [], ucodeAddr := [], ucodeLo := [], failed := false, committed := false, began := 0, age := 3 }
def sTxn (l : List Txn) : State := { sReg with txn := { sReg.txn with txns := l, nextId := 5 } }
def said (u : State) (code : Nat) (id : BitVec 16) : Bool := decide (txnResult u 0 = { result := code, last := id })
theorem test_staging :
    let o := safeOff 0x30
    let c := BitVec.ofNat 28 o
    let e := sTxn [txnFor 4 []]
    (decide ((regAt o).txn ≠ 0 ∧ putReg e .host o 0x12345 = plainWrite e .host o 0x12345 ∧ 0 < txnFree e) && mayStage e .host o &&
    after (.txnStage .host c 0x12345) e (fun u => said u 0 4 && decide (txnOf u 0 = some { txnFor 4 [(o, 0x2345)] with age := 0 } ∧
      rget u o = 0)) &&
    after (.txnStage .host c 1) (sTxn []) (fun u => said u 2 0) &&
    after (.txnStage .host c 1) (sTxn [{ txnFor 4 [] with failed := true }]) (fun u => said u 7 4) &&
    (let m := qcmOff 0 0x200
     !mayStage e .debug m && after (.txnStage .debug (BitVec.ofNat 28 m) 1) (sTxn [{ txnFor 4 [] with who := 1 }]) (fun u =>
      decide (txnResult u 1 = { result := 5, last := 4 })))) = true := by decide +kernel
theorem test_transactions :
    let s := sTxn []
    let e := sTxn [txnFor 4 []]
    let f := sTxn [{ txnFor 4 [] with failed := true }]
    let x := { sTxn [txnFor 4 [(safeOff 0x30, 1)]] with txn := { (sTxn [txnFor 4 [(safeOff 0x30, 1)]]).txn with log := [(0, [safeOff 0x30])] } }
    let z := { sTxn [txnFor 4 [(dealOff 0x1000, 1)]] with ctx := { Ctx.empty with ents := [(0, ⟨0, 102⟩)] } }
    (after (.cfgTxnBegin .host 1) s (fun u => said u 0 5 && decide (u.txn.txns.map (fun t => t.id) = [5] ∧ u.txn.nextId = 6)) &&
    after (.cfgTxnBegin .host 1) e (fun u => said u 1 4) && gives (.cfgTxnBegin .host 2) s s &&
    after (.cfgTxnCommit .host 4) s (fun u => said u 3 4) && after (.cfgTxnRollback .host 4) s (fun u => said u 3 4) &&
    after (.cfgTxnCommit .host 9) e (fun u => said u 3 9) && after (.cfgTxnRollback .host 9) e (fun u => said u 3 9) &&
    after (.cfgTxnRollback .host 4) e (fun u => said u 0 4 && decide (u.txn.txns = [])) &&
    after (.cfgTxnCommit .host 4) f (fun u => said u 7 4 && decide (u.txn.txns = [])) &&
    txnConflict x (txnFor 4 [(safeOff 0x30, 1)]) && after (.cfgTxnCommit .host 4) x (fun u => said u 4 4) &&
    txnForbidden z (txnFor 4 [(dealOff 0x1000, 1)]) && after (.cfgTxnCommit .host 4) z (fun u => said u 6 4) &&
    after (.cfgTxnCommit .host 4) e (fun u => said u 0 4 && decide (u.txn.txns = [{ txnFor 4 [] with committed := true }])) &&
    gives (.cfgTxnBegin .board 1) s s) = true := by decide +kernel
def custom2 : Custom :=
  { upc := 2, u := [], lc := 0, z := false, n := false, c := false, v := false, stack := [], count := 0
    form := ⟨0, 0, 0, 0, 0, 0⟩, long := none, held := false, flags := 0 }
theorem test_transaction_ends :
    let done (r : List (Nat × Word)) (w : Tab (BitVec 96)) : Txn := { txnFor 4 r with words := w, committed := true }
    let a := sTxn [done [(safeOff 0x30, 0x12345)] []]
    let p := rset (sTxn [done [(portOff 0 0, wd (9 * 2 ^ 44 + 3))] []]) (portOff 0 8) 7
    let k := setCore (sTxn [done [] [(2, 9)]]) 0 { getCore sReg 0 with ucache := [5] }
    let r := { sTxn [done [] [(2, 9)]] with threads := [(0, { thread 0 0 0 with custom := some custom2 })] }
    (after (.txnTimeout 4) (sTxn [{ txnFor 4 [] with age := 2 ^ 24 }]) (fun u => said u 8 4 && decide (u.txn.txns = [])) &&
    gives (.txnTimeout 4) (sTxn [txnFor 4 []]) (sTxn [txnFor 4 []]) &&
    after (.txnApply 4) a (fun u => said u 0 4 && decide (rget u (safeOff 0x30) = 0x2345 ∧ u.txn.txns = [])) &&
    gives (.txnApply 3) a a && after (.txnApply 4) p (fun u => decide (portState u 0 = 1)) &&
    after (.txnApply 4) k (fun u => decide (u.ucode = [(2, 9)] ∧ (getCore u 0).ucache = [])) &&
    gives (.txnApply 4) (sTxn [txnFor 4 []]) (sTxn [txnFor 4 []]) &&
    !txnSafe r (done [] [(2, 9)]) && gives (.txnApply 4) r r) = true := by decide +kernel
theorem test_bar2 :
    let s := { sVM 0 0 0 0 with mem := [(0x4000, 5), (0x4001, 6)] }
    (isReady s && hostClear s .host && after (.bar2Read 0x4000 3) s (fun u => decide (u.host.reply = some (.bytes [5, 6, 0]))) &&
    after (.bar2Read 0xFFFFFFFF0 3) (rset s (hostOff 0x10) (wd (0xFFFF * 2 ^ 30))) (fun u => decide (u.host.reply = some .unsupported)) &&
    after (.bar2Write 0x4002 [8, 9]) s (fun u => decide ((readPa u managerAgent 0x4000 4).2 = (0x09080605, none))) &&
    after (.bar2Write 0xFFFFFFFF0 [1]) (rset s (hostOff 0x10) (wd (0xFFFF * 2 ^ 30))) (fun u => decide (rfield u (hostOff 0x18) 0 32 = 1)) &&
    after (.bar2Read 0x4000 3) (rset s 0x18 9) (fun u => decide (u.host.reply = some .unsupported)) &&
    gives (.bar2Write 0x4000 [1]) (rset s 0x18 9) (rset s 0x18 9)) = true := by decide +kernel
theorem test_vectors_and_mailboxes :
    let t := device (thread 0 0 0)
    let m := rset (rset t (msixCtl 40) (2 ^ 32)) (hostOff 0x10000) (2 ^ 40)
    let o := hostOff 0x108
    (after (.msixUnmask 40) m (fun u => decide (u.host.msgs = [40]) && !bit (rget u (msixCtl 40)) 32) &&
    after (.hostRaise thrA 40) (rset t (msixCtl 40) 0) (fun u => decide (u.host.msgs = [40])) && gives (.hostRaise thrA 31) t t &&
    after (.hostRaise thrA 40) (rset t (msixCtl 40) (2 ^ 32)) (fun u => decide (u.host.msgs = []) && bit (rget u (hostOff 0x10000)) 40) &&
    after (.mbxH2d 0 7) t (fun u => decide (rget u o = 2 ^ 63 + 7)) &&
    after (.mbxH2d 0 7) (rset t o (2 ^ 63 + 5)) (fun u => decide (rget u o = 2 ^ 63 + 2 ^ 62 + 5)) &&
    after (.mbxD2h thrA 3 7) t (fun u => decide (rget u (hostOff 0x170) = 2 ^ 63 + 7) && bit (rget u (hostOff 0)) 3)) = true := by
  decide +kernel
theorem test_debug_port :
    let s (m : ThreadMode) (c : Bool) : State := device { thread 0 0 0 with mode := m, claimed := c }
    let d (op : TapOp) (a b : State) : Bool := gives (.tapInstruction op) a b
    let p := { s .run false with kept := { kept0 with lc := 2 } }
    (mayClaim (s .run false) && d (.dbgClaim thrA) (s .run false) (s .run true) && d (.dbgStop thrA) (s .run true) (s .debug true) &&
    d (.dbgRun thrA) (s .debug true) (s .run true) && d (.dbgRelease thrA) (s .debug true) (s .run false) &&
    d (.dbgStop thrA) (s .run false) (s .run false) && !mayClaim p && d (.dbgClaim thrA) p p && d .bypass p p &&
    after (.tapInstruction (.dbgSync false 5 9)) p (fun u => decide (u.syncQ = [(0, [{ seq := 0, kind := .sig, src := .debug, obj := 5, arg := 9 }])]))) =
      true := by decide +kernel
def sPow (p : Power) : State := { rset (rset sReg (pwrOff 8) 1000) (pwrOff 0) 0x800 with power := p }
def pow0 : Power := Power.reset
theorem test_power_samples :
    let off := sPow { pow0 with stages := false }
    (after (.powerSample 3401 900 1000 43001) (sPow pow0) (fun u => decide (u.power.dp = 4 ∧ u.power.runOver = 10 ∧
      u.power.capped = false ∧ u.power.sagClear = 10 ∧ rfield u (pwrOff 0) 48 16 = 43001 ∧ rfield u (pwrOff 0) 32 16 = 900 ∧
      rfield u (pwrOff 0) 8 4 = 4)) &&
    after (.powerSample 2801 0 1001 43000) (sPow { pow0 with runOver := 50, sagClear := 9 }) (fun u => decide (u.power.dp = 8 ∧
      u.power.runOver = 60 ∧ u.power.capped = true ∧ u.power.sagClear = 0)) &&
    after (.powerSample 2801 0 0 43000) (sPow { pow0 with runOver := 3990 }) (fun u => u.power.capped) &&
    gives (.powerSample 1 1 1 1) off off && gives (.dutyPeriod [] ⟨0, 0⟩) off off && gives .dutyWindow off off &&
    after (.dutyPeriod [⟨3, 800⟩] ⟨200, 240⟩) (sPow { pow0 with capped := true, dt := [(1, 5)], window := 3 }) (fun u => decide (u.power.dp = 7 ∧
      u.power.dt = [(0, 7), (1, 6)] ∧ u.power.window = 0 ∧ u.power.capped = false ∧ rfield u (pwrOff 0) 8 4 = 6 ∧ thermN u = false ∧ u.power.temps = [(3, 800)] ∧
      rget u (pwrOff 0x20) = wd (200 * 2 ^ 48 + 240 * 2 ^ 32 + 800 * 2 ^ 16))) &&
    after .dutyWindow (sPow { pow0 with window := 7 }) (fun u => decide (u.power.window = 7))) = true := by decide +kernel
theorem test_brown_out :
    let s := sPow pow0
    let g := rset (sPow { pow0 with sagClear := 1000 }) (pwrOff 0) 0x801
    (after (.inputSag 41999) s (fun u => sagging u && decide (rfield u (pwrOff 0) 48 16 = 41999 ∧ u.power.alert = 9 ∧
      u.safety.reports.map (fun r => (r.code, r.loc)) = [(0x30, 41999)])) &&
    gives (.inputSag 42000) s s && after (.inputSag 1) g (fun u => sagging u && decide (u.power.sagClear = 0 ∧
      rfield u (pwrOff 0) 48 16 = 1 ∧ u.safety = g.safety)) && sagging g && after .sagEnd g (fun u => !sagging u) && gives .sagEnd s s &&
    after (.supplyReset 37999) s (fun u => u.power.supplyHeld && decide (u.safety.reports.map (fun r => r.code) = [0x12])) &&
    gives (.supplyReset 38000) s s && after .supplyRecover (sPow { pow0 with supplyHeld := true }) (fun u => !u.power.supplyHeld)) = true := by
  decide +kernel
theorem test_temperatures :
    let s := sPow pow0
    let x := { s with safety := { Safety.idle with excluded := [5] } }
    (after (.thermalTrip 5 880) s (fun u => u.power.tripped && decide (u.power.temps = [(5, 880)] ∧
      u.safety.reports.map (fun r => r.code) = [0x11] ∧ rfield u (pwrOff 0x20) 16 16 = 880)) &&
    gives (.thermalTrip 5 879) s s && gives (.thermalTrip 5 880) x x &&
    after (.inletHigh ⟨321, 400⟩) s (fun u => decide (rget u (pwrOff 0x20) = wd (321 * 2 ^ 48 + 400 * 2 ^ 32) ∧ u.power.alert = 12 ∧ alertN u = false)) &&
    gives (.inletHigh ⟨320, 400⟩) s s && decide (usedTemp { x with power := { pow0 with temps := [(4, 7), (5, 900), (6, 9)] } } 5 = some 9) &&
    after .thermalBootRelease (sPow { pow0 with tripped := true }) (fun u => !u.power.tripped)) = true := by decide +kernel

/-! ### Security (R490, R511, R520 to R525) -/

/-- A command is in progress; FLASH_ADDR names 2 bytes at 5; SEC_BUF begins with 1, 2. -/
def sSec (cmd : Option (BitVec 8)) (k : Kept) : State :=
  let s := { device Thread.off with security := { Security.idle with busy := cmd, cert := [1, 2, 3] }, kept := k }
  rset (rset s (secOff 0x20) (wd (2 * 2 ^ 32 + 5))) (secOff 0x10000) 0x201
def endsWith (c : Instr) (s : State) (result : Nat) (p : State → Bool) : Bool :=
  after c s (fun u => decide (u.security.busy = none ∧ rget u (secOff 8) = wd result) && p u)
theorem test_security_commands_start :
    let s := sSec none kept0
    let b := sSec (some 2) kept0
    ([(Instr.lcToken .host, (1 : BitVec 8)), (.attest .host, 2), (.flashRead .host, 3), (.flashProgram .host, 4),
      (.flashErase .host, 5), (.scanEnable .host, 6)].all (fun c =>
      after c.1 s (fun u => decide (u.security.busy = some c.2 ∧ rget u (secOff 8) = 2 ^ 63)) &&
      after c.1 b (fun u => decide (u.security.busy = some 2 ∧ rget u (secOff 8) = 2 ^ 63 + 1))) &&
    secReach s .host && !secReach s .board && gives (.attest .board) s s && gives (.secCommandDone false) s s) = true := by
  decide +kernel
/-- BLANK to PRODUCTION is no transition; the identity key answers in PROVISIONED only. -/
theorem test_token_refused_and_attest :
    let t := rset (sSec (some 1) kept0) (secOff 0x10000) 2
    let k := { kept0 with lc := 1, identity := some 4 }
    (decide (tokenCode t = 2 ∧ attestKey (sSec (some 2) kept0) = none ∧ attestKey (sSec (some 2) k) = some 4) &&
    endsWith (.secCommandDone false) t 2 (fun u => decide (u.kept = kept0 ∧ u.security.nonceDraw = some 2 ∧ u.fresh = 4)) &&
    endsWith (.secCommandDone false) (sSec (some 2) kept0) 7 (fun u => decide (u.kept = kept0))) = true := by decide +kernel
/-- Where a token passes its checks, a destination of the table follows. -/
theorem witness_token (s : State) (h : tokenCode s = 0) : lcAllowed (lcState s) (ofBytes (bufBytes s 0 1)) = true := by
  cases hc : lcAllowed (lcState s) (ofBytes (bufBytes s 0 1)) with
  | true => rfl
  | false => simp [tokenCode, hc] at h
theorem test_flash_commands :
    let k := { kept0 with flash := [(5, 7), (6, 8), (7, 9)] }
    let act (s : State) : State := rset s 0x18 0x1000A
    (!activeSlot (sSec (some 4) k) 5 7 && activeSlot (act (sSec (some 4) k)) 5 7 &&
    endsWith (.secCommandDone false) (sSec (some 3) k) 0 (fun u => decide (bufBytes u 0 3 = [7, 8, 0])) && endsWith (.secCommandDone true) (sSec (some 3) k) 9 (fun _ => true) &&
    endsWith (.secCommandDone false) (sSec (some 4) k) 0 (fun u => decide (u.kept.flash = [(5, 1), (6, 2), (7, 9)])) &&
    endsWith (.secCommandDone true) (sSec (some 4) k) 9 (fun u => decide (u.kept = k)) &&
    endsWith (.secCommandDone false) (act (sSec (some 4) k)) 8 (fun u => decide (u.kept = k)) &&
    endsWith (.secCommandDone false) (act (sSec (some 5) k)) 8 (fun u => decide (u.kept = k)) && endsWith (.secCommandDone true) (sSec (some 5) k) 9 (fun u => decide (u.kept = k)) &&
    endsWith (.secCommandDone false) (rset (sSec (some 5) k) (secOff 0x20) 5) 0 (fun u => decide (u.kept = k))) = true := by decide +kernel
theorem test_scan_enable :
    let s := { sSec (some 6) kept0 with mem := [(1, 1)], threads := [(0, { thread 7 0 0 with v := [(1, 5)] })] }
    let p := { s with kept := { kept0 with lc := 2 } }
    (endsWith (.secCommandDone false) s 0 (fun u => decide (u.mem = [] ∧ (getThread u 0).v = [] ∧ getG (getThread u 0) 1 = 0 ∧ u.security.cert = [] ∧ u.security.nonceDraw = none ∧ measOf u 0 = 0) && bit (rget u (safeOff 0)) 4) &&
    endsWith (.secCommandDone false) p 10 (fun u => decide (u.mem = [(1, 1)]))) = true := by decide +kernel
def req0 : SpdmReq := { msg := [9], context := 3, slot := 0, index := 0, signed := false, off := 1, len := 5, nonce := 0 }
theorem test_doe :
    let s := sSec none kept0
    let replies (c : Instr) (b : List Byte) : Bool := after c s (fun u => decide (u.host.doe = b) && bit (rget u (hostOff 0)) 21)
    (doeReady s && replies (.getVersion req0) [0x10, 4, 0, 0, 0, 1, 0, 0x13] && replies (.spdmUnsupported req0) [0x13, 0x7F, 7, 0] &&
    replies (.getCertificate req0) [0x13, 2, 0, 0, 2, 0, 0, 0, 2, 3] && replies (.getCertificate { req0 with off := 4 }) [0x13, 0x7F, 1, 0] &&
    replies (.challenge req0) [0x13, 0x7F, 5, 0] && replies (.getMeasurements { req0 with index := 17 }) [0x13, 0x7F, 1, 0] &&
    replies (.getMeasurements { req0 with signed := true }) [0x13, 0x7F, 5, 0] &&
    after (.getCapabilities req0) s (fun u => decide (u.host.doe.length = 20)) &&
    after (.negotiateAlgorithms req0) s (fun u => decide (u.host.doe.length = 36)) &&
    after (.getDigests req0) s (fun u => decide (u.host.doe.take 4 = [0x13, 1, 1, 1] ∧ u.security.spdmCerts.take 3 = [9, 0x13, 1])) &&
    after (.getMeasurements req0) s (fun u => decide (u.host.doe.take 8 = [0x13, 0x60, 16, 0, 0, 0, 0, 0])) &&
    decide (attestKey (sSec none { kept0 with lc := 2, identity := some 4 }) = some 4 ∧ measRecord s 0 = some (0, [])) &&
    after (.challenge req0) (sSec none { kept0 with lc := 2, identity := some 4 }) (fun u => decide (u.host.doe.take 4 = [0x13, 3, 0, 1])) &&
    gives (.getVersion req0) (rset s 0x18 1) (rset s 0x18 1)) = true := by decide +kernel

/-! ### Further corners -/

/-- A write to a page of a sequence that has retired is released to its fault. -/
theorem test_window_of_a_dead_sequence :
    let s := sKitty { Ctx.empty with held := [held0 (.alloc 0), held0 (.alloc 1)] }
    decide (keyGone s 0 = true) && after .windowAlloc s (fun u => decide (u.ctx.held = [held0 (.alloc 1)] ∧ u.ctx.ents = [])) = true := by
  decide +kernel
/-- Step 4 with a REGS section of one entry: SAFE_THRESH, or a software reset. -/
def sApply (o v : Byte) : State :=
  sBoot 4 kept0 { Boot.start with copy := 1, svn := 2, gen := 7, size := 4096, sections := [(0xB, 0, 0x60, 16)]
                                  image := List.replicate 0x60 0 ++ [o, 0, if o = 0x30 then 0x20 else 0, 0, 0, 0, 0, 0, v, 0, 0, 0, 0, 0, 0, 0] }
theorem witness_apply_entry : ∀ t : State, putReg t .host (safeOff 0x30) 3 = plainWrite t .host (safeOff 0x30) 3 := by
  intro t
  have h : blockOf (safeOff 0x30) = (.safe, 0x30) := by decide +kernel
  have k : (0x30 : Nat) ≠ 0x50 := by decide
  simp only [putReg, h, safeWrite, k, false_and, if_false]
theorem test_boot_apply_ends :
    (decide (regsEntries (sectionBytes (sApply 0x30 3) (0xB, 0, 0x60, 16)) = [(safeOff 0x30, 3)] ∧ (regAt (safeOff 0x30)).w1c = 0) &&
    after .bootApply (sApply 0x30 3) (fun u => decide (stageOf u = 5 ∧ u.boot.deckApplied = true ∧ rget u 0x20 = wd (2 * 2 ^ 48 + 7) ∧
      rfield u 0x18 16 4 = 1 ∧ rget u (safeOff 0x30) &&& deckMask (safeOff 0x30) = 3)) &&
    after .bootApply (sApply 0x28 0xA5) (fun u => inReset u && decide (rfield u 0x18 24 4 = 3 ∧ u.boot = Boot.start))) = true := by
  decide +kernel
/-- A copy that no longer passes its checks when it is read again gives way to the next, or to none. -/
theorem test_boot_read_again :
    let s (l : List Nat) := sBoot 2 (decks (deckHead 0 5) (deckHead deckB 4)) { Boot.start with copy := 1, todo := l }
    (after (.bootRead true false) (s [2]) (fun u => decide (stageOf u = 2 ∧ rfield u 0x18 8 4 = 9 ∧ u.boot.copy = 2 ∧ u.boot.todo = [])) &&
    after (.bootRead true false) (s []) (fun u => decide (stageOf u = 0xB ∧ rfield u 0x18 8 4 = 9))) = true := by decide +kernel
theorem test_results_that_are_no_numbers :
    fpSub 11 0 0x7F800000 0x7F800000 = (0x7FC00000, fINV) ∧ fpDiv 11 0 0 0x80000000 = (0x7FC00000, fINV) ∧
    fpDiv 12 0 0x7FF0000000000000 0xFFF0000000000000 = (0x7FF8000000000000, fINV) ∧ fpSqrt 11 0 0xBF800000 = (0x7FC00000, fINV) ∧
    fpFma 11 0 false false 0x7F800000 0x3F800000 0xFF800000 = (0x7FC00000, fINV) ∧
    fpMul 11 0 0 0xFF800000 = (0x7FC00000, fINV) ∧ fpMinMax 11 true 0x7F800001 0x7FC00002 = (0x7FC00001, fINV) := by decide +kernel
/-- The reciprocal of 0x7E800001 is below the smallest normal number and rounds up to it. -/
theorem test_reciprocal_underflow :
    (rcpOp 11 3 0x7E800001 = (0x00800000, fUF ||| fNX)) ∨ (rcpOp 11 2 0x7E800001 = (0x00800000, fUF ||| fNX)) := by decide +kernel
theorem test_claim_of_a_reserved_format :
    let s := sTile [] .free []
    (issuesB issA s && gives (.tClaim issA (tOwn 0 3 13)) s (takeFault false (countIssue (fetched issA s) 0) 0 0x03 0x1000)) = true := by
  decide +kernel
theorem test_phase_commands_out_of_place :
    let no (c : Instr) (st : Nat) : Bool := gives c (sDeal st live0) (rsetField (sDeal st live0) (jobOff 8) 4 4 1)
    (no (.startG .host 7) 1 && no (.stop .host) 1 && no (.endG .host) 0 && no (.endG .host) 3 && no (.stop .host) 0) = true := by
  decide +kernel
theorem test_peer_that_does_not_fit :
    let s := rset (sLink 2) (portOff 0 0) (wd (9 * 2 ^ 44 + 3))
    decide (peerFits s 0 8 = false) && after (.negotiate 0 7 8) s (fun u => decide (portState u 0 = 7 ∧ rfield u (portOff 0 8) 8 4 = 5 ∧
      u.safety.reports.map (fun r => (r.code, r.unit)) = [(0xE, 0)])) = true := by decide +kernel
/-- Tests that fail where the store is full, and where the spares of a row are spent. -/
def storeFull : List RetireEnt := (List.range 256).map (fun k => { kind := 0, region := BitVec.ofNat 48 k })
theorem test_no_room_to_retire :
    let s := withTests [.core 0] true
    let f := { s with kept := { s.kept with retire := storeFull } }
    (after (.targetedTestDone 0 false) f (fun u => (getCore u 0).stopped && !(getCore u 0).testing && decide (u.kept.retire.length = 256) &&
      bit (rget u (safeOff 0)) 1)) = true := by decide +kernel
theorem test_signed_measurements :
    let s := sSec none { kept0 with lc := 2, identity := some 4 }
    after (.getMeasurements { req0 with signed := true, index := 1 }) s (fun u => decide (u.host.doe.length = 8 + 55 + 32 + 2 + 8 + 96 ∧
      u.security.spdmMeas = [])) = true := by decide +kernel

end Sys2Proof.Tests
end

