-- ==== Sys2Proof/Proofs/CoreTimer.lean ====
section
/-! SUPPORT. The timer of a core (R44, R46): what a run, a step to 0 and a write leave in CORE_TIMER and
CORE_TIMER_CTL, and O28. -/

namespace Sys2Proof.Machine

open Sys2Proof

/-! ### Registers and fields -/

/-- Two registers of one core are the same register only at the same offset. -/
@[simp] theorem coreReg_inj {ci o p : Nat} : coreReg ci o = coreReg ci p ↔ o = p := by
  simp only [coreReg, coreOff]
  omega

/-- Setting one bit of a word sets that bit and keeps every other. -/
@[simp] theorem getElem_setField_one (w : Word) (i : Nat) {j : Nat} (hj : j < 64) :
    (setField w i 1 1)[j] = (decide (j = i) || w[j]) := by
  have hmask : BitVec.ofNat 64 (1 <<< i) = BitVec.twoPow 64 i :=
    BitVec.eq_of_toNat_eq (by simp [BitVec.toNat_twoPow, Nat.shiftLeft_eq])
  have hset : setField w i 1 1 = (w &&& ~~~BitVec.twoPow 64 i) ||| BitVec.twoPow 64 i := by
    simp [setField, hmask]
  rw [hset]
  by_cases h : j = i <;> simp [BitVec.getElem_twoPow, h]

/-! ### What the running timer does with the cycles it is owed -/

/-- A run changes the core's own record and takes from the count at most the cycles owed. -/
theorem timerRun_cases (s : State) (ci : Nat) : ∃ k, timerRun s ci = setCore s ci k ∨
    ∃ d ≤ (getCore s ci).timerOwed.toNat, timerRun s ci =
      setCore (rset s (coreReg ci 0x28) (wd ((rget s (coreReg ci 0x28)).toNat - d))) ci k := by
  by_cases hv : (rget s (coreReg ci 0x28)).toNat = 0
  · exact ⟨_, .inl (if_pos hv)⟩
  · exact ⟨_, .inr ⟨_, Nat.min_le_right .., if_neg hv⟩⟩

@[simp] theorem timerRun_threads (s : State) (ci : Nat) : (timerRun s ci).threads = s.threads := by
  obtain ⟨k, h | ⟨d, -, h⟩⟩ := timerRun_cases s ci <;> simp [h]

@[simp] theorem timerRun_mem (s : State) (ci : Nat) : (timerRun s ci).mem = s.mem := by
  obtain ⟨k, h | ⟨d, -, h⟩⟩ := timerRun_cases s ci <;> simp [h]

theorem rget_timerRun_other (s : State) {ci o : Nat} (ho : o ≠ coreReg ci 0x28) :
    rget (timerRun s ci) o = rget s o := by
  obtain ⟨k, h | ⟨d, -, h⟩⟩ := timerRun_cases s ci <;> simp [h, ho]

/-- A timer that is owed no cycle keeps its count. -/
theorem rget_timerRun_count_of_not_owed (s : State) {ci : Nat}
    (hk : (getCore s ci).timerOwed ≤ 0) :
    rget (timerRun s ci) (coreReg ci 0x28) = rget s (coreReg ci 0x28) := by
  obtain ⟨k, h | ⟨d, hd, h⟩⟩ := timerRun_cases s ci
  · simp [h]
  · have hd0 : d = 0 := by omega
    simp [h, hd0, wd]

/-! ### The step from 1 to 0 (R44) -/

@[simp] theorem timerStep_threads (s : State) (ci : Nat) :
    (timerStep s ci).threads = s.threads := by
  simp [timerStep, rsetField]

@[simp] theorem timerStep_mem (s : State) (ci : Nat) : (timerStep s ci).mem = s.mem := by
  simp [timerStep, rsetField]

/-- The step sets PEND, bit 8 of CORE_TIMER_CTL. -/
theorem timerStep_sets_pend (s : State) (ci : Nat) :
    (rget (timerStep s ci) (coreReg ci 0x20)).getLsbD 8 = true := by
  simp [timerStep, rsetField, rget_timerRun_other]

/-- Where no further cycle has passed, the step leaves the reload value with AUTO 1 and 0 with
AUTO 0. -/
theorem timerStep_reloads_or_stops (s : State) {ci : Nat} (h : (getCore s ci).timerOwed ≤ 1) :
    rget (timerStep s ci) (coreReg ci 0x28) =
      if (rget s (coreReg ci 0x20)).getLsbD 30 then rget s (coreReg ci 0x30) else 0 := by
  unfold timerStep
  rw [rget_timerRun_count_of_not_owed _ (by simpa [rsetField] using h)]
  simp [rsetField, bit]

/-! ### A write of CORE_TIMER (R46) -/

@[simp] theorem timerWrite_threads (s : State) (ci : Nat) (v : Word) :
    (timerWrite s ci v).threads = s.threads := by
  simp [timerWrite]

@[simp] theorem timerWrite_mem (s : State) (ci : Nat) (v : Word) :
    (timerWrite s ci v).mem = s.mem := by
  simp [timerWrite]

@[simp] theorem rget_timerWrite_count (s : State) (ci : Nat) (v : Word) :
    rget (timerWrite s ci v) (coreReg ci 0x28) = v &&& 0xFFFFFFFF := by
  simp [timerWrite]

theorem rget_timerWrite_other (s : State) {ci o : Nat} (v : Word) (h : o ≠ coreReg ci 0x28) :
    rget (timerWrite s ci v) o = rget s o := by
  simp [timerWrite, h]

/-! ### The two commands -/

theorem exec_timerExpire (c : CoreRef) (s : State) :
    exec (.timerExpire c) s = execTimerExpire c s := by
  rfl

theorem exec_coreTimerWrite (src : Sender) (c : CoreRef) (val : Word) (z : Bool) (s : State) :
    exec (.coreTimerWrite src c val z) s = execCoreTimerWrite src c val z s := by
  rfl

theorem exec_timerExpire_of_due {c : CoreRef} {s : State} (h : timerDue s (cix c) = true) :
    exec (.timerExpire c) s = .next (timerStep s (cix c)) := by
  simp [exec_timerExpire, execTimerExpire, h]

/-- A granted write reaches the timer after its step to 0, where both fall in one cycle. -/
theorem exec_coreTimerWrite_of_granted {src : Sender} {c : CoreRef} {s : State} (val : Word)
    (z : Bool) (hw : mayWrite s src 1 = true) (hp : corePresent s (cix c) = true) :
    exec (.coreTimerWrite src c val z) s = .next (timerWrite
      (if z && timerDue s (cix c) then timerStep s (cix c) else s) (cix c) val) := by
  simp [exec_coreTimerWrite, execCoreTimerWrite, hw, hp]

/-- Settles O28: the expiry is the timer's step to 0, and a write in the same cycle comes after that
step, so it replaces the count and leaves PEND. -/
theorem coreTimer : Obligations.CoreTimer := by
  unfold Obligations.CoreTimer
  intro c s ctl tim
  refine ⟨fun hdue => ?_, fun src val z hw hp => ?_⟩
  · exact ⟨_, exec_timerExpire_of_due hdue, timerStep_sets_pend s _,
      timerStep_reloads_or_stops s, timerStep_threads s _, timerStep_mem s _⟩
  · refine ⟨_, exec_coreTimerWrite_of_granted val z hw hp, rget_timerWrite_count .., ?_, ?_, ?_⟩
    · intro hz
      rw [if_pos hz, rget_timerWrite_other _ _ (by simp [ctl])]
      exact timerStep_sets_pend s _
    · rw [timerWrite_threads]
      split <;> simp
    · rw [timerWrite_mem]
      split <;> simp

end Sys2Proof.Machine
end

