-- ==== Sys2Proof/Proofs/ScalarForms.lean ====
section
/-! SUPPORT. The integer instructions of two registers (R66 to R68) and scalar memory accesses at a
misaligned address (R69): the value of each operation in the form the manual gives it, what each body
answers, and O6 and O12. -/

namespace Sys2Proof.Machine

open Sys2Proof

/-! ### The guards around a body, and a body that traps -/

/-- An instruction in its short form whose reserved fields are 0 runs its body. -/
theorem shortOnly_of_short {x : Iss} {r : Bool} (body : Nat → State → Body) (i : Nat) (s : State)
    (hl : x.long = none) (hr : r = true) : shortOnly x r body i s = body i s := by
  simp [shortOnly, hl, hr]

/-- On an L1 that serves accesses, an access runs its body. -/
theorem l1Open_of_serves {s : State} {i : Nat} (body : Nat → State → Body)
    (h : l1Closed s (i / 16) = false) : l1Open body i s = body i s := by
  simp [l1Open, h]

/-- An instruction whose body traps faults, counted as issued. -/
theorem issue_trap {x : Iss} {body : Nat → State → Body} {s u : State} {c : BitVec 8} {info : Word}
    (h : Issues x s) (hb : body (thrIx x.thr) (fetched x s) = .trap u c info) :
    issue x body s = takeFault false (countIssue u (thrIx x.thr)) (thrIx x.thr) c info := by
  rw [issue_of_issues h, hb]

/-! ### Values of the operations at both widths -/

/-- `true` and `false` as the words 1 and 0. -/
theorem wd_b2n_decide (p : Prop) [Decidable p] : wd (b2n (decide p)) = if p then 1 else 0 := by
  by_cases h : p <;> simp [h, wd, b2n]

theorem aluSra_eq_div (w : Bool) (a b : Word) :
    aluSra w a b = BitVec.ofInt 64 (sOpnd w a / 2 ^ (b.toNat % widthOf w)) := by
  simp [aluSra, wdInt, shiftAmount, Int.shiftRight_eq_div_pow]

/-- A left rotation within a word, its two shifts done on the word's number. -/
theorem ofNat_shifts_eq_rotateLeft {n : Nat} (v : BitVec n) {k : Nat} (hk : k < n) :
    BitVec.ofNat n (v.toNat <<< k ||| v.toNat >>> (n - k)) = v.rotateLeft k := by
  rw [BitVec.rotateLeft_def, Nat.mod_eq_of_lt hk]
  apply BitVec.eq_of_toNat_eq
  have hs : v.toNat >>> (n - k) < 2 ^ n := (Nat.shiftRight_le ..).trans_lt v.isLt
  rw [BitVec.toNat_ofNat, Nat.or_mod_two_pow, Nat.mod_eq_of_lt hs, BitVec.toNat_or,
    BitVec.toNat_shiftLeft, BitVec.toNat_ushiftRight]

theorem aluRotl_eq_rotateLeft (w : Bool) (a b : Word) :
    aluRotl w a b =
      if w then ((a.truncate 32).rotateLeft (b.toNat % widthOf w)).signExtend 64
      else a.rotateLeft (b.toNat % widthOf w) := by
  cases w with
  | false => exact ofNat_shifts_eq_rotateLeft a (Nat.mod_lt _ (by decide))
  | true =>
    have h := ofNat_shifts_eq_rotateLeft (a.truncate 32) (Nat.mod_lt b.toNat (by decide : 0 < 32))
    simp only [aluRotl, atWidth, uOpnd, shiftAmount, widthOf, wd, if_true]
    rw [← h]
    simp [BitVec.setWidth_ofNat_of_le]

theorem aluSlt_eq_ite (w : Bool) (a b : Word) :
    aluSlt w a b = if sOpnd w a < sOpnd w b then 1 else 0 :=
  wd_b2n_decide _

theorem aluSltu_eq_ite (w : Bool) (a b : Word) :
    aluSltu w a b = if uOpnd w a < uOpnd w b then 1 else 0 :=
  wd_b2n_decide _

theorem aluMin_eq_atWidth (w : Bool) (a b : Word) :
    aluMin w a b = atWidth w (if sOpnd w b < sOpnd w a then b else a) := by
  simp only [aluMin, ← not_lt, ite_not, apply_ite (atWidth w)]

theorem aluMinu_eq_atWidth (w : Bool) (a b : Word) :
    aluMinu w a b = atWidth w (if uOpnd w b < uOpnd w a then b else a) := by
  simp only [aluMinu, ← not_lt, ite_not, apply_ite (atWidth w)]

theorem aluMax_eq_atWidth (w : Bool) (a b : Word) :
    aluMax w a b = atWidth w (if sOpnd w a < sOpnd w b then b else a) :=
  (apply_ite (atWidth w) ..).symm

theorem aluMaxu_eq_atWidth (w : Bool) (a b : Word) :
    aluMaxu w a b = atWidth w (if uOpnd w a < uOpnd w b then b else a) :=
  (apply_ite (atWidth w) ..).symm

theorem aluMulh_eq_div (w : Bool) (a b : Word) :
    aluMulh w a b = atWidth w (BitVec.ofInt 64 (sOpnd w a * sOpnd w b / 2 ^ widthOf w)) := by
  simp [aluMulh, wdInt, Int.shiftRight_eq_div_pow]

theorem aluMulhu_eq_div (w : Bool) (a b : Word) :
    aluMulhu w a b = atWidth w (BitVec.ofNat 64 (uOpnd w a * uOpnd w b / 2 ^ widthOf w)) := by
  simp [aluMulhu, wd, Nat.shiftRight_eq_div_pow]

/-! ### Completion -/

/-- A register form with its reserved bits 0 writes its operation's result and is done. -/
theorem regBody_of_short {x : Iss} {f : RegForm} (op : AluOp) (i : Nat) (s : State)
    (hl : x.long = none) (hr : f.rsv = 0) :
    regBody x f op i s = .done
      (writeG s i f.d (op f.w32 (getG (getThread s i) f.a) (getG (getThread s i) f.b))) :=
  shortOnly_of_short _ i s hl (decide_eq_true hr)

/-- An instruction that means a register form of `op` completes with the result of `op`. -/
theorem exec_regForm_completes {x : Iss} {f : RegForm} {s : State} (h : Issues x s)
    (hl : x.long = none) (hr : f.rsv = 0) {c : Instr} {v : Word} (op : AluOp)
    (hexec : exec c s = .next (issue x (regBody x f op) s))
    (hv : op f.w32 (getG (getThread s (thrIx x.thr)) f.a) (getG (getThread s (thrIx x.thr)) f.b) = v) :
    ∃ u, exec c s = .next u ∧ completes x s u (fun t => setG t f.d v) (nextPc x s) := by
  refine ⟨_, hexec, issue_writeG h ?_⟩
  rw [regBody_of_short op _ _ hl hr, getG_fetched h, getG_fetched h, hv]

/-- Settles O6: every form runs through one body, so what is left is each operation's value. -/
theorem integerRegisterForms : Obligations.IntegerRegisterForms := by
  unfold Obligations.IntegerRegisterForms
  intro x f s h hl hr t w a b n
  simp only [List.forall_mem_cons]
  have completesWith := @exec_regForm_completes x f s h hl hr
  exact ⟨completesWith aluAdd rfl rfl,
    completesWith aluSub rfl rfl,
    completesWith aluAnd rfl rfl,
    completesWith aluOr rfl rfl,
    completesWith aluXor rfl rfl,
    completesWith aluSll rfl rfl,
    completesWith aluSrl rfl rfl,
    completesWith aluSra rfl (aluSra_eq_div w a b),
    completesWith aluRotl rfl (aluRotl_eq_rotateLeft w a b),
    completesWith aluSlt rfl (aluSlt_eq_ite w a b),
    completesWith aluSltu rfl (aluSltu_eq_ite w a b),
    completesWith aluMin rfl (aluMin_eq_atWidth w a b),
    completesWith aluMax rfl (aluMax_eq_atWidth w a b),
    completesWith aluMinu rfl (aluMinu_eq_atWidth w a b),
    completesWith aluMaxu rfl (aluMaxu_eq_atWidth w a b),
    completesWith aluMul rfl rfl,
    completesWith aluMulh rfl (aluMulh_eq_div w a b),
    completesWith aluMulhu rfl (aluMulhu_eq_div w a b),
    completesWith aluDiv rfl rfl,
    completesWith aluDivu rfl rfl,
    completesWith aluRem rfl rfl,
    completesWith aluRemu rfl rfl,
    List.forall_mem_nil _⟩

/-! ### Bodies at a misaligned address -/

theorem loadBody_misaligned {x : Iss} {f : MemForm} {i size : Nat} {signed : Bool} {s : State}
    {va : Word} (hk : loadKind f.kind = some (size, signed))
    (hva : memAddr x f (getThread s i) = some va) (hmis : va.toNat % size ≠ 0) :
    loadBody x f i s = .trap s 0x05 va := by
  simp only [loadBody, hk, hva, if_pos hmis]

theorem storeBody_misaligned {x : Iss} {f : MemForm} {i size : Nat} {s : State} {va : Word}
    (hk : storeKind f.kind = some size) (hva : memAddr x f (getThread s i) = some va)
    (hmis : va.toNat % size ≠ 0) : storeBody x f i s = .trap s 0x05 va := by
  simp only [storeBody, hk, hva, if_pos hmis]

theorem amoBody_misaligned (op : AmoOp) {f : RegForm} {i : Nat} {s : State}
    (hmis : (getG (getThread s i) f.a).toNat % (if f.w32 then 4 else 8) ≠ 0) :
    amoBody op f i s = .trap s 0x05 (getG (getThread s i) f.a) :=
  if_pos hmis

/-! ### The fault -/

theorem exec_ld (x : Iss) (f : MemForm) (s : State) :
    exec (.ld x f) s = .next (issue x (l1Open (loadBody x f)) s) := by
  rfl

theorem exec_st (x : Iss) (f : MemForm) (s : State) :
    exec (.st x f) s = .next (issue x (l1Open (storeBody x f)) s) := by
  rfl

/-- The address of an access, formed after the fetch, is that of the registers before it. -/
theorem memAddr_fetched {x : Iss} {f : MemForm} {s : State} {off : Word} (h : Issues x s)
    (ho : literalOr x (f.off.signExtend 64) = some off) :
    memAddr x f (getThread (fetched x s) (thrIx x.thr)) =
      some (getG (getThread s (thrIx x.thr)) f.a + off) := by
  rw [memAddr, ho, Option.map_some, getG_fetched h]

/-- An atomic at a misaligned address faults with that address. -/
theorem amo_misaligned (op : AmoOp) {x : Iss} {f : RegForm} {s : State} (h : Issues x s)
    (hopen : l1Closed (fetched x s) (thrIx x.thr / 16) = false) (hl : x.long = none) (hr : f.rsv = 0)
    (hmis : (getG (getThread s (thrIx x.thr)) f.a).toNat % (if f.w32 then 4 else 8) ≠ 0) :
    amo op x f s = takeFault false (countIssue (fetched x s) (thrIx x.thr)) (thrIx x.thr) 0x05
      (getG (getThread s (thrIx x.thr)) f.a) := by
  rw [← getG_fetched h] at hmis ⊢
  refine issue_trap h ?_
  rw [shortOnly_of_short _ _ _ hl (decide_eq_true hr), l1Open_of_serves _ hopen,
    amoBody_misaligned op hmis]

/-- Settles O12: the alignment check is the first thing each body does, on the state the fetch left. -/
theorem alignmentFaults : Obligations.AlignmentFaults := by
  unfold Obligations.AlignmentFaults
  intro x s h i t hopen fault
  have faultOf {body : Nat → State → Body} {va : Word}
      (hb : body i (fetched x s) = .trap (fetched x s) 0x05 va) :
      issue x (l1Open body) s = fault va :=
    issue_trap h ((l1Open_of_serves body hopen).trans hb)
  refine ⟨fun f off size ho => ?_, fun f hl hr hmis => ?_⟩
  · intro va hmis
    have hva := memAddr_fetched h ho
    constructor
    · intro signed hk
      rw [exec_ld, faultOf (loadBody_misaligned hk hva hmis)]
    · intro hk
      rw [exec_st, faultOf (storeBody_misaligned hk hva hmis)]
  · have amoFaults (op : AmoOp) : Host.Outcome.next (φ := Fault) (ρ := Refusal) (amo op x f s) =
        .next (fault (getG t f.a)) := congrArg _ (amo_misaligned op h hopen hl hr hmis)
    simp only [List.forall_mem_cons]
    exact ⟨amoFaults .add, amoFaults .swap, amoFaults .cas, amoFaults .min, amoFaults .max,
      amoFaults .minu, amoFaults .maxu, List.forall_mem_nil _⟩

end Sys2Proof.Machine
end

