-- ==== Sys2Proof/Proofs/ThreadStart.lean ====
section
/-! SUPPORT. The start of a thread (R38, R112): the thread it leaves, the enable bit it sets, what
it leaves unchanged, and O26. -/

namespace Sys2Proof.Machine

open Sys2Proof

/-! ### The started thread (R112) -/

/-- The thread that a start leaves on a core that issues: an OFF thread's registers, the ENTRY
values of the deck, RUN at ENTRY1, and THREAD_START as the cause. Signals still on the links stay
counted. -/
def startedThread (s : State) (i : Nat) : Thread :=
  { setEntry (setEntry Thread.off 0 s.deckEntry0) 1 s.deckEntry1 with
    mode := .run, pc := s.deckEntry1, ring := 1, cause := 0x60, faultinfo := tidWord s i
    sigOut := (getThread s i).sigOut }

theorem startThread_of_issuing {s : State} {i : Nat} (h : (getCore s (i / 16)).stopped = false) :
    startThread s i = setThread s i (startedThread s i) := by
  simp [startThread, startedThread, setEntry, h]

/-- A thread that holds no general register reads 0 in each. -/
theorem getG_of_empty {t : Thread} (h : t.g = []) (r : BitVec 5) : getG t r = 0 := by
  simp [getG, h, tabGet, tabFind, zeroWord]

/-! ### The enable bit (R38) -/

/-- The state with a thread's bit of CORE_THR_EN set. -/
def withEnableBit (s : State) (i : Nat) : State := rsetField s (coreReg (i / 16) 0x8) (i % 16) 1 1

theorem bit_withEnableBit (s : State) (i : Nat) :
    (rget (withEnableBit s i) (coreReg (i / 16) 0x8)).getLsbD (i % 16) = true := by
  have hi : i % 16 < 64 := by omega
  rw [withEnableBit, rsetField, rget_rset_same, BitVec.getLsbD_eq_getElem hi]
  simp

@[simp] theorem getThread_withEnableBit (s : State) (i j : Nat) :
    getThread (withEnableBit s i) j = getThread s j := getThread_rset ..

@[simp] theorem getCore_withEnableBit (s : State) (i ci : Nat) :
    getCore (withEnableBit s i) ci = getCore s ci := getCore_rset ..

@[simp] theorem withEnableBit_mem (s : State) (i : Nat) : (withEnableBit s i).mem = s.mem :=
  rset_mem ..

/-- A start reads no register of the device: the enable bit does not change the thread it leaves. -/
@[simp] theorem startedThread_withEnableBit (s : State) (i j : Nat) :
    startedThread (withEnableBit s i) j = startedThread s j := by
  simp [startedThread, tidWord, withEnableBit, rsetField]

/-! ### The command -/

theorem exec_threadStart (src : Sender) (th : Thr) (s : State) :
    exec (.threadStart src th) s = execThreadStart src th s := by
  rfl

/-- Where no test holds the core, a granted start is a rise of the thread's enable bit. -/
theorem exec_threadStart_of_granted {src : Sender} {th : Thr} {s : State}
    (hw : mayWrite s src 1 = true) (hp : corePresent s (thrCore th) = true)
    (ht : underTest s (thrIx th) = false) :
    exec (.threadStart src th) s = .next (raiseEnable s (thrIx th)) := by
  simp [exec_threadStart, execThreadStart, threadEnable, writeThread, threadWrite, setEnable, hw,
    hp, ht]

/-- A rise of the enable bit of an OFF thread, on a core that issues, starts that thread. -/
theorem raiseEnable_of_off {s : State} {i : Nat}
    (hbit : (rget s (coreReg (i / 16) 0x8)).getLsbD (i % 16) = false) (hi : hasThread i = true)
    (hoff : (getThread s i).mode = .off) (hstop : (getCore s (i / 16)).stopped = false) :
    raiseEnable s i = setThread (withEnableBit s i) i (startedThread s i) := by
  have hstart : raiseEnable s i = startThread (withEnableBit s i) i := by
    simp [raiseEnable, withEnableBit, rsetField, bit, hbit, hi, hoff]
  rw [hstart, startThread_of_issuing (by simpa using hstop), startedThread_withEnableBit]

/-- Settles O26: the start sets the enable bit and writes the started thread, and nothing else. -/
theorem threadStart : Obligations.ThreadStart := by
  unfold Obligations.ThreadStart
  intro src th s i hw hp hbit hi hoff ht hstop
  have hexec : exec (.threadStart src th) s =
      .next (setThread (withEnableBit s i) i (startedThread s i)) := by
    rw [exec_threadStart_of_granted hw hp ht, raiseEnable_of_off hbit hi hoff hstop]
  refine ⟨_, hexec, ?_⟩
  have hother {j : Nat} (hj : j ≠ i) :
      getThread (setThread (withEnableBit s i) i (startedThread s i)) j = getThread s j := by
    rw [getThread_setThread_other _ _ hj, getThread_withEnableBit]
  rw [getThread_setThread_same, rget_setThread, setThread_mem]
  exact ⟨rfl, rfl, getG_of_empty rfl, rfl, rfl, rfl, rfl, rfl, rfl, rfl, rfl, rfl, rfl,
    bit_withEnableBit s i, withEnableBit_mem s i, fun _ => hother⟩

end Sys2Proof.Machine
end

section
/-! SUPPORT. The NaN that an FP32 or FP64 operation returns (R116, R117, R119): what decoding says of
a code, which NaN a list of operands gives, when an exact sum or product does not exist, and O19. -/

namespace Sys2Proof.Machine

open Sys2Proof

/-! ### Kinds of values -/

/-- A signalling NaN. -/
def Fp.signals : Fp → Bool
  | .nan s _ => s
  | _ => false

def Fp.isInf : Fp → Bool
  | .inf _ => true
  | _ => false

def Fp.isZero : Fp → Bool
  | .fin _ m _ => decide (m = 0)
  | _ => false

/-- One factor is a zero and the other an infinity. -/
def zeroTimesInf (x y : Fp) : Bool := x.isZero && y.isInf || x.isInf && y.isZero

theorem Fp.eq_inf_of_isInf {x : Fp} (h : x.isInf = true) : x = .inf x.neg? := by
  cases x <;> simp_all [Fp.isInf, Fp.neg?]

theorem Fp.eq_fin_zero_of_isZero {x : Fp} (h : x.isZero = true) : ∃ e, x = .fin x.neg? 0 e := by
  cases x <;> simp_all [Fp.isZero, Fp.neg?]

theorem isNan_of_isInf {x : Fp} (h : x.isInf = true) : x.isNan = false := by
  rw [Fp.eq_inf_of_isInf h]
  rfl

theorem isNan_of_isZero {x : Fp} (h : x.isZero = true) : x.isNan = false := by
  obtain ⟨e, hx⟩ := Fp.eq_fin_zero_of_isZero h
  rw [hx]
  rfl

@[simp] theorem isNan_fpNeg (x : Fp) : (fpNeg x).isNan = x.isNan := by
  cases x <;> rfl

@[simp] theorem isInf_fpNeg (x : Fp) : (fpNeg x).isInf = x.isInf := by
  cases x <;> rfl

theorem neg?_fpNeg {x : Fp} (h : x.isNan = false) : (fpNeg x).neg? = !x.neg? := by
  cases x with
  | nan s c => simp [Fp.isNan] at h
  | inf n | fin n m e => rfl

/-- Negation under a condition, as a fused form negates its product and its addend. -/
theorem neg?_fpNeg_if {x : Fp} (h : x.isNan = false) (p : Bool) :
    (if p then fpNeg x else x).neg? = (x.neg? != p) := by
  cases p <;> simp [neg?_fpNeg h]

@[simp] theorem isInf_fpNeg_if (x : Fp) (p : Bool) :
    (if p then fpNeg x else x).isInf = x.isInf := by
  cases p <;> simp

/-! ### What decoding says of a code -/

/-- Decoding a code of FP32 or FP64 by its exponent field and its fraction. -/
theorem decodeFmt_ieee {f : Nat} (hf : f = 11 ∨ f = 12) (n : Nat) :
    decodeFmt f n =
      (let p := floatParams f
       let fr := n % 2 ^ p.2.1
       let ef := (n >>> p.2.1) % 2 ^ p.1
       let neg := n.testBit (p.1 + p.2.1)
       if ef = 2 ^ p.1 - 1 then
         if fr = 0 then .inf neg else .nan (decide (fr < 2 ^ (p.2.1 - 1))) n
       else if ef = 0 then .fin neg fr (1 - p.2.2 - p.2.1)
       else .fin neg (2 ^ p.2.1 + fr) (ef - p.2.2 - p.2.1)) := by
  rcases hf with rfl | rfl <;>
    simp [decodeFmt, isIeee, isShort, Nat.testBit_eq_decide_div_mod_eq, Nat.shiftRight_eq_div_pow]

/-- A NaN keeps its code. -/
theorem decodeFmt_of_isNan {f n : Nat} (hf : f = 11 ∨ f = 12) (h : (decodeFmt f n).isNan = true) :
    decodeFmt f n = .nan (decodeFmt f n).signals n := by
  rw [decodeFmt_ieee hf] at h ⊢
  dsimp only at h ⊢
  split_ifs at h ⊢ <;> simp_all [Fp.isNan, Fp.signals]

/-- The sign of a value that is not a NaN is the top bit of its code. -/
theorem neg?_decodeFmt {f n : Nat} (hf : f = 11 ∨ f = 12) (h : (decodeFmt f n).isNan = false) :
    (decodeFmt f n).neg? = n.testBit (if f = 11 then 31 else 63) := by
  have hbit : (floatParams f).1 + (floatParams f).2.1 = if f = 11 then 31 else 63 := by
    rcases hf with rfl | rfl <;> rfl
  rw [decodeFmt_ieee hf] at h ⊢
  dsimp only at h ⊢
  rw [hbit] at h ⊢
  split_ifs at h ⊢ <;> simp_all [Fp.isNan, Fp.neg?]

/-- Making a NaN quiet sets the top bit of its fraction. -/
theorem quiet_ieee {f : Nat} (hf : f = 11 ∨ f = 12) (n : Nat) :
    quiet f n = if n.testBit (if f = 11 then 22 else 51) then n
      else n + 2 ^ (if f = 11 then 22 else 51) := by
  rcases hf with rfl | rfl <;> simp [quiet, floatParams, Nat.testBit_eq_decide_div_mod_eq]

/-! ### The NaN of a list of operands (R116) -/

/-- The code of a NaN. -/
def Fp.nanCode? : Fp → Option Nat
  | .nan _ c => some c
  | _ => none

theorem nanResult_eq (f : Nat) (ops : List Fp) :
    nanResult f ops = (((ops.findSome? Fp.nanCode?).map (quiet f)).getD (defaultNan f),
      if ops.any Fp.signals then fINV else 0) := by
  have h : nanResult f ops = (match ops.findSome? Fp.nanCode? with
      | some c => (quiet f c, if ops.any Fp.signals then fINV else 0)
      | none => (defaultNan f, if ops.any Fp.signals then fINV else 0)) := rfl
  rw [h]
  cases ops.findSome? Fp.nanCode? <;> rfl

theorem nanCode?_decodeFmt {f : Nat} (hf : f = 11 ∨ f = 12) (n : Nat) :
    (decodeFmt f n).nanCode? = Option.guard (fun n => (decodeFmt f n).isNan) n := by
  cases h : (decodeFmt f n).isNan with
  | true =>
    rw [decodeFmt_of_isNan hf h]
    simp [Fp.nanCode?, Option.guard, h]
  | false =>
    simp only [Option.guard, h]
    cases hx : decodeFmt f n <;> simp_all [Fp.isNan, Fp.nanCode?]

/-- The result is the first operand that is a NaN, made quiet, and INV where an operand signals. -/
theorem nanResult_decodeFmt {f : Nat} (hf : f = 11 ∨ f = 12) (ns : List Nat) :
    nanResult f (ns.map (decodeFmt f)) =
      (((ns.find? fun n => (decodeFmt f n).isNan).map (quiet f)).getD (defaultNan f),
        if ns.any (fun n => (decodeFmt f n).signals) then fINV else 0) := by
  have hcode : Fp.nanCode? ∘ decodeFmt f = Option.guard fun n => (decodeFmt f n).isNan :=
    funext (nanCode?_decodeFmt hf)
  rw [nanResult_eq, List.findSome?_map, hcode, ← List.find?_eq_findSome?_guard, List.any_map]
  rfl

theorem nanResult_one {f a : Nat} (hf : f = 11 ∨ f = 12) (h : (decodeFmt f a).isNan = true) :
    nanResult f [decodeFmt f a] = (quiet f a, if (decodeFmt f a).signals then fINV else 0) := by
  simpa [h] using nanResult_decodeFmt hf [a]

theorem nanResult_two {f a b : Nat} (hf : f = 11 ∨ f = 12)
    (h : ((decodeFmt f a).isNan || (decodeFmt f b).isNan) = true) :
    nanResult f [decodeFmt f a, decodeFmt f b] =
      (quiet f (if (decodeFmt f a).isNan then a else b),
        if (decodeFmt f a).signals || (decodeFmt f b).signals then fINV else 0) := by
  have hr := nanResult_decodeFmt hf [a, b]
  cases ha : (decodeFmt f a).isNan with
  | true => simpa [ha] using hr
  | false =>
    have hb : (decodeFmt f b).isNan = true := by simpa [ha] using h
    simpa [ha, hb] using hr

theorem nanResult_three {f a b c : Nat} (hf : f = 11 ∨ f = 12)
    (h : ((decodeFmt f a).isNan || (decodeFmt f b).isNan || (decodeFmt f c).isNan) = true) :
    nanResult f [decodeFmt f a, decodeFmt f b, decodeFmt f c] =
      (quiet f (if (decodeFmt f a).isNan then a else if (decodeFmt f b).isNan then b else c),
        if (decodeFmt f a).signals || (decodeFmt f b).signals || (decodeFmt f c).signals
          then fINV else 0) := by
  have hr := nanResult_decodeFmt hf [a, b, c]
  cases ha : (decodeFmt f a).isNan with
  | true => simpa [ha, or_assoc] using hr
  | false =>
    cases hb : (decodeFmt f b).isNan with
    | true => simpa [ha, hb, or_assoc] using hr
    | false =>
      have hc : (decodeFmt f c).isNan = true := by simpa [ha, hb] using h
      simpa [ha, hb, hc, or_assoc] using hr

/-! ### Sums and products that do not exist -/

/-- The exact product exists except for 0 × ∞. -/
theorem isNone_fpMulExact {x y : Fp} (hx : x.isNan = false) (hy : y.isNan = false) :
    (fpMulExact x y).isNone = zeroTimesInf x y := by
  match x, y with
  | .inf _, .inf _ => rfl
  | .inf _, .fin _ m _ =>
    by_cases hm : m = 0 <;> simp [fpMulExact, zeroTimesInf, Fp.isZero, Fp.isInf, hm]
  | .fin _ m _, .inf _ =>
    by_cases hm : m = 0 <;> simp [fpMulExact, zeroTimesInf, Fp.isZero, Fp.isInf, hm]
  | .fin .., .fin .. => simp [fpMulExact, zeroTimesInf, Fp.isInf]

/-- A NaN is no zero and no infinity. -/
theorem isNan_of_zeroTimesInf {x y : Fp} (h : zeroTimesInf x y = true) :
    x.isNan = false ∧ y.isNan = false := by
  simp only [zeroTimesInf, Bool.or_eq_true, Bool.and_eq_true] at h
  obtain ⟨hx, hy⟩ | ⟨hx, hy⟩ := h
  · exact ⟨isNan_of_isZero hx, isNan_of_isInf hy⟩
  · exact ⟨isNan_of_isInf hx, isNan_of_isZero hy⟩

theorem fpMulExact_of_zeroTimesInf {x y : Fp} (h : zeroTimesInf x y = true) :
    fpMulExact x y = none := by
  obtain ⟨hx, hy⟩ := isNan_of_zeroTimesInf h
  rwa [← Option.isNone_iff_eq_none, isNone_fpMulExact hx hy]

/-- An infinite factor makes a product that exists the infinity of the factors' signs. -/
theorem fpMulExact_of_isInf {x y p : Fp} (h : (x.isInf || y.isInf) = true)
    (hp : fpMulExact x y = some p) : p = .inf (x.neg? != y.neg?) := by
  match x, y with
  | .inf _, .inf _ => exact (Option.some.inj hp).symm
  | .inf _, .fin _ m _ =>
    by_cases hm : m = 0 <;> simp_all [fpMulExact, Fp.neg?]
  | .fin _ m _, .inf _ =>
    by_cases hm : m = 0 <;> simp_all [fpMulExact, Fp.neg?]

/-- The difference of equal infinities has no exact sum. -/
theorem fpAddExact_of_opposite_infs {x y : Fp} (rm : Nat) (hx : x.isInf = true)
    (hy : y.isInf = true) (hn : x.neg? ≠ y.neg?) : fpAddExact rm x y = none := by
  rw [Fp.eq_inf_of_isInf hx, Fp.eq_inf_of_isInf hy]
  simp [fpAddExact, hn]

/-! ### Operations with a NaN operand -/

/-- A sum, difference, product or quotient with a NaN operand is the NaN R116 selects. -/
theorem arith_of_isNan {f rm a b : Nat} {op : Nat → Nat → Nat → Nat → Nat × FFlags}
    (hop : op ∈ [fpAdd, fpSub, fpMul, fpDiv])
    (h : ((decodeFmt f a).isNan || (decodeFmt f b).isNan) = true) :
    op f rm a b = nanResult f [decodeFmt f a, decodeFmt f b] := by
  simp only [List.mem_cons, List.not_mem_nil, or_false] at hop
  obtain rfl | rfl | rfl | rfl := hop <;> exact if_pos h

theorem fpSqrt_of_isNan {f rm a : Nat} (hf : f = 11 ∨ f = 12)
    (h : (decodeFmt f a).isNan = true) : fpSqrt f rm a = nanResult f [decodeFmt f a] := by
  rw [fpSqrt, decodeFmt_of_isNan hf h]

theorem fpMinMax_of_isNan {f a b : Nat} (m : Bool) (ha : (decodeFmt f a).isNan = true)
    (hb : (decodeFmt f b).isNan = true) :
    fpMinMax f m a b = nanResult f [decodeFmt f a, decodeFmt f b] := by
  simp [fpMinMax, ha, hb]

/-- A fused form with a NaN operand gives the NaN R116 selects, and INV also where its product is
0 × ∞ (R117). -/
theorem fpFma_of_isNan {f rm a b c : Nat} (hf : f = 11 ∨ f = 12) (p n : Bool)
    (h : ((decodeFmt f a).isNan || (decodeFmt f b).isNan || (decodeFmt f c).isNan) = true) :
    fpFma f rm p n a b c =
      (quiet f (if (decodeFmt f a).isNan then a else if (decodeFmt f b).isNan then b else c),
        if (decodeFmt f a).signals || (decodeFmt f b).signals || (decodeFmt f c).signals ||
          zeroTimesInf (decodeFmt f a) (decodeFmt f b) then fINV else 0) := by
  have hzero : (!(decodeFmt f a).isNan && !(decodeFmt f b).isNan &&
      (fpMulExact (decodeFmt f a) (decodeFmt f b)).isNone) =
        zeroTimesInf (decodeFmt f a) (decodeFmt f b) := by
    cases hab : (decodeFmt f a).isNan || (decodeFmt f b).isNan with
    | true =>
      have hz : zeroTimesInf (decodeFmt f a) (decodeFmt f b) = false :=
        Bool.eq_false_iff.mpr fun hz => by simp [isNan_of_zeroTimesInf hz] at hab
      rw [hz, ← Bool.not_or, hab]
      rfl
    | false =>
      obtain ⟨ha, hb⟩ := Bool.or_eq_false_iff.mp hab
      simp [ha, hb, isNone_fpMulExact ha hb]
  simp only [fpFma, h, hzero, if_true, nanResult_three hf h]
  congr 1
  cases zeroTimesInf (decodeFmt f a) (decodeFmt f b) with
  | false => simp
  | true =>
    simp only [Bool.or_true, if_true]
    split <;> rfl

/-! ### Invalid operations on operands that are no NaN -/

theorem fpAdd_of_opposite_infs {f rm a b : Nat} (ha : (decodeFmt f a).isInf = true)
    (hb : (decodeFmt f b).isInf = true) (hn : (decodeFmt f a).neg? ≠ (decodeFmt f b).neg?) :
    fpAdd f rm a b = (defaultNan f, fINV) := by
  simp [fpAdd, isNan_of_isInf ha, isNan_of_isInf hb, fpAddExact_of_opposite_infs rm ha hb hn]

theorem fpSub_of_equal_infs {f rm a b : Nat} (ha : (decodeFmt f a).isInf = true)
    (hb : (decodeFmt f b).isInf = true) (hn : (decodeFmt f a).neg? = (decodeFmt f b).neg?) :
    fpSub f rm a b = (defaultNan f, fINV) := by
  have hne : (decodeFmt f a).neg? ≠ (fpNeg (decodeFmt f b)).neg? := by
    simp [neg?_fpNeg (isNan_of_isInf hb), hn]
  simp [fpSub, isNan_of_isInf ha, isNan_of_isInf hb,
    fpAddExact_of_opposite_infs rm ha (by simpa using hb) hne]

theorem fpMul_of_zeroTimesInf {f rm a b : Nat}
    (h : zeroTimesInf (decodeFmt f a) (decodeFmt f b) = true) :
    fpMul f rm a b = (defaultNan f, fINV) := by
  simp [fpMul, isNan_of_zeroTimesInf h, fpMulExact_of_zeroTimesInf h]

/-- 0 / 0 and ∞ / ∞. -/
theorem fpDiv_of_same_kind {f rm a b : Nat}
    (h : ((decodeFmt f a).isZero && (decodeFmt f b).isZero ||
      (decodeFmt f a).isInf && (decodeFmt f b).isInf) = true) :
    fpDiv f rm a b = (defaultNan f, fINV) := by
  simp only [Bool.or_eq_true, Bool.and_eq_true] at h
  obtain ⟨ha, hb⟩ | ⟨ha, hb⟩ := h
  · obtain ⟨e, hx⟩ := Fp.eq_fin_zero_of_isZero ha
    obtain ⟨g, hy⟩ := Fp.eq_fin_zero_of_isZero hb
    rw [fpDiv, hx, hy]
    simp [Fp.isNan]
  · rw [fpDiv, Fp.eq_inf_of_isInf ha, Fp.eq_inf_of_isInf hb]
    simp [Fp.isNan]

theorem fpSqrt_of_negative {f rm a : Nat} (h : (decodeFmt f a).isNan = false)
    (hn : (decodeFmt f a).neg? = true) (hz : (decodeFmt f a).isZero = false) :
    fpSqrt f rm a = (defaultNan f, fINV) := by
  cases hx : decodeFmt f a with
  | nan s c => simp [hx, Fp.isNan] at h
  | inf n => simp_all [fpSqrt, Fp.neg?]
  | fin n m e => simp_all [fpSqrt, Fp.neg?, Fp.isZero]

/-- A fused form whose product is 0 × ∞, or whose sum is the difference of equal infinities. -/
theorem fpFma_of_invalid {f rm a b c : Nat} (p n : Bool) (ha : (decodeFmt f a).isNan = false)
    (hb : (decodeFmt f b).isNan = false) (hc : (decodeFmt f c).isNan = false)
    (h : zeroTimesInf (decodeFmt f a) (decodeFmt f b) = true ∨
      ((decodeFmt f a).isInf || (decodeFmt f b).isInf) = true ∧ (decodeFmt f c).isInf = true ∧
        (((decodeFmt f a).neg? != (decodeFmt f b).neg?) != p) ≠ ((decodeFmt f c).neg? != n)) :
    fpFma f rm p n a b c = (defaultNan f, fINV) := by
  simp only [fpFma, ha, hb, hc, Bool.or_self, Bool.false_eq_true, if_false]
  cases hm : fpMulExact (decodeFmt f a) (decodeFmt f b) with
  | none => rfl
  | some q =>
    obtain hz | ⟨hinf, hcinf, hne⟩ := h
    · simp [fpMulExact_of_zeroTimesInf hz] at hm
    have hq := fpMulExact_of_isInf hinf hm
    have hsum : fpAddExact rm (if p then fpNeg q else q)
        (if n then fpNeg (decodeFmt f c) else decodeFmt f c) = none := by
      apply fpAddExact_of_opposite_infs
      · rw [isInf_fpNeg_if, hq]
        rfl
      · simpa using hcinf
      · rw [neg?_fpNeg_if (by rw [hq]; rfl), neg?_fpNeg_if hc, hq]
        exact hne
    simp only [hsum]

/-! ### Conversions of a NaN between FP32 and FP64 -/

theorem nanMove_widen {a : Nat} (ha : a < 2 ^ 32) :
    nanMove 11 12 a =
      a / 2 ^ 31 * 2 ^ 63 + 0x7FF0000000000000 + quiet 11 a % 2 ^ 23 * 2 ^ 29 := by
  simp only [nanMove, quiet, infCode, signCode, floatParams, Nat.shiftLeft_eq]
  norm_num
  split_ifs <;> omega

theorem nanMove_narrow {a : Nat} (ha : a < 2 ^ 64) :
    nanMove 12 11 a =
      a / 2 ^ 63 * 2 ^ 31 + 0x7F800000 + quiet 12 a % 2 ^ 52 / 2 ^ 29 := by
  simp only [nanMove, quiet, infCode, signCode, floatParams, Nat.shiftRight_eq_div_pow]
  norm_num
  split_ifs <;> omega

/-- A conversion between FP32 and FP64 carries the payload of a NaN over. -/
theorem convFmt_of_isNan {src dst a : Nat} (rm rnd r : Nat) (hs : src = 11 ∨ src = 12)
    (hd : dst = 11 ∨ dst = 12) (h : (decodeFmt src a).isNan = true) :
    convFmt src dst rm rnd r (decodeFmt src a) =
      (nanMove src dst a, if (decodeFmt src a).signals then fINV else 0) := by
  have hshort : isShort dst = false := by rcases hd with rfl | rfl <;> rfl
  have hsrc : isIeee src = true := by rcases hs with rfl | rfl <;> rfl
  have hdst : isIeee dst = true := by rcases hd with rfl | rfl <;> rfl
  have hx := decodeFmt_of_isNan hs h
  generalize (decodeFmt src a).signals = sg at hx ⊢
  rw [hx]
  simp [convFmt, hshort, hsrc, hdst]

/-! ### The obligation -/

/-- Settles O19: an operation with a NaN operand is the NaN of its operand list, and an invalid one
has no exact result. -/
theorem nanRules : Obligations.NaNRules := by
  unfold Obligations.NaNRules
  intro f rm a b c hf nan signals quietOf dflt inv zero inf neg
  have hquiet (k : Nat) : quietOf k = quiet f k := (quiet_ieee hf k).symm
  have hdflt : dflt = defaultNan f := by rcases hf with rfl | rfl <;> rfl
  have hneg {k : Nat} (h : nan k = false) : neg k = (decodeFmt f k).neg? :=
    (neg?_decodeFmt hf h).symm
  refine ⟨fun op hop h => ?_, fun h => ?_, fun p n h => ?_, fun ha hb m => ?_, fun rnd r h => ?_,
    fun ha hb hc => ?_⟩
  · rw [hquiet, arith_of_isNan hop h]
    exact nanResult_two hf h
  · rw [hquiet, fpSqrt_of_isNan hf h]
    exact nanResult_one hf h
  · rw [hquiet, fpFma_of_isNan hf p n h]
    exact ⟨rfl, rfl⟩
  · rw [fpMinMax_of_isNan m ha hb, nanResult_two hf (Bool.or_eq_true_iff.mpr (.inl ha)), hquiet,
      if_pos ha]
    rfl
  · constructor
    · rintro rfl hlt
      rw [hquiet, ← nanMove_widen hlt]
      exact convFmt_of_isNan rm rnd r hf (.inr rfl) h
    · rintro rfl hlt
      rw [hquiet, ← nanMove_narrow hlt]
      exact convFmt_of_isNan rm rnd r hf (.inl rfl) h
  · rw [hdflt, hneg ha, hneg hb, hneg hc]
    refine ⟨fpAdd_of_opposite_infs, fpSub_of_equal_infs, fpMul_of_zeroTimesInf, fpDiv_of_same_kind,
      fpSqrt_of_negative ha, fun p n h => fpFma_of_invalid p n ha hb hc ?_⟩
    obtain h | h := Bool.or_eq_true_iff.mp h
    · exact .inl h
    · obtain ⟨hinfs, hsign⟩ := Bool.and_eq_true_iff.mp h
      obtain ⟨hab, hcinf⟩ := Bool.and_eq_true_iff.mp hinfs
      exact .inr ⟨hab, hcinf, bne_iff_ne.mp hsign⟩

end Sys2Proof.Machine
end
